-- ==== Sys2Proof/Word.lean ====
section
/-! DEFINITION. The words of the TLV-8192 and the plain shapes that name a field of a register. -/

namespace Sys2Proof

/-- A byte of SRAM or of host memory. -/
abbrev Byte := BitVec 8

/-- A 32-bit register word (R12). -/
abbrev Word := BitVec 32

/-- A 64-bit flag word, queue entry or pair (R348, R343, R430). -/
abbrev Word64 := BitVec 64

/-- One field of a register: the byte offset of its register, its lowest bit and its width.
A field wider than 32 bits is a 64-bit pair of Table 18-3, held at the offset of its LO half. -/
structure Field where
  off : Nat
  lo : Nat
  w : Nat
  deriving DecidableEq, Repr

/-- The field of the same register in the window that starts at `base`. -/
def Field.at (f : Field) (base : Nat) : Field := ⟨f.off + base, f.lo, f.w⟩

/-- The key of a field in the register file. -/
def Field.key (f : Field) : Nat := f.off * 32 + f.lo

/-- Windows of BAR0 (Tables 18-1 and 18-2). -/
inductive Blk where
  | glb | sch | kvc | wgt | pwr | port | lnk | cxl | ring | bell | sq | flg | dlk | mtr
  | hoist | pnt | vec | bnt | none
  deriving DecidableEq, Repr

/-- Access codes (R12). `own` is a field whose write is an operation with a row of its own. -/
inductive Access where
  | ro | rw | w1c | rwl | rws | rwf | own
  deriving DecidableEq, Repr

/-- How an illegal written value is replaced (Table 10-12). -/
inductive Clamp where
  /-- Every value is legal. -/
  | any
  /-- A value outside the range takes the nearest end of it. -/
  | nearest (least most : Nat)
  /-- A value at or above `m` is replaced by `v`. -/
  | atLeast (m v : Nat)
  /-- The nearest of 64, 128, 256, 512, 1024, the lower on a tie. -/
  | rows
  /-- Size exponent of a ring: 4 to 20, or 16 to 30 on ring 9. -/
  | ringLog
  /-- An address whose low bits are reserved and read 0. -/
  | align (n : Nat)
  deriving DecidableEq, Repr

/-- Conditions under which a frozen field ignores a write (Table 10-9, R320, Table 12-8). -/
inductive Frozen where
  | never | convEn | imageActive | bank0 | bank1 | watchEn | cxlBlocks | cxlEn | wgtBusy | ensBusy
  | ringEn | imageEver
  deriving DecidableEq, Repr

/-- One row of a field table. A register repeated per array, slot or sensor has a stride and a count. -/
structure FieldSpec where
  field : Field
  acc : Access
  rst : Nat
  clamp : Clamp
  frz : Frozen
  stride : Nat
  count : Nat
  deriving DecidableEq, Repr

end Sys2Proof
end

