-- ==== Sys2Proof/Types.lean ====
section
/-! DEFINITION. The shapes of what commands carry and of what State keeps of them: plans, prompt headers, messages,
ensign images, fault and event entries. Units and identities are named by the chapter that numbers them. -/

namespace Sys2Proof

/-- Identities that every value of the width names. -/
abbrev Requester := BitVec 2
abbrev TenantId := BitVec 12
abbrev SeqId := BitVec 15
/-- A sequence as the part numbers it: bits 14:0 the sequence ID, bit 16 set for a sequence of the lost instance whose
position a promoted part carries (R305); bit 15 is 0. -/
abbrev SeqKey := BitVec 17
abbrev ArrayIx := BitVec 13
abbrev PntIx := BitVec 9
abbrev HoistIx := BitVec 5
abbrev RegionIx := BitVec 3
abbrev TileIx := BitVec 6
abbrev SliceIx := BitVec 6
abbrev SqIx := BitVec 6
abbrev EpochSlot := BitVec 2
abbrev LayerSlot := BitVec 6

/-- What the parity check of a register-ring access finds: good, bad once and good on the repeat, bad twice (R410). -/
inductive Parity where
  | good | badOnce | badTwice
  deriving DecidableEq, Repr

/-- What a word's check bytes show where it is read (R409, R411). -/
inductive Ecc where
  | clean | corrected | uncorrectable
  deriving DecidableEq, Repr

/-- How a transfer arrives: whole, corrected in line, whole after one repeat, or not at all (R409, R412); `hoist` says that
the hoist switch or chain carried the failing leg, not the halyard. -/
inductive Xfer where
  | arrived
  | corrected (hoist : Bool)
  | repeated (hoist : Bool)
  | failed (hoist : Bool)
  deriving DecidableEq, Repr

/-- A halyard request (R26). -/
inductive SramOp where
  | read (len : Nat)
  | write (bytes : List Byte)
  deriving DecidableEq, Repr

/-- Bytes of a halyard request. -/
def sramOpLen : SramOp → Nat
  | .read n => n
  | .write l => l.length

/-- What a line of SRAM holds, where the part keeps it there and a poisoned line acts on it (Table 17-2). -/
inductive LineHolds where
  | data
  | vector (step : Nat)
  | plan (step : Nat)
  | dirEntry (lslot seq blk : Nat)
  | seqRecord (seq : Nat)
  | slotKey (slot : EpochSlot) (both : Bool)
  | tenantSecret (ten : TenantId) (both : Bool)
  deriving DecidableEq, Repr

/-- Conditions of a WAIT (Table 13-6). -/
inductive WaitCond where
  | ge | ge32 | eq | ne
  deriving DecidableEq, Repr

/-- Agents of the deadlock detector, by the kinds of Table 13-16. -/
inductive AgentKind where
  | quantiser | outputPath | vectorUnit | tile | seqCore | portSender | ringEngine
  deriving DecidableEq, Repr

/-- Kind of a wait in a deadlock snapshot (Table 13-16). -/
inductive WaitKind where
  | wait | queueFull | queueEmpty | credit
  deriving DecidableEq, Repr

/-- One WAIT operation (R350). -/
structure WaitSpec where
  port : Nat
  addr : Nat
  cond : WaitCond
  target : Word64
  monitor : Bool
  ext : Bool
  agent : AgentKind
  agentIx : Nat
  step : Option Nat
  deriving DecidableEq, Repr

/-- A wait of another kind that the detector sees: a full or empty queue or a missing credit (R351). -/
structure QueueWait where
  agent : AgentKind
  agentIx : Nat
  kind : WaitKind
  ext : Bool
  queue : Nat
  step : Option Nat
  deriving DecidableEq, Repr

/-- Block table entry of a layer section (Table 9-3). -/
structure BlockEntry where
  block : Nat
  chunk : Nat
  pos : Nat
  matrix : Nat
  role : Nat
  row0 : Nat
  rows : Nat
  cols : Nat
  col0 : Nat
  deriving DecidableEq, Repr

/-- Chunk table entry: chunk index and digest (R234). -/
structure ChunkEntry where
  index : Nat
  digest : List Byte
  deriving DecidableEq, Repr

/-- Residues of a block, by row × 16 + group (R59). -/
structure BlockResidues where
  block : Nat
  vals : List (Nat × Int)
  deriving DecidableEq, Repr

/-- Parameters of an output column of a matrix (R133): E8M0 exponent, FP16 multiplier, FP32 bias. -/
structure ColumnEntry where
  matrix : Nat
  column : Nat
  x : BitVec 8
  m : BitVec 16
  bias : BitVec 32
  deriving DecidableEq, Repr

/-- What a section holds: its tables, the decrypted parameters (none where the tag fails), or tile weights. -/
inductive SectBody where
  | layer (chunks : List ChunkEntry) (blocks : List BlockEntry)
  | params (plain : Option (List BlockResidues × List ColumnEntry))
  | tile
  deriving DecidableEq, Repr

/-- An image component as it arrives (R232 to R237): its bytes as stored and, where it is encrypted, what the decryption
engine gives: the plaintext, or nothing where the tag fails. -/
inductive ImgComp where
  | root (bytes : List Byte)
  | wrap (bytes : List Byte) (key : Option (List Byte))
  | sect (ix : Nat) (bytes : List Byte) (body : SectBody)
  | chunk (lslot ix : Nat) (bytes : List Byte) (plain : Option (List Byte))
  deriving DecidableEq, Repr

/-- Which component (R238). -/
inductive CompId where
  | root | wrap
  | sect (ix : Nat)
  | chunk (lslot ix : Nat)
  deriving DecidableEq, Repr

/-- States of a sequence (Table 7-2). -/
inductive SeqState where
  | free | prefill | generate | waiting | paused
  deriving DecidableEq, Repr

/-- Sampling parameters of a sequence, after the clamps of Table 7-3. -/
structure Sampling where
  temp : BitVec 16
  topp : BitVec 16
  topk : Nat
  logp : Bool
  deriving DecidableEq, Repr

/-- A sequence record (R178), with the depth controller's state (R229). -/
structure SeqRec where
  state : SeqState
  ten : Nat
  len : Nat
  epoch : Nat
  adapter : Option Nat
  samp : Sampling
  kmax : Nat
  maxNew : Nat
  newCount : Nat
  /-- Tokens of the entry not yet committed, and the index in the entry of the first of them. -/
  prompt : List Nat
  promptIx : Nat
  /-- Before the first chunk of an entry is composed: the state before the entry (R179). -/
  undo : Option SeqState
  retry : Nat
  inStep : Option Nat
  releasing : Bool
  pausing : Option Nat
  stepped : Nat
  lastCommit : Nat
  waitSince : Nat
  expiry : Nat
  order : Nat
  rate : BitVec 16
  zeros : Nat
  off : Bool
  probe : Nat
  deriving DecidableEq, Repr

/-- A prompt entry header (Table 7-3). -/
structure PromptHeader where
  op : BitVec 8
  flags : BitVec 8
  ten : TenantId
  seq : SeqId
  kmax : BitVec 8
  ntok : BitVec 32
  maxnew : BitVec 32
  temp : BitVec 16
  topp : BitVec 16
  topk : BitVec 16
  tokaddr : Word64
  deriving DecidableEq, Repr

/-- The header of a command-ring entry (Table 12-3), without its OP. -/
structure CmdHead where
  quiet : Bool
  tag : BitVec 16
  ten : TenantId
  seq : SeqId
  deriving DecidableEq, Repr

/-- Tenant-table entry (Table 7-1). -/
structure Tenant where
  valid : Bool
  cls : Nat
  weight : Nat
  maxSeq : Nat
  quota : Nat
  accept : Bool
  stop : List Nat
  adapter : Option (Nat × Nat × Nat)
  /-- Earlier adapter versions that live sequences hold, with their staging ranges (R258). -/
  older : List (Nat × Nat × Nat)
  deriving DecidableEq, Repr

/-- Class-table entry: priority and generation latency target in µs. -/
structure ClassEntry where
  prio : Nat
  target : Nat
  deriving DecidableEq, Repr

/-- One sequence of a step plan (Table 7-4). -/
structure PlanEntry where
  ten : TenantId
  seq : SeqKey
  gen : Bool
  len : Nat
  k : Nat
  chunk : Nat
  epoch : Nat
  adapter : Option Nat
  samp : Sampling
  accept : Bool
  /-- Hot blocks and staged blocks of the sequence that the step names, as (layer slot, block). -/
  blocks : List (Nat × Nat)
  deriving DecidableEq, Repr

/-- A bunting load that a plan orders (R168). -/
structure BankLoad where
  tile : TileIx
  bank : Bool
  tenant : TenantId
  kind : BitVec 2
  version : BitVec 16
  src : Nat
  len : Nat
  deriving DecidableEq, Repr

/-- A bank that the plan's vectors read, with the tag they carry (R167). -/
structure BankUse where
  tile : TileIx
  bank : Bool
  tenant : TenantId
  kind : BitVec 2
  version : BitVec 16
  deriving DecidableEq, Repr

/-- Predicted energy in nJ, time in ns and power in µW of a step on one part (R189, R192), by instance position. -/
structure PartPred where
  pos : Nat
  energy : Nat
  time : Nat
  power : Int
  deriving DecidableEq, Repr

/-- Operation counts of a step on one part, from which R189 predicts its energy with Table 7-5 and R192 its time: what
every step takes, and what each generation and each prefill position adds. Slot energies are in pJ (R72). -/
structure OpCounts where
  slotPj : Nat
  slots : Nat
  bunting : Nat
  denseBf : Nat
  denseF8 : Nat
  element : Nat
  func : Nat
  sramB : Nat
  lenrikB : Nat
  idleSlots : Nat
  deriving DecidableEq, Repr

/-- The work of one bunting tile in a step: bytes and compute time of each load, the reserved rate and T_L (R172). -/
structure TileWork where
  loads : List (Nat × Nat)
  rate : Nat
  tl : Nat
  deriving DecidableEq, Repr

/-- What a part's share of a composition costs (R189, R190, R192). -/
structure PartCost where
  pos : Nat
  base : OpCounts
  perGen : OpCounts
  perPre : OpCounts
  /-- T_fix in ns, mean slots per read in 1/1000, key/value bytes per hoist, boundary bytes per position, paths. -/
  tFix : Nat
  milliSlots : Nat
  kvBytes : Nat
  boundary : Nat
  paths : Nat
  tiles : List TileWork
  /-- The part reports free hot blocks for the step's provisional slots (R224). -/
  hotOk : Bool
  deriving DecidableEq, Repr

/-- A generation sequence offered for a step: its blocks, and the proposals the guidon drew (R221). -/
structure CompGen where
  seq : SeqKey
  drawn : Nat
  blocks : List (Nat × Nat)
  deriving DecidableEq, Repr

/-- A prefill sequence offered for a step. -/
structure CompPre where
  seq : SeqKey
  chunk : Nat
  blocks : List (Nat × Nat)
  deriving DecidableEq, Repr

/-- What the head part's sequencer composes from (R184): the sequences in the order it chose them, the costs on every
part, and the plan's per-layer content. -/
structure Composition where
  /-- A step of the lost instance, by a part promoted for its head part (R305). -/
  lost : Bool
  wave : Nat
  gens : List CompGen
  pres : List CompPre
  costs : List PartCost
  recipes : List (Nat × Nat)
  loads : List BankLoad
  uses : List BankUse
  frees : List (TileIx × Bool)
  fetches : List (Nat × Nat × Nat)
  flags : List (Nat × Word64)
  deriving DecidableEq, Repr

/-- A step plan (Table 7-4). -/
structure Plan where
  step : Nat
  wave : Nat
  entries : List PlanEntry
  /-- Recipe index of each layer slot that changes, with the index (R146). -/
  recipes : List (Nat × Nat)
  preds : List PartPred
  loads : List BankLoad
  uses : List BankUse
  /-- Banks that the plan releases (Table 6-3). -/
  frees : List (TileIx × Bool)
  /-- CXL-tier blocks to fetch, in plan order (R214): layer slot, sequence, block. -/
  fetches : List (Nat × Nat × Nat)
  /-- Flag words that the plan initialises, with the value (R348). -/
  flags : List (Nat × Word64)
  deriving DecidableEq, Repr

/-- What the output part accepted for one sequence: accepted drafts and the tokens emitted; no token where the
distribution had a NaN maximum (R195). -/
structure Accepted where
  seq : SeqKey
  acc : Nat
  tokens : List Nat
  logps : List (BitVec 16)
  nan : Bool
  deriving DecidableEq, Repr

/-- An event before its 32-byte record is formed (Table 7-8). -/
structure Event where
  code : Nat
  src : Nat
  ten : Nat
  seq : Nat
  ltime : Nat
  step : Nat
  detail : Nat
  deriving DecidableEq, Repr

/-- An entry of the fault collector (R418). -/
structure FaultEntry where
  code : Nat
  src : Nat
  ltime : Nat
  detail : Nat
  count : Nat
  deriving DecidableEq, Repr

/-- What a message of Table 11-4 carries beyond its header. Where the spec gives a message no payload layout, the
payload stands as the values it conveys. -/
inductive MsgBody where
  | empty
  /-- Whole vectors, by the tenant of each. -/
  | vectors (tens : List Nat)
  | plan (p : Plan)
  | ready (pos : Nat)
  | accepted (l : List Accepted)
  | event (e : Event)
  | failure (pos cause : Nat)
  | headroom (pos h theta rth kappa : Nat)
  | resend (lslot chunk : Nat)
  | discard (seq : Nat)
  | route (pos : Nat)
  | block (slot seq blk : Nat)
  | partials (ten : Nat)
  | drafts (n : Nat)
  | seqs (l : List Nat)
  | component (c : CompId)
  | epochZero (epoch : Nat)
  /-- A part of the instance is silent (R301). -/
  | silent (pod : Nat)
  | query (ten : Nat)
  deriving DecidableEq, Repr

/-- A message (Tables 11-4 and 11-6a). -/
structure Msg where
  typ : Nat
  relay : Bool
  last : Bool
  dpod : Nat
  spod : Nat
  layer : Nat
  step : Nat
  vec0 : Nat
  /-- Payload length in 64-byte units. -/
  len : Nat
  body : MsgBody
  deriving DecidableEq, Repr

/-- What a UIO request to the memory tier serves (R326): a fetch of a plan's block, a block move, mirror records. -/
inductive UioUse where
  | fetch (step lslot seq blk : Nat)
  | move (lslot seq blk : Nat)
  | mirror (ten step : Nat)
  deriving DecidableEq, Repr

/-- Arguments of a TENANT_SET command (Table 12-4). -/
structure TenantArgs where
  valid : Bool
  cls : BitVec 8
  weight : BitVec 8
  accept : Bool
  maxSeq : BitVec 16
  quota : BitVec 16
  stop : List (BitVec 32)
  version : BitVec 16
  present : Bool
  staging : BitVec 32
  length : BitVec 32
  deriving DecidableEq, Repr

/-- How a read of bytes in host memory ends. -/
inductive ReadEnd where
  | ok (l : List Byte)
  | unreadable
  deriving DecidableEq, Repr

/-- Where a moving block goes (R215). -/
inductive MoveDest where
  | hot | peer (port : Nat) | cxl
  deriving DecidableEq, Repr

/-- A maintenance activity (Table 14-7). -/
inductive MntAct where
  | round (pnt : Nat) (first : Bool)
  | spareProg (src : Nat)
  | repair (arr : Nat)
  | diag (arr : Nat)
  | readback (arr : Nat)
  | startup (arr : Nat)
  | resync
  | move (lslot seq blk : Nat) (dest : MoveDest)
  /-- A block kept for the peer of a pod address goes to the CXL tier (R216). -/
  | lentMove (pod lslot seq blk : Nat)
  | compaction
  | touchUp (src : Nat)
  | install (arr : Nat)
  | scrub (slice : Nat)
  | snapshot
  deriving DecidableEq, Repr

/-- Rounding class of an output vector, by the destination the step plan gives it (R119, R139). -/
inductive OutClass where
  | plain
  | resid
  | kv (lslot : Nat)
  deriving DecidableEq, Repr

/-- What the step plan says of one vector of a chain: its number in read order, whose it is, the weights it meets and
where it goes. -/
structure VecTag where
  vid : Nat
  step : Nat
  ten : Nat
  seq : Nat
  epoch : Nat
  layer : Nat
  matrix : Nat
  cls : OutClass
  /-- A provisional draft position whose acceptance is not decided (R140); the last vector of its sequence (R138). -/
  prov : Bool
  lastOfSeq : Bool
  /-- An adapter delta is due (R171). -/
  adapter : Bool
  /-- Where the destination is SRAM: the address of the segment's word in the header table, and of its elements (R128). -/
  addr : Option (Nat × Nat)
  deriving DecidableEq, Repr

/-- A segment of a vector (R128): format code of Table 5-4, elements, block scales, and its maximum once present. -/
structure Segment where
  fmt : Nat
  elems : List Nat
  scales : List Nat
  max : Option Nat
  deriving DecidableEq, Repr

/-- Header fields of a flit (Table 11-3). -/
structure FlitHead where
  fseq : BitVec 12
  vc : BitVec 2
  null : Bool
  nak : Bool
  ackseq : BitVec 12
  crvc : BitVec 2
  crcnt : BitVec 8
  deriving DecidableEq, Repr

/-- A flit as its codewords show it: how many were corrected, whether one could not be (R286), and the payload bytes of
messages in it by meter account (R290, Table 15-2). -/
structure Flit where
  head : FlitHead
  corrected : Nat
  uncorrectable : Bool
  shares : List (BitVec 16 × Nat)
  deriving DecidableEq, Repr

/-- Committed positions of a block as mirrored to the partner (R303): slots `lo` to `lo + n − 1` of a block. -/
structure MirrorItem where
  ten : TenantId
  seq : SeqId
  lslot : LayerSlot
  blk : BitVec 12
  fmt : BitVec 3
  lo : Nat
  n : Nat
  deriving DecidableEq, Repr

/-- What a block-copy message (type 0x05) carries and why (R211, R215, R216, R305, R415). -/
inductive CopyUse where
  /-- A borrower's block arrives in this part's lent space. -/
  | lend (ten : TenantId) (fmt : BitVec 3) (first : BitVec 8) (fill : BitVec 9) (bytes : List Byte)
  /-- A borrower asks for its block back; the lender's copy arrives. -/
  | want
  | back (bytes : List Byte)
  /-- The lender has copied the block to the CXL tier; the borrower has switched its entry. -/
  | toCxl (nonce : Nat)
  | freed
  /-- A block of the position that a promoted part hands back. -/
  | handback (ten : TenantId) (fmt : BitVec 3) (first : BitVec 8) (fill : BitVec 9) (bytes : List Byte)
  /-- A part asks for a killed block; the partner's committed positions arrive, or it cannot supply them. -/
  | askRestore
  | restore (bytes : Option (List Byte))
  deriving DecidableEq, Repr

/-- ROUTE entry (Table 11-8). -/
structure RouteEntry where
  dpod : Nat
  direct : Nat
  nrel : Nat
  upmask : Nat
  relay : List Nat
  weights : List Nat
  alt : Nat
  deriving DecidableEq, Repr

/-- ROUTE section (Table 11-7). -/
structure RouteSection where
  spareSlot : Nat
  relayBuf : Nat
  mirrorBuf : Nat
  enmask : Nat
  partner : Nat
  lossTmo : Nat
  entries : List RouteEntry
  deriving DecidableEq, Repr

/-- A recipe entry of a LAYER section (R268). -/
structure Recipe where
  defined : Bool
  width : Nat
  avg : Nat
  promote : Nat
  kvfmt : Nat
  qfmt : Nat
  requant : Bool
  /-- One row-window word for each array of the layer: array, ROWS, FS. -/
  rowwin : List (Nat × Nat × Nat)
  deriving DecidableEq, Repr

/-- Policy entry of a LAYER section (R268). -/
structure Policy where
  trigCount : Nat
  trigWindow : Nat
  minHold : Nat
  cleanSteps : Nat
  hold : Bool
  deriving DecidableEq, Repr

/-- LAYER section (Table 10-5, R268). -/
structure LayerSection where
  slot : Nat
  catt : Word
  norm : Nat
  pairing : Nat
  kvfmt : Nat
  resfmt : Nat
  eps : Word
  g : Nat
  d : Nat
  hq : Nat
  qfmt : Nat
  hatt : Nat
  n : Nat
  tfix : Nat
  /-- γ then β (empty where absent), FP32. -/
  gamma : List Word
  beta : List Word
  /-- Frequencies in units of 2^−64 turn. -/
  freqs : List Word64
  recipes : List Recipe
  policy : Policy
  /-- Watch values per output pennant of the layer: pennant, RATIO, ALPHA, LOW_EN. -/
  watch : List (Nat × Nat × Nat × Bool)
  deriving DecidableEq, Repr

/-- Placement entry (R266). -/
structure PlaceEntry where
  state : Nat
  layer : Nat
  block : Nat
  role : Nat
  deriving DecidableEq, Repr

/-- PLACEMENT section: the epoch slot, its digest and the entries that are not UNMAPPED, by array. -/
structure Placement where
  slot : Nat
  digest : List Byte
  entries : List (Nat × PlaceEntry)
  deriving DecidableEq, Repr

/-- PENNANT section entry (Table 10-2). -/
structure PennantEntry where
  pnt : Nat
  outEn : Bool
  gate : Nat
  gpart : Nat
  /-- Pennants of the reduction chain that ends here, in chain order. -/
  chain : List Nat
  watchLayer : Nat
  watchTen : Nat
  actx0 : List Word
  actk : Nat
  act0 : List Word
  act1 : List Word
  deriving DecidableEq, Repr

/-- PART section (Table 10-3). -/
structure PartSection where
  role : Nat
  tiles : Bool
  streamed : Bool
  mirrored : Bool
  slots : List Nat
  deriving DecidableEq, Repr

/-- SRAM section: the six partition sizes in bytes, in the order of Table 1-3, and the key/value fields. -/
structure SramSection where
  sizes : List Nat
  stage : Nat
  lend : Nat
  dirCap : Nat
  deriving DecidableEq, Repr

/-- POWER section: throttle sources' R_th starting values in 1/65536 °C per W, and register values to write. -/
structure PowerSection where
  rth : List Nat
  values : List (Nat × Nat)
  deriving DecidableEq, Repr

/-- SCHED section: tenant-table size, classes and starting values of step-latched fields (key, value). -/
structure SchedSection where
  tenants : Nat
  classes : List ClassEntry
  values : List (Nat × Nat)
  deriving DecidableEq, Repr

/-- An ensign image as its bytes read (Tables 10-1 and 10-2), with what the checks of its bytes find. -/
structure EnsImage where
  /-- MAGIC, FORMAT and the section table are as R263 and R264 ask. -/
  formOk : Bool
  kind : Nat
  keysel : Nat
  seq : Nat
  baseDigest : List Byte
  instanceId : List Byte
  partPos : Nat
  nparts : Nat
  /-- Length in bytes, and entries of the section table. -/
  length : Nat
  nsect : Nat
  /-- The bytes that the signature covers, and the signature. -/
  bytes : List Byte
  signature : List Byte
  trust : Option (List (List Byte))
  part : Option PartSection
  sram : Option SramSection
  placements : List Placement
  pennants : Option (List PennantEntry)
  layers : List LayerSection
  sched : Option SchedSection
  route : Option RouteSection
  power : Option PowerSection
  /-- Seeds: (key of the seed field, value). -/
  seeds : List (Nat × Nat)
  deriving DecidableEq, Repr

/-- Where a vector unit's result goes: its rounding class, layer slot, format code of Table 5-4 and, in SRAM, two
addresses: of the segment's header word (of the scales, for a key/value entry) and of its elements. -/
structure VecDst where
  cls : OutClass
  layer : Nat
  fmt : Nat
  addr : Option (Nat × Nat)
  deriving DecidableEq, Repr

/-- One block for one query head and position at a holder (R155): the query's codes, the block's place. -/
structure AttendOp where
  lslot : Nat
  ten : Nat
  seq : Nat
  head : Nat
  group : Nat
  pos : Nat
  blk : Nat
  first : Nat
  addr : Nat
  q : List Nat
  deriving DecidableEq, Repr

/-- A partial attention record as it arrives (Table 6-2): FP32 bits of m and s, and o in FP32 or BF16. -/
structure PartialRec where
  bf : Bool
  seq : Nat
  ten : Nat
  head : Nat
  holder : Nat
  step : Nat
  m : Nat
  s : Nat
  o : List Nat
  deriving DecidableEq, Repr

/-- A proposal of the guidon: the token and the list of tokens with FP16 probabilities that it was drawn from (R221). -/
structure Proposal where
  token : Nat
  q : List (Nat × Nat)
  deriving DecidableEq, Repr

/-- A logit: token and FP32 bits. -/
abbrev Logit := Nat × Nat

/-- An operation of a vector unit's list (R153). Vectors are given by the FP32 bits of their elements. -/
inductive VecOp where
  | attend (a : AttendOp)
  /-- A holder's partial goes to a combination of a vector unit of this part, or to the part of a pod address. -/
  | hand (lslot ten seq head pos holder : Nat) (unit cid : Nat) (pod : Option Nat)
  | combine (cid ten seq head holders : Nat) (dst : VecDst)
  | norm (lslot ten : Nat) (x : List Nat) (dst : VecDst)
  | residual (lslot ten : Nat) (x y : List Nat) (addr : Option (Nat × Nat))
  | rotary (lslot ten pos : Nat) (x : List Nat) (dst : VecDst)
  | summarise (lslot seq blk addr dst : Nat)
  | select (lslot ten seq : Nat) (queries : List (List Nat)) (blocks : List (Nat × List Nat))
  /-- Positions 0 to k of a sequence, each as the logits that every vector unit holds (R162, R222). -/
  | sample (seq : SeqKey) (dists : List (List (HoistIx × List Logit)))
  | propose (seq : SeqKey) (dist : List (HoistIx × List Logit))
  /-- The holders have read a staged block and release it (R214). -/
  | release (lslot : Nat) (seq : SeqKey) (blk : Nat)
  /-- The output part has decided every sequence of the step; every key/value entry of the step is written. -/
  | accept
  | kvDone
  deriving DecidableEq, Repr

/-- Where a bunting tile's result goes: a delta for a vector of an output pennant, or a vector in SRAM. -/
inductive TileDst where
  | delta (p : PntIx) (vid : Nat)
  | store (fmt h a : Nat)
  deriving DecidableEq, Repr

/-- A certified parameter set (Table 15-3). -/
structure MeterParams where
  consts : List Byte
  weights : List Nat
  p0 : Nat
  keyDigest : List Byte
  approval : List Byte
  deriving DecidableEq, Repr

/-- Operations of SEC_CMD (Table 16-9); ENROLL and REVOKE with their slot, and whether the board controller asks. -/
inductive SecOp where
  | attest | newNonce
  | enroll (slot : Nat) (board : Bool)
  | revoke (slot : Nat)
  | commitSvn | debugUnlock | revokeFwKey0
  | getCert (n : Nat)
  deriving DecidableEq, Repr

/-- What the boot ROM finds in a slot of the boot flash (Table 16-3): the header is recognised, KEYIDX, SVN, whether the
signature verifies, and the digests of the firmware and of the sequencer component (R395, R396). -/
structure FwSlot where
  headerOk : Bool
  keyIx : Nat
  svn : BitVec 32
  sigOk : Bool
  fwDig : List Byte
  seqDig : List Byte
  deriving DecidableEq, Repr

end Sys2Proof
end

