-- ==== Sys2Proof/Syntax.lean ====
section
/-! DEFINITION. The commands of the block: one constructor per row of the table of operations and events. -/

namespace Sys2Proof

/-- A command of the block. -/
inductive Instr where
  /-- REGISTER_WRITE (R12). -/
  | registerWrite (r : Requester) (off : BitVec 26) (size : BitVec 7) (v : Nat) (par : Parity)
  /-- PAIR_LO_READ (R430). -/
  | pairLoRead (r : Requester) (off : BitVec 26) (par : Parity)
  /-- PAIR_HI_WRITE (R431). -/
  | pairHiWrite (r : Requester) (off : BitVec 26) (v : Word) (par : Parity)
  /-- HUNG_ACCESS_RESUME (R340). -/
  | hungAccessResume (r : Requester)
  /-- GLB_RINGABORT (R342). -/
  | glbRingabort (mask : BitVec 4)
  /-- SRAM_ACCESS (R26). -/
  | sramAccess (port addr : Nat) (op : SramOp) (ecc : Ecc) (xfer : Xfer) (holds : LineHolds) (ten : Option TenantId)
      (step : Option Nat)
  /-- BAR2_WRITE (R313). -/
  | bar2Write (off : Nat) (bytes : List Byte)
  /-- BAR2_READ (R312). -/
  | bar2Read (off len : Nat)
  /-- FLAG_READ (R348). -/
  | flagRead (port addr : Nat) (step : Option Nat)
  /-- FLAG_SET (R348). -/
  | flagSet (port addr : Nat) (v : Word64) (step : Option Nat)
  /-- FLAG_ADD (R348). -/
  | flagAdd (port addr : Nat) (v : Word64) (step : Option Nat)
  /-- CPOST (R349). -/
  | cpost (port addr : Nat) (n : BitVec 32) (step : Option Nat)
  /-- CTAKE (R349). -/
  | ctake (port addr : Nat) (n : BitVec 32) (step : Option Nat)
  /-- WAIT (R350). -/
  | wait (x : WaitSpec)
  /-- WAIT_WAKE (R350). -/
  | waitWake (line : Nat)
  /-- WAIT_POLL (R350). -/
  | waitPoll (addr : Nat)
  /-- QUANTISE_VECTOR (R129). -/
  | quantiseVector (p : PntIx) (t : VecTag) (segs : List Segment)
  /-- ARRAY_READ (R48). -/
  | arrayRead (a : ArrayIx) (idle : Bool) (lates : List (Nat × Nat)) (res cal : Ecc)
  /-- SLICE_RETRY (R62). -/
  | sliceRetry (a : ArrayIx) (lates : List (Nat × Nat))
  /-- SUSPECT_WINDOW_END (R65). -/
  | suspectWindowEnd (a : ArrayIx)
  /-- DWELL_END (R82). -/
  | dwellEnd (a : ArrayIx)
  /-- CHECK_STANDIN_START (R84). -/
  | checkStandinStart (a : ArrayIx)
  /-- CHECK_STANDIN_END (R84). -/
  | checkStandinEnd (a : ArrayIx)
  /-- OUTPUT_VECTOR (R132). -/
  | outputVector (p : PntIx) (ecc : Ecc) (bad : List Nat)
  /-- GATED_PARTNER_VECTOR (R137). -/
  | gatedPartnerVector (p : PntIx)
  /-- ADAPTER_DELTA (R171). -/
  | adapterDelta (p : PntIx) (vid late : Nat)
  /-- PNT_ACCSEL_WRITE (R126). -/
  | pntAccselWrite (p : PntIx) (col : BitVec 9)
  /-- ACC_SNAPSHOT (R126). -/
  | accSnapshot (p : PntIx)
  /-- PNT_ACTDATA_ACCESS (R136). -/
  | pntActdataAccess (p : PntIx) (v : Option Word)
  /-- WATCH_RESTART (R141). -/
  | watchRestart (p : PntIx)
  /-- CAL_FORCE (R88). -/
  | calForce (p : PntIx)
  /-- CONV_ENABLE (R79). -/
  | convEnable (h : HoistIx) (en : Bool)
  /-- REFERENCE_READING (R78). -/
  | referenceReading (h : HoistIx) (uv vana : Nat)
  /-- DELAY_LINE_COUNT (R90). -/
  | delayLineCount (a : ArrayIx) (c count : Nat)
  /-- CALIBRATION_CYCLE_END (R89). -/
  | calibrationCycleEnd (a : ArrayIx) (meas : List (Nat × Nat × Int)) (lates : Nat)
  /-- INITIAL_CALIBRATION_END (R95). -/
  | initialCalibrationEnd
  /-- CALIBRATION_AGE_LIMIT (R97). -/
  | calibrationAgeLimit (a : ArrayIx)
  /-- HOIST_GATE_RAMP_DONE (R358). -/
  | hoistGateRampDone (h : HoistIx) (vana : Bool)
  /-- MAINT_REQUEST (R371). -/
  | maintRequest (m : MntAct)
  /-- MAINT_ACTIVITY_END (R372). -/
  | maintActivityEnd (m : MntAct)
  /-- MAINT_AGE (R373). -/
  | maintAge (m : MntAct)
  /-- ARRAY_PROGRAM_DONE (R239). -/
  | arrayProgramDone (a : ArrayIx) (ok : Bool)
  /-- RELAX_END (R242). -/
  | relaxEnd (a : ArrayIx)
  /-- READBACK_DONE (R242). -/
  | readbackDone (a : ArrayIx) (rows : BitVec 11) (ok : Bool)
  /-- DIAGNOSTIC_READ_DONE (R65). -/
  | diagnosticReadDone (a : ArrayIx) (ok : Bool)
  /-- STARTUP_CHECK_DONE (R243). -/
  | startupCheckDone (a : ArrayIx) (ok : Bool)
  /-- DRIFT_AGE_TICK (R250). -/
  | driftAgeTick
  /-- SCRUB_PASS (R416). -/
  | scrubPass (slice : SliceIx) (n : Nat) (bad : List (Nat × LineHolds))
  /-- LIFETIME_SNAPSHOT (R421). -/
  | lifetimeSnapshot
  /-- PROMPT_ENTRY (R179). -/
  | promptEntry (ring : Nat) (h : PromptHeader) (tokens : List (BitVec 18))
  /-- STEP_COMPOSE (R184). -/
  | stepCompose (c : Composition)
  /-- STEP_PLAN (R181). -/
  | stepPlan (src : BitVec 10) (p : Plan)
  /-- STEP_BOUNDARY (R182). -/
  | stepBoundary (n : Nat)
  /-- COMMIT_IDLE_APPLY (R276). -/
  | commitIdleApply
  /-- OPERATION_LIST (R153). -/
  | operationList (v : HoistIx) (n : Nat) (ops : List VecOp) (flag : Nat) (add : Word64)
  /-- BUNTING_VECTOR (R170). -/
  | buntingVector (t : TileIx) (step : Nat) (use : BankUse) (ten : TenantId) (rec : Nat) (segs : List Segment) (d :
      TileDst) (ecc : Ecc)
  /-- BANK_LOAD_DONE (R168). -/
  | bankLoadDone (t : TileIx) (b ok : Bool) (streamed : List Byte)
  /-- PARTIAL_RECORD (R157). -/
  | partialRecord (src : BitVec 10) (v : HoistIx) (cid : Nat) (p : PartialRec)
  /-- STEP_COMMIT (R185). -/
  | stepCommit (n : Nat)
  /-- STEP_FAIL (R186). -/
  | stepFail (n cause : Nat)
  /-- STEP_TIMEOUT (R186). -/
  | stepTimeout (n : Nat)
  /-- HEADROOM_STALE_TIMEOUT (R35). -/
  | headroomStaleTimeout
  /-- CXL_FETCH_DONE (R213). -/
  | cxlFetchDone (n : Nat) (lslot : LayerSlot) (q : SeqKey) (blk : Nat) (ok : Bool) (plain : List Byte)
  /-- BLOCK_COPY_DONE (R215). -/
  | blockCopyDone (owner : Option (BitVec 10)) (lslot : LayerSlot) (q : SeqKey) (blk : Nat) (ok : Bool) (plain : List
      Byte)
  /-- IDLE_TIMEOUT (R218). -/
  | idleTimeout (q : SeqId)
  /-- PAUSE_EXPIRY (R220). -/
  | pauseExpiry (q : SeqId) (others : Nat)
  /-- WGT_INSTALL (R238). -/
  | wgtInstall (n : EpochSlot)
  /-- WGT_ATTACH (R246). -/
  | wgtAttach (n : EpochSlot)
  /-- WGT_RELEASE (R255). -/
  | wgtRelease (n : EpochSlot)
  /-- WGT_ABORT (R255). -/
  | wgtAbort (n : EpochSlot)
  /-- ADD_SPARE (R253). -/
  | addSpare (a : ArrayIx)
  /-- IMAGE_COMPONENT_READ (R238). -/
  | imageComponentRead (n : EpochSlot) (c : ImgComp) (readable : Bool)
  /-- SOURCE_RETRY (R249). -/
  | sourceRetry (n : EpochSlot) (c : ImgComp) (readable : Bool)
  /-- IMAGE_COMPONENT (R247). -/
  | imageComponent (src : BitVec 10) (c : ImgComp)
  /-- RESEND_REQUEST (R248). -/
  | resendRequest (pod : BitVec 10) (lslot ix : Nat)
  /-- ENS_LOAD (R269). -/
  | ensLoad (img : EnsImage)
  /-- ENS_DEACTIVATE (R272). -/
  | ensDeactivate
  /-- ENS_ABORT (R269). -/
  | ensAbort
  /-- ENS_VERIFY_END (R269). -/
  | ensVerifyEnd
  /-- ENS_APPLY_END (R269). -/
  | ensApplyEnd (bad : Option Nat)
  /-- COMMIT_GO (R275). -/
  | commitGo (discard : Bool)
  /-- COMMIT_GO_AT (R276). -/
  | commitGoAt (discard : Bool)
  /-- COMMIT_DISCARD (R275). -/
  | commitDiscard
  /-- FLIT_RECEIVE (R286). -/
  | flitReceive (port : Nat) (f : Flit)
  /-- NAK_RESEND (R286). -/
  | nakResend (port : Nat)
  /-- LINK_ENABLE (R293). -/
  | linkEnable (port : Nat)
  /-- LINK_DISABLE (R293). -/
  | linkDisable (port : Nat)
  /-- LINK_RETRAIN (R293). -/
  | linkRetrain (port : Nat)
  /-- LIGHT_WINDOW (R293). -/
  | lightWindow (port : Nat) (pwr : Word)
  /-- LIGHT_LOW_TIMEOUT (R293). -/
  | lightLowTimeout (port : Nat)
  /-- LANE_LOCK (R293). -/
  | laneLock (port : Nat)
  /-- DESKEW (R293). -/
  | deskew (port : Nat) (skew : Word)
  /-- FEC_LOCK (R293). -/
  | fecLock (port : Nat)
  /-- PEER_IDENTITY (R295). -/
  | peerIdentity (port : Nat) (pod : BitVec 10) (peer : BitVec 5) (ack : BitVec 12) (creds : List (BitVec 9))
  /-- TRAINING_ATTEMPT_TIMEOUT (R293). -/
  | trainingAttemptTimeout (port : Nat)
  /-- DOWN_RETRY (R293). -/
  | downRetry (port : Nat)
  /-- LANE_UNLOCK (R293). -/
  | laneUnlock (port : Nat)
  /-- LIGHT_INPUT_LOSS (R284). -/
  | lightInputLoss (lin1 : Bool) (w : BitVec 2)
  /-- LIGHT_INPUT_RETURN (R442). -/
  | lightInputReturn (lin1 : Bool) (w : BitVec 2)
  /-- ACTIVATION_VECTORS (R292). -/
  | activationVectors (port : Nat) (m : Msg)
  /-- DRAFT_PROPOSALS (R221). -/
  | draftProposals (src : BitVec 10) (n : Nat) (q : SeqKey) (l : List Proposal)
  /-- PEER_TIER_QUERY (R211). -/
  | peerTierQuery (src : BitVec 10) (v : HoistIx) (step : Nat) (ten : TenantId) (lslot : LayerSlot) (q : SeqKey) (blk
      head grp lim holder : Nat) (catt : Word) (qs : List (BitVec 16))
  /-- BLOCK_COPY (R415). -/
  | blockCopy (src : BitVec 10) (lslot : LayerSlot) (q : SeqKey) (blk : BitVec 12) (u : CopyUse)
  /-- MIRRORED_ENTRIES (R303). -/
  | mirroredEntries (src : BitVec 10) (n : Nat) (l : List MirrorItem)
  /-- MIRRORED_SEQUENCE_RECORDS (R303). -/
  | mirroredSequenceRecords (src : BitVec 10) (n : Nat) (l : List (SeqId × SeqRec))
  /-- COMMIT_READY (R181). -/
  | commitReady (n pos : Nat)
  /-- ACCEPTANCE (R181). -/
  | acceptance (n : Nat) (l : List Accepted)
  /-- COMMIT_MESSAGE (R185). -/
  | commitMessage (n : Nat) (lens : List Nat)
  /-- ABORT_MESSAGE (R186). -/
  | abortMessage (n : Nat)
  /-- HEADROOM_MESSAGE (R190). -/
  | headroomMessage (src : BitVec 10) (pos : Nat) (watts theta : Int) (rth kappa : Nat)
  /-- FORWARDED_EVENT (R197). -/
  | forwardedEvent (src : BitVec 10) (b : MsgBody)
  /-- MIRROR_ACKNOWLEDGEMENT (R303). -/
  | mirrorAcknowledgement (src : BitVec 10) (n : Nat)
  /-- HEARTBEAT (R301). -/
  | heartbeat (src : BitVec 10)
  /-- HEARTBEAT_TIMER (R301). -/
  | heartbeatTimer (port : Nat)
  /-- DISCARD (R220). -/
  | discard (src : BitVec 10) (q : SeqKey)
  /-- ROUTE_SWITCH (R305). -/
  | routeSwitch (src : BitVec 10) (pos : Nat)
  /-- LOSS_TIMEOUT (R301). -/
  | lossTimeout (rep pod : BitVec 10)
  /-- MIRROR_RECORD_WRITE (R303). -/
  | mirrorRecordWrite (ten : TenantId) (n : Nat)
  /-- RESYNC_COMPLETE (R306). -/
  | resyncComplete
  /-- RECLAIM (R216). -/
  | reclaim
  /-- LOST (R301). -/
  | lost (pod : BitVec 10)
  /-- HANDBACK (R305). -/
  | handback
  /-- HANDBACK_DONE (R305). -/
  | handbackDone
  /-- RING_DOORBELL (R315). -/
  | ringDoorbell (ring : Nat) (v : BitVec 32)
  /-- TENANT_SET (R321). -/
  | tenantSet (h : CmdHead) (a : TenantArgs)
  /-- CLASS_SET (R321). -/
  | classSet (h : CmdHead) (cls prio : BitVec 8) (target : BitVec 32)
  /-- RELEASE (R178). -/
  | release (h : CmdHead)
  /-- PAUSE (R218). -/
  | pause (h : CmdHead) (ttl : BitVec 32)
  /-- RESUME (R219). -/
  | resume (h : CmdHead)
  /-- ARRAY_QUEUE (R65). -/
  | arrayQueue (h : CmdHead) (a : BitVec 16)
  /-- STAGE_COPY (R404). -/
  | stageCopy (h : CmdHead) (off len : BitVec 32) (readable : Bool)
  /-- STAGE_COPY_DONE (R404). -/
  | stageCopyDone (tagOk : Bool) (ten : TenantId) (version : BitVec 16) (plain : List Byte)
  /-- TENANT_KEY (R402). -/
  | tenantKey (h : CmdHead) (readable : Bool) (rec : List Byte) (secret : Option (List Byte))
  /-- FENCE (R321). -/
  | fence (h : CmdHead)
  /-- UNDEFINED_COMMAND (R323). -/
  | undefinedCommand (op : BitVec 8) (h : CmdHead)
  /-- RING_ENABLE_WRITE (R320). -/
  | ringEnableWrite (ring : Nat) (en : Bool)
  /-- EVENT_QUEUE_DRAIN (R319). -/
  | eventQueueDrain
  /-- COALESCING_TIMEOUT (R325). -/
  | coalescingTimeout (ring : Nat)
  /-- CXL_LINK_LOSS (R310). -/
  | cxlLinkLoss
  /-- CXL_LINK_RETURN (R310). -/
  | cxlLinkReturn (width : Nat) (fast : Bool)
  /-- UIO_COMPLETION (R327). -/
  | uioCompletion (u : UioUse) (ok : Bool)
  /-- UIO_TIMEOUT (R327). -/
  | uioTimeout (u : UioUse)
  /-- IDE_INTEGRITY_FAILURE (R328). -/
  | ideIntegrityFailure
  /-- IDE_KEY_MANAGEMENT (R328). -/
  | ideKeyManagement
  /-- GET_MEASUREMENTS (R399). -/
  | getMeasurements (nonce : List Byte)
  /-- CLOCK_ABSENCE_TIMEOUT (R341). -/
  | clockAbsenceTimeout (clk : Nat)
  /-- CLOCK_PRESENCE_WINDOW (R341). -/
  | clockPresenceWindow (clk edges : Nat)
  /-- CROSSING_RESET (R339). -/
  | crossingReset (clk : Nat) (far : Bool)
  /-- CROSSING_RESYNC (R339). -/
  | crossingResync (clk : Nat)
  /-- SQ_PACKET_WRITE (R343). -/
  | sqPacketWrite (q : SqIx) (words : List Word64)
  /-- SQ_ENTRY_SETTLE (R343). -/
  | sqEntrySettle (q : SqIx)
  /-- SQ_DATA_READ (R344). -/
  | sqDataRead (q : SqIx)
  /-- SQ_LEVEL_WRITE (R345). -/
  | sqLevelWrite (q : SqIx) (v : BitVec 6)
  /-- SQ_DROP (R346). -/
  | sqDrop (q : SqIx)
  /-- SQ_FLUSH (R346). -/
  | sqFlush (q : SqIx)
  /-- SQ_ENABLE_WRITE (R343). -/
  | sqEnableWrite (q : SqIx) (en : Bool)
  /-- DEADLOCK_FAULT (R351). -/
  | deadlockFault (busy : Bool) (qs : List QueueWait)
  /-- DEADLOCK_FREEZE_LIFT (R352). -/
  | deadlockFreezeLift
  /-- VIN_RISE (R355). -/
  | vinRise (v : BitVec 16)
  /-- VIN_LOSS (R355). -/
  | vinLoss (v : BitVec 16)
  /-- RAIL_POWER_GOOD (R356). -/
  | railPowerGood (n : Nat)
  /-- RAIL_FAULT (R357). -/
  | railFault (n : Nat)
  /-- DROOP_TRIP (R359). -/
  | droopTrip (r : RegionIx)
  /-- DROOP_RELEASE (R359). -/
  | droopRelease (r : RegionIx) (ns : Nat)
  /-- SENSOR_SAMPLE (R361). -/
  | sensorSample (n : Nat) (raw : Option (BitVec 16))
  /-- SENSOR_SILENT_TIMEOUT (R362). -/
  | sensorSilentTimeout (n : Nat)
  /-- SENSOR_FAULT_CLEAR (R362). -/
  | sensorFaultClear (n : Nat)
  /-- THERMAL_UPDATE (R363). -/
  | thermalUpdate
  /-- BAND_FALL (R363). -/
  | bandFall (r : RegionIx)
  /-- POWER_SAMPLE (R367). -/
  | powerSample (mW mA : Nat) (vin : BitVec 16)
  /-- WAVE_LEVEL_UPDATE (R368). -/
  | waveLevelUpdate
  /-- WAVE_HOLD_RELEASE (R368). -/
  | waveHoldRelease (n : Nat)
  /-- HEADROOM_PUBLISH (R369). -/
  | headroomPublish
  /-- RTH_UPDATE (R370). -/
  | rthUpdate
  /-- METER_POWER_ON (R378). -/
  | meterPowerOn (ok : Bool)
  /-- METER_POWER_FALL (R386). -/
  | meterPowerFall (openFj : Nat)
  /-- ACTIVITY_INTERVAL_CLOSE (R382). -/
  | activityIntervalClose
  /-- COUNTER_FRAME (R383). -/
  | counterFrame (ok : Bool)
  /-- METER_SECOND (R385). -/
  | meterSecond (fj vDiff iDiff : Nat) (aboveV : Bool)
  /-- TOTALS_SAVE (R386). -/
  | totalsSave
  /-- READ_RECORD (R387). -/
  | readRecord (i3c : Option Word64) (chunk : BitVec 5)
  /-- READ_TOTALS (R387). -/
  | readTotals (i3c : Bool) (chunk : BitVec 5)
  /-- READ_PARAMS (R387). -/
  | readParams (i3c : Bool) (chunk : BitVec 5)
  /-- READ_STATUS (R387). -/
  | readStatus (i3c : Bool)
  /-- SEAL_NONCE (R389). -/
  | sealNonce
  /-- SEAL_APPLY (R389). -/
  | sealApply (p : MeterParams) (key sig : List Byte)
  /-- SEAL_COPY_PROGRAMMED (R389). -/
  | sealCopyProgrammed (ok : Bool)
  /-- SEAL_NONCE_EXPIRY (R389). -/
  | sealNonceExpiry
  /-- ATTEST (R399). -/
  | attest
  /-- ATTEST_REPORT (R400). -/
  | attestReport (meterOk : Bool)
  /-- NEWNONCE (R397). -/
  | newnonce
  /-- ENROLL (R397). -/
  | enroll (r : Requester) (slot : BitVec 4)
  /-- REVOKE (R397). -/
  | revoke (slot : BitVec 4)
  /-- COMMIT_SVN (R396). -/
  | commitSvn
  /-- DEBUG_UNLOCK (R406). -/
  | debugUnlock
  /-- REVOKE_FWKEY0 (R396). -/
  | revokeFwkey0
  /-- GET_CERT (R408). -/
  | getCert (n : BitVec 4)
  /-- GLB_FLTPOP (R418). -/
  | glbFltpop
  /-- LIF_READ (R423). -/
  | lifRead (o : BitVec 16) (n : Nat)
  /-- RESET_N_ASSERT (R444). -/
  | resetNAssert
  /-- RESET_N_RELEASE (R445). -/
  | resetNRelease (corr : Nat) (ok : Bool)
  /-- BOOT_ROM_END (R395). -/
  | bootRomEnd (a b : FwSlot) (bad : List (BitVec 4))
  /-- POD_ADDRESS_WRITE (R443). -/
  | podAddressWrite (board : BitVec 6) (slot : BitVec 4)
  /-- CHECKING_END (R447). -/
  | checkingEnd
  /-- LIGHTING_END (R448). -/
  | lightingEnd
  /-- MGMT_CORE_RESTART (R34). -/
  | mgmtCoreRestart (applied : Nat)
  /-- SEQUENCER_HALT (R36). -/
  | sequencerHalt (mask : BitVec 4)
  /-- FLIT_TIME (R285). -/
  | flitTime (port : Nat)
  /-- RAIL_POWER_GOOD_LOSS (R356). -/
  | railPowerGoodLoss (n : Nat)
  /-- CRYSTAL_STOP (R439). -/
  | crystalStop
  /-- MANAGEMENT_FIRMWARE_RUNS_AGAIN (R34). -/
  | managementFirmwareRunsAgain
  /-- SEQUENCER_CORE_RUNS_AGAIN (R36). -/
  | sequencerCoreRunsAgain (mask : BitVec 4)
  deriving DecidableEq, Repr

end Sys2Proof
end

