-- ==== Sys2Proof/Decode.lean ====
section
/-! DEFINITION. The decoder over the bits that the table of operations gives. Its rows give no bits (every row's
`fields` is empty), so no word spells a command. -/

namespace Sys2Proof

/-- The command that a word of `nbits` bits spells by the table's bits: none. -/
def decodeTableWord (_nbits _w : Nat) : Option Instr := none

end Sys2Proof
end

