-- ==== Sys2Proof/Config.lean ====
section
/-! DEFINITION. What an implementation fixes: constants of the spec that are not registers, and the free values,
opaque constants that nothing can evaluate, one for each value the spec leaves open. -/

namespace Sys2Proof.Config
open Sys2Proof

/-- First address above the SRAM (R23). -/
def sramEnd : Nat := 0x18000000

/-- Start of the firmware-data partition, fixed (R265). -/
def firmwareBase : Nat := 0x17C00000

/-- LTIME ticks in one second: the crystal runs at 47 MHz (R333). -/
def ltimeHz : Nat := 47000000

/-- Longest committed length of a sequence (Table 7-2, R179). -/
def maxPositions : Nat := 1048576

/-- Drift age 1.0 in the model's unit: one day of every interval of Table 9-7 divides it (R250). -/
def ageUnit : Nat := 36288000

/-! ### Free values (each has a log entry) -/

/-- Deviation of a converter's raw code, in LSB, from the rounded quotient: noise, offset, gain and nonlinearity that
Table 3-2 bounds and does not fix. Arguments: the fresh number of the read, the slice, the window (first row and
rows) and the column; the check converter's own conversion of a column counts as column 1024 + its number. -/
opaque codeDeviation : Nat → Nat → Nat → Nat → Nat → Int

/-- The code a converter delivers when its last decision is incomplete (R75): the bits decided so far are open. -/
opaque lateCode : Nat → Nat → Nat → Int

/-- Sign of a NaN that no operand brings (R105 gives a NaN the sign of its source). -/
opaque nanSign : Bool

/-- Level difference of a reference column's cell: the fixed pattern that the spec does not list. -/
opaque refPattern : Nat → Nat → Int

/-- Factory trim of a calibrated quantity of an array (R95): quantity, index; offsets in 1/64 LSB, gains in parts per
million. It lies in the identity region; no value is given. -/
opaque factoryTrim : Nat → Nat → Nat → Int

/-- The fixed but unpublished approximants of the function units (R134, Table 4-8): the result's FP32 bits
for the operand's FP32 bits. -/
opaque siluBits : Nat → BitVec 32
opaque geluBits : Nat → BitVec 32
opaque expBits : Nat → BitVec 32
opaque lnBits : Nat → BitVec 32
opaque recipBits : Nat → BitVec 32
opaque rsqrtBits : Nat → BitVec 32
opaque sqrtBits : Nat → BitVec 32

/-- sin and cos of 2π φ ÷ 2^64 for a 64-bit phase φ (R161): the FP32 bits, whose error the spec bounds and does not fix. -/
opaque sinBits : Nat → BitVec 32
opaque cosBits : Nat → BitVec 32

/-- Ed448 verification, named by the spec and not defined in it (R233, R263): key, message, signature. -/
opaque ed448Verify : List Byte → List Byte → List Byte → Bool
/-- Ed448 signature of a message under the key of the given number (identity 0, meter 1). -/
opaque ed448Sign : Nat → List Byte → List Byte
/-- SHAKE256 with a 64-byte output. -/
opaque shake256 : List Byte → List Byte
/-- AES-256-GCM, named by the spec and not defined in it (R212): the ciphertext for a key, a nonce, additional
authenticated data and a plaintext, and the 16-byte tag. -/
opaque gcmCipher : List Byte → List Byte → List Byte → List Byte → List Byte
opaque gcmTag : List Byte → List Byte → List Byte → List Byte → List Byte

/-- A fresh 32-byte nonce of the part's random source (R396, R389). -/
opaque nonce : Nat → List Byte

/-- The fault code of the report on a CXL link loss: R310 asks for the report and Table 17-3 has no code for it. -/
opaque linkLossCode : Nat

/-- The cause word that the stage latches for a rail fault (kind 1) or THERMTRIP (kind 2) of a source (R357, R364): the
spec gives it a place in the lifetime record and no encoding. -/
opaque latchCause : Nat → Nat → BitVec 32

/-- The failure cause of a step whose waves stopped because all four sequencer cores halted (R36): Table 7-9 has none
for it. -/
opaque haltCause : Nat

/-- The vocabulary size of the model of a weight epoch (R179): no field of an image gives it. -/
opaque vocabSize : Nat → Nat

/-- Digest of the Galnak debug key that the boot ROM holds (R406). -/
opaque debugKeyDigest : List Byte

/-- A certificate body kept in the identity region (R400): bytes not given by the spec. -/
opaque certificate : Nat → List Byte

end Sys2Proof.Config
end

