-- ==== Sys2Proof/Machine/RegMap.lean ====
section
/-! DEFINITION. The register map of chapter 18: every field of BAR0 that the chapters' field tables give,
with its place, width, access code, reset value, clamp (Table 10-12) and frozen condition (Table 10-9).
Access `own` marks a field whose write is a row of the table of operations of its own. -/

namespace Sys2Proof.Machine
open Sys2Proof

namespace Reg.Glb
def idPart : Field := ⟨0x0, 16, 16⟩
def idStep : Field := ⟨0x0, 8, 8⟩
def idMapfmt : Field := ⟨0x0, 0, 8⟩
def state : Field := ⟨0x10, 0, 4⟩
def seqRun : Field := ⟨0x40, 12, 4⟩
def hdrmStale : Field := ⟨0x40, 8, 1⟩
def mgmtFwRun : Field := ⟨0x40, 4, 1⟩
def arbHold : Field := ⟨0x40, 3, 1⟩
def ctrlRun : Field := ⟨0x40, 2, 1⟩
def dataRun : Field := ⟨0x40, 1, 1⟩
def imageActive : Field := ⟨0x40, 0, 1⟩
def halValid : Field := ⟨0x44, 31, 1⟩
def halMore : Field := ⟨0x44, 30, 1⟩
def halWrite : Field := ⟨0x44, 29, 1⟩
def halPort : Field := ⟨0x44, 23, 6⟩
def halAddrHi : Field := ⟨0x44, 0, 23⟩
def clkPort : Field := ⟨0x48, 11, 20⟩
def clkMtclk : Field := ⟨0x48, 10, 1⟩
def clkCxl : Field := ⟨0x48, 9, 1⟩
def clkHclk : Field := ⟨0x48, 8, 1⟩
def clkAclk : Field := ⟨0x48, 0, 8⟩
def wignCnt : Field := ⟨0x50, 0, 32⟩
def wignLast : Field := ⟨0x54, 0, 26⟩
def clampCnt : Field := ⟨0x58, 0, 32⟩
def clampLast : Field := ⟨0x5C, 0, 26⟩
def ringAbort : Field := ⟨0x68, 0, 4⟩
def ringAbortCnt : Field := ⟨0x80, 0, 32⟩
def xrstDropCnt : Field := ⟨0x84, 0, 32⟩
def ensAddr : Field := ⟨0x100, 0, 64⟩
def ensLen : Field := ⟨0x108, 0, 27⟩
def ensCmdOp : Field := ⟨0x10C, 28, 4⟩
def ensState : Field := ⟨0x110, 28, 4⟩
def ensAmend : Field := ⟨0x110, 27, 1⟩
def ensReject : Field := ⟨0x110, 26, 1⟩
def ensErr : Field := ⟨0x110, 16, 8⟩
def ensClamps : Field := ⟨0x110, 0, 16⟩
def ensSeq : Field := ⟨0x118, 0, 64⟩
def ensDigest : Field := ⟨0x140, 0, 32⟩
def fltOverflow : Field := ⟨0x180, 30, 1⟩
def fltLostCnt : Field := ⟨0x180, 0, 16⟩
def fltPop : Field := ⟨0x184, 0, 1⟩
def uncCnt : Field := ⟨0x1A0, 0, 64⟩
def secBusy : Field := ⟨0x200, 31, 1⟩
def secDone : Field := ⟨0x200, 30, 1⟩
def secIdFail : Field := ⟨0x200, 29, 1⟩
def secBootFail : Field := ⟨0x200, 28, 1⟩
def secDebug : Field := ⟨0x200, 27, 1⟩
def secSlotB : Field := ⟨0x200, 26, 1⟩
def secErr : Field := ⟨0x200, 0, 8⟩
def secCmdOp : Field := ⟨0x204, 28, 4⟩
def secIdCorr : Field := ⟨0x208, 0, 32⟩
def secFloor : Field := ⟨0x20C, 0, 32⟩
def secSvn : Field := ⟨0x210, 0, 32⟩
def secKeySlots : Field := ⟨0x214, 0, 8⟩
end Reg.Glb

namespace Reg.Sch
def commitGo : Field := ⟨0x0, 31, 1⟩
def commitAt : Field := ⟨0x0, 30, 1⟩
def commitDiscard : Field := ⟨0x0, 29, 1⟩
def commitLate : Field := ⟨0x4, 30, 1⟩
def commitStep : Field := ⟨0x8, 0, 64⟩
def commitIssued : Field := ⟨0x10, 16, 16⟩
def commitApplied : Field := ⟨0x10, 0, 16⟩
def ratioMode : Field := ⟨0x100, 31, 1⟩
def ratioMax : Field := ⟨0x100, 16, 8⟩
def ratioMin : Field := ⟨0x100, 8, 8⟩
def ratioShare : Field := ⟨0x100, 0, 8⟩
def rctlKb : Field := ⟨0x104, 24, 8⟩
def rctlKl : Field := ⟨0x104, 16, 8⟩
def rctlStepMax : Field := ⟨0x104, 8, 8⟩
def rctlDeadband : Field := ⟨0x104, 0, 8⟩
def bklRef : Field := ⟨0x108, 0, 24⟩
def limWaves : Field := ⟨0x10C, 30, 2⟩
def limMaxSeq : Field := ⟨0x10C, 16, 14⟩
def limMaxPos : Field := ⟨0x10C, 0, 16⟩
def budGuard : Field := ⟨0x110, 24, 8⟩
def budKshift : Field := ⟨0x110, 20, 4⟩
def budGrow : Field := ⟨0x110, 8, 6⟩
def budGrowMin : Field := ⟨0x110, 0, 8⟩
def chunk : Field := ⟨0x114, 0, 14⟩
def tmoRetryMax : Field := ⟨0x118, 28, 4⟩
def tmoTimeout : Field := ⟨0x118, 0, 24⟩
def lagRatio : Field := ⟨0x11C, 24, 8⟩
def lagSteps : Field := ⟨0x11C, 0, 16⟩
def sumqEn : Field := ⟨0x120, 31, 1⟩
def sumqQueue : Field := ⟨0x120, 0, 6⟩
def ratioCur : Field := ⟨0x124, 0, 8⟩
def kappa : Field := ⟨0x128, 0, 32⟩
def commitLat : Field := ⟨0x12C, 0, 32⟩
def lastStep : Field := ⟨0x130, 0, 64⟩
def stepCnt : Field := ⟨0x138, 0, 32⟩
def failCnt : Field := ⟨0x13C, 0, 32⟩
def seqFailCnt : Field := ⟨0x140, 0, 32⟩
def budgetCut : Field := ⟨0x144, 0, 32⟩
def lagMap : Field := ⟨0x180, 0, 32⟩
def spcPmin : Field := ⟨0x200, 24, 8⟩
def spcShift : Field := ⟨0x200, 20, 4⟩
def spcKmax : Field := ⟨0x200, 16, 4⟩
def spcZeroAfter : Field := ⟨0x200, 8, 8⟩
def spcProbe : Field := ⟨0x200, 0, 8⟩
def spcRprobe : Field := ⟨0x204, 8, 8⟩
def spcR0 : Field := ⟨0x204, 0, 8⟩
def spcEn : Field := ⟨0x208, 31, 1⟩
def spcQcand : Field := ⟨0x208, 0, 8⟩
def spcDraftCnt : Field := ⟨0x20C, 0, 32⟩
def spcAccCnt : Field := ⟨0x210, 0, 32⟩
def spcZeroCnt : Field := ⟨0x214, 0, 32⟩
def spcProbeCnt : Field := ⟨0x218, 0, 32⟩
end Reg.Sch

namespace Reg.Kvc
def peerEn : Field := ⟨0x0, 31, 1⟩
def cxlEn : Field := ⟨0x0, 30, 1⟩
def stage : Field := ⟨0x0, 16, 8⟩
def lend : Field := ⟨0x0, 8, 8⟩
def hiWater : Field := ⟨0x0, 4, 4⟩
def loWater : Field := ⟨0x0, 0, 4⟩
def ttl : Field := ⟨0x4, 0, 17⟩
def idle : Field := ⟨0x8, 0, 17⟩
def selNrecent : Field := ⟨0xC, 16, 8⟩
def selNblk : Field := ⟨0xC, 0, 12⟩
def cxlBase : Field := ⟨0x10, 0, 64⟩
def cxlSize : Field := ⟨0x18, 0, 24⟩
def dirCap : Field := ⟨0x1C, 0, 21⟩
def demoteCnt : Field := ⟨0x2C, 0, 32⟩
def promoteCnt : Field := ⟨0x30, 0, 32⟩
def moveFailCnt : Field := ⟨0x34, 0, 32⟩
def authFailCnt : Field := ⟨0x38, 0, 32⟩
def expireCnt : Field := ⟨0x3C, 0, 32⟩
def nonce : Field := ⟨0x40, 0, 64⟩
def lfmt : Field := ⟨0x100, 0, 3⟩
def selmap : Field := ⟨0x200, 0, 32⟩
end Reg.Kvc

namespace Reg.Wgt
def epoch : Field := ⟨0x0, 0, 32⟩
def cmdOp : Field := ⟨0x4, 28, 4⟩
def cmdSlot : Field := ⟨0x4, 24, 2⟩
def cmdArray : Field := ⟨0x4, 0, 13⟩
def busy : Field := ⟨0x8, 31, 1⟩
def epRefuse : Field := ⟨0x8, 30, 1⟩
def noSrc : Field := ⟨0x8, 29, 1⟩
def overdue : Field := ⟨0x8, 28, 1⟩
def err : Field := ⟨0x8, 24, 4⟩
def errSlot : Field := ⟨0x8, 22, 2⟩
def imgAddr : Field := ⟨0x10, 0, 64⟩
def wrapAddr : Field := ⟨0x18, 0, 64⟩
def instEp : Field := ⟨0x20, 0, 32⟩
def bcReader : Field := ⟨0x24, 31, 1⟩
def bcReceive : Field := ⟨0x24, 30, 1⟩
def bcPeerMask : Field := ⟨0x24, 0, 15⟩
def pgmRelax : Field := ⟨0x30, 24, 8⟩
def pgmRepass : Field := ⟨0x30, 20, 2⟩
def pgmMaxIter : Field := ⟨0x30, 12, 6⟩
def pgmConc : Field := ⟨0x30, 0, 10⟩
def touchEn : Field := ⟨0x34, 31, 1⟩
def touchTol : Field := ⟨0x34, 0, 8⟩
def streamHbw : Field := ⟨0x38, 0, 16⟩
def pgmCnt : Field := ⟨0x80, 0, 32⟩
def rowRepCnt : Field := ⟨0x84, 0, 32⟩
def touchCnt : Field := ⟨0x88, 0, 32⟩
def retireCnt : Field := ⟨0x8C, 0, 32⟩
def bcRetxCnt : Field := ⟨0x90, 0, 32⟩
def overdueCnt : Field := ⟨0x94, 0, 32⟩
def arrSel : Field := ⟨0xC0, 0, 13⟩
end Reg.Wgt

namespace Reg.Pwr
def lp : Field := ⟨0x0, 8, 4⟩
def limBucket : Field := ⟨0x4, 20, 12⟩
def lim : Field := ⟨0x4, 0, 16⟩
def hdrmAddr : Field := ⟨0x10, 5, 24⟩
def coolant : Field := ⟨0x14, 0, 32⟩
def droopTripc : Field := ⟨0x20, 24, 8⟩
def droopTripa : Field := ⟨0x20, 16, 8⟩
def droopHyst : Field := ⟨0x20, 12, 4⟩
def droopN : Field := ⟨0x20, 4, 4⟩
def droopHold : Field := ⟨0x20, 0, 4⟩
def droopCnt : Field := ⟨0x40, 0, 32⟩
def peakCnt : Field := ⟨0x60, 0, 32⟩
def bucketCnt : Field := ⟨0x64, 0, 32⟩
def thmThrottle : Field := ⟨0x400, 20, 12⟩
def thmBand4L : Field := ⟨0x400, 16, 4⟩
def thmDisagree : Field := ⟨0x400, 8, 8⟩
def thmBandHyst : Field := ⟨0x400, 4, 4⟩
def thmChipMax : Field := ⟨0x404, 24, 8⟩
def thmStageMax : Field := ⟨0x404, 16, 8⟩
def waveLevel : Field := ⟨0x408, 0, 4⟩
def regTemp : Field := ⟨0x480, 16, 16⟩
def regLth : Field := ⟨0x480, 8, 4⟩
def regBand : Field := ⟨0x480, 0, 3⟩
def senFault : Field := ⟨0x500, 31, 1⟩
def senFaulted : Field := ⟨0x500, 30, 1⟩
def senKind : Field := ⟨0x500, 28, 2⟩
def senRaw : Field := ⟨0x500, 0, 16⟩
def mntAge : Field := ⟨0x800, 24, 8⟩
def mntAllow : Field := ⟨0x800, 0, 12⟩
def grantCnt : Field := ⟨0x820, 0, 32⟩
def waitCnt : Field := ⟨0x824, 0, 32⟩
def agedCnt : Field := ⟨0x828, 0, 32⟩
def staleCnt : Field := ⟨0x82C, 0, 32⟩
def scrubCorrLim : Field := ⟨0x830, 16, 16⟩
def scrubInterval : Field := ⟨0x830, 0, 16⟩
def corrCnt : Field := ⟨0x834, 0, 32⟩
end Reg.Pwr

namespace Reg.Port
def retrain : Field := ⟨0x0, 31, 1⟩
def auto : Field := ⟨0x0, 1, 1⟩
def en : Field := ⟨0x0, 0, 1⟩
def state : Field := ⟨0x4, 28, 4⟩
def miswire : Field := ⟨0x4, 27, 1⟩
def lightLow : Field := ⟨0x4, 26, 1⟩
def downEvt : Field := ⟨0x4, 25, 1⟩
def locked : Field := ⟨0x4, 20, 4⟩
def peerPort : Field := ⟨0x4, 15, 5⟩
def peerPod : Field := ⟨0x4, 0, 10⟩
def corrCnt : Field := ⟨0x10, 0, 32⟩
def uncorrCnt : Field := ⟨0x14, 0, 32⟩
def retryCnt : Field := ⟨0x18, 0, 32⟩
def trainCnt : Field := ⟨0x1C, 0, 32⟩
def downCnt : Field := ⟨0x20, 0, 32⟩
def badRelayCnt : Field := ⟨0x24, 0, 32⟩
def txFlit : Field := ⟨0x28, 0, 64⟩
def rxFlit : Field := ⟨0x30, 0, 64⟩
def credAct : Field := ⟨0x40, 16, 9⟩
def credKv : Field := ⟨0x40, 0, 9⟩
def credCtl : Field := ⟨0x44, 16, 9⟩
def credBc : Field := ⟨0x44, 0, 9⟩
def skew : Field := ⟨0x48, 0, 32⟩
def rxPwr : Field := ⟨0x4C, 0, 32⟩
end Reg.Port

namespace Reg.Lnk
def topoSlot : Field := ⟨0x0, 28, 4⟩
def topoBoard : Field := ⟨0x0, 22, 6⟩
def topoPod : Field := ⟨0x0, 0, 10⟩
def lightIn1 : Field := ⟨0x4, 4, 4⟩
def lightIn0 : Field := ⟨0x4, 0, 4⟩
def pairMirrored : Field := ⟨0x8, 31, 1⟩
def pairPromoted : Field := ⟨0x8, 30, 1⟩
def pairLost : Field := ⟨0x8, 29, 1⟩
def pairResync : Field := ⟨0x8, 28, 1⟩
def pairPod : Field := ⟨0x8, 0, 10⟩
def spareOp : Field := ⟨0xC, 28, 4⟩
def spareReclaimed : Field := ⟨0xC, 27, 1⟩
def spareHandback : Field := ⟨0xC, 26, 1⟩
def resyncLeft : Field := ⟨0x10, 0, 16⟩
def routeSel : Field := ⟨0x14, 0, 8⟩
end Reg.Lnk

namespace Reg.Cxl
def ideReq : Field := ⟨0x0, 31, 1⟩
def link : Field := ⟨0x4, 28, 4⟩
def width : Field := ⟨0x4, 23, 5⟩
def rate : Field := ⟨0x4, 22, 1⟩
def ideOn : Field := ⟨0x4, 21, 1⟩
def ideFail : Field := ⟨0x4, 20, 1⟩
def linkLoss : Field := ⟨0x4, 19, 1⟩
def bar2Base : Field := ⟨0x8, 14, 15⟩
def uioTimeout : Field := ⟨0xC, 16, 16⟩
def uioOutst : Field := ⟨0xC, 0, 11⟩
def bar2DenyCnt : Field := ⟨0x10, 0, 32⟩
def uioErrCnt : Field := ⟨0x14, 0, 32⟩
def uioTmoCnt : Field := ⟨0x18, 0, 32⟩
def linkDownCnt : Field := ⟨0x1C, 0, 32⟩
def evtLostCnt : Field := ⟨0x20, 0, 32⟩
def cmdCnt : Field := ⟨0x24, 0, 32⟩
end Reg.Cxl

namespace Reg.Ring
def base : Field := ⟨0x0, 0, 64⟩
def en : Field := ⟨0x8, 31, 1⟩
def coh : Field := ⟨0x8, 30, 1⟩
def vec : Field := ⟨0x8, 16, 8⟩
def log2 : Field := ⟨0x8, 8, 5⟩
def ie : Field := ⟨0x8, 1, 1⟩
def coalTime : Field := ⟨0xC, 16, 16⟩
def coalCnt : Field := ⟨0xC, 0, 16⟩
def wb : Field := ⟨0x10, 0, 64⟩
def head : Field := ⟨0x18, 0, 32⟩
def tail : Field := ⟨0x1C, 0, 32⟩
end Reg.Ring

namespace Reg.Bell
def doorbell : Field := ⟨0x0, 0, 32⟩
end Reg.Bell

namespace Reg.Sq
def en : Field := ⟨0x0, 31, 1⟩
def flush : Field := ⟨0x0, 30, 1⟩
def lvl : Field := ⟨0x4, 31, 1⟩
def lost : Field := ⟨0x4, 30, 1⟩
def inpkt : Field := ⟨0x4, 29, 1⟩
def level : Field := ⟨0x8, 0, 6⟩
def drop : Field := ⟨0xC, 0, 1⟩
def dataHi : Field := ⟨0x14, 0, 32⟩
def lostCnt : Field := ⟨0x20, 0, 32⟩
def dropCnt : Field := ⟨0x24, 0, 32⟩
end Reg.Sq

namespace Reg.Flg
def underCnt : Field := ⟨0x0, 0, 32⟩
def overCnt : Field := ⟨0x4, 0, 32⟩
def addrCnt : Field := ⟨0x8, 0, 32⟩
def monFullCnt : Field := ⟨0xC, 0, 32⟩
def fltValid : Field := ⟨0x10, 31, 1⟩
def fltOver : Field := ⟨0x10, 30, 1⟩
def fltPort : Field := ⟨0x10, 24, 6⟩
def fltAddr : Field := ⟨0x10, 0, 23⟩
end Reg.Flg

namespace Reg.Dlk
def en : Field := ⟨0x0, 31, 1⟩
def window : Field := ⟨0x0, 0, 16⟩
def frozen : Field := ⟨0x4, 31, 1⟩
def waits : Field := ⟨0x4, 0, 9⟩
def cnt : Field := ⟨0x8, 0, 32⟩
def last : Field := ⟨0xC, 0, 64⟩
def snapSel : Field := ⟨0x14, 0, 10⟩
end Reg.Dlk

namespace Reg.Mtr
def reqOp : Field := ⟨0x0, 28, 4⟩
def reqChunk : Field := ⟨0x0, 0, 5⟩
def mbDone : Field := ⟨0x4, 31, 1⟩
def mbBusy : Field := ⟨0x4, 30, 1⟩
def mbGone : Field := ⟨0x4, 29, 1⟩
def mbLen : Field := ⟨0x4, 0, 13⟩
def rseqSel : Field := ⟨0x8, 0, 64⟩
def sealCnt : Field := ⟨0x10, 0, 32⟩
def newest : Field := ⟨0x18, 0, 64⟩
def cond : Field := ⟨0x20, 0, 4⟩
end Reg.Mtr

namespace Reg.Hoist
def refSettled : Field := ⟨0x100, 31, 1⟩
def refLost : Field := ⟨0x100, 30, 1⟩
def convEn : Field := ⟨0x100, 4, 1⟩
def refSrc : Field := ⟨0x100, 0, 2⟩
end Reg.Hoist

namespace Reg.Pnt
def width : Field := ⟨0x0, 0, 2⟩
def confWindow : Field := ⟨0x4, 24, 4⟩
def suspLimit : Field := ⟨0x4, 16, 8⟩
def avg : Field := ⟨0x4, 14, 2⟩
def retries : Field := ⟨0x4, 12, 2⟩
def thresh : Field := ⟨0x4, 0, 8⟩
def zeroVecEn : Field := ⟨0x8, 1, 1⟩
def zeroSliceEn : Field := ⟨0x8, 0, 1⟩
def accEff : Field := ⟨0xC, 8, 2⟩
def accPromote : Field := ⟨0xC, 0, 2⟩
def srReq : Field := ⟨0x10, 2, 1⟩
def srKv : Field := ⟨0x10, 1, 1⟩
def srResid : Field := ⟨0x10, 0, 1⟩
def rndSeed : Field := ⟨0x14, 0, 64⟩
def rndCtr : Field := ⟨0x1C, 0, 64⟩
def ofmt : Field := ⟨0x24, 24, 4⟩
def pool : Field := ⟨0x24, 20, 2⟩
def pgrp : Field := ⟨0x24, 18, 2⟩
def gate : Field := ⟨0x24, 16, 2⟩
def gpart : Field := ⟨0x24, 12, 4⟩
def biasEn : Field := ⟨0x24, 11, 1⟩
def tbank : Field := ⟨0x24, 10, 1⟩
def act : Field := ⟨0x24, 4, 3⟩
def outEn : Field := ⟨0x24, 0, 1⟩
def actX0b0 : Field := ⟨0x28, 0, 32⟩
def actX0b1 : Field := ⟨0x2C, 0, 32⟩
def actK1 : Field := ⟨0x30, 4, 4⟩
def actK0 : Field := ⟨0x30, 0, 4⟩
def actBank : Field := ⟨0x34, 9, 1⟩
def actIdx : Field := ⟨0x34, 0, 9⟩
def actData : Field := ⟨0x38, 0, 32⟩
def rows : Field := ⟨0x40, 16, 11⟩
def fs : Field := ⟨0x40, 0, 12⟩
def stState : Field := ⟨0x80, 28, 4⟩
def stSuspCnt : Field := ⟨0x80, 20, 8⟩
def stClip : Field := ⟨0x80, 15, 1⟩
def stSat : Field := ⟨0x80, 14, 1⟩
def stChkFail : Field := ⟨0x80, 13, 1⟩
def stNoSpare : Field := ⟨0x80, 12, 1⟩
def stSpareIdx : Field := ⟨0x80, 0, 8⟩
def zeroSliceCnt : Field := ⟨0xC0, 0, 32⟩
def zeroVecCnt : Field := ⟨0xC4, 0, 32⟩
def clipCnt : Field := ⟨0xC8, 0, 32⟩
def satCnt : Field := ⟨0xCC, 0, 32⟩
def retryCnt : Field := ⟨0xD0, 0, 32⟩
def suspCnt : Field := ⟨0xD4, 0, 32⟩
def chkSkipCnt : Field := ⟨0xD8, 0, 32⟩
def nffCnt : Field := ⟨0xDC, 0, 32⟩
def cvtSatCnt : Field := ⟨0xE0, 0, 32⟩
def cvtNanCnt : Field := ⟨0xE4, 0, 32⟩
def nanVecCnt : Field := ⟨0xE8, 0, 32⟩
def outVecCnt : Field := ⟨0xEC, 0, 32⟩
def chkConfirm : Field := ⟨0x100, 20, 4⟩
def chkDwell : Field := ⟨0x100, 16, 4⟩
def chkLimit : Field := ⟨0x100, 0, 8⟩
def cvStandin : Field := ⟨0x140, 31, 1⟩
def cvStandinM : Field := ⟨0x140, 28, 2⟩
def cvCflt : Field := ⟨0x140, 24, 4⟩
def cvUnchecked : Field := ⟨0x140, 23, 1⟩
def cvChkFlt : Field := ⟨0x140, 22, 1⟩
def cvDwellOn : Field := ⟨0x140, 21, 1⟩
def cvDfltCnt : Field := ⟨0x140, 12, 8⟩
def cvDfltIdx : Field := ⟨0x140, 0, 7⟩
def disagreeCnt : Field := ⟨0x180, 0, 32⟩
def dwellCnt : Field := ⟨0x184, 0, 32⟩
def lateCnt : Field := ⟨0x188, 0, 32⟩
def flagCnt : Field := ⟨0x18C, 0, 32⟩
def calForce : Field := ⟨0x200, 31, 1⟩
def calAge : Field := ⟨0x200, 24, 4⟩
def calFailLimit : Field := ⟨0x200, 16, 4⟩
def calInitExp : Field := ⟨0x200, 8, 5⟩
def calOld : Field := ⟨0x204, 16, 16⟩
def calStale : Field := ⟨0x204, 0, 16⟩
def calCount : Field := ⟨0x208, 0, 32⟩
def calFailCnt : Field := ⟨0x20C, 0, 32⟩
def calSkipCnt : Field := ⟨0x210, 0, 32⟩
def calLfArray : Field := ⟨0x214, 28, 4⟩
def calLfQty : Field := ⟨0x214, 25, 3⟩
def calLfKind : Field := ⟨0x214, 24, 1⟩
def calLfIndex : Field := ⟨0x214, 0, 10⟩
def calLast : Field := ⟨0x218, 0, 64⟩
def calWinAddr : Field := ⟨0x220, 0, 14⟩
def accDone : Field := ⟨0x230, 31, 1⟩
def accSel : Field := ⟨0x230, 0, 9⟩
def accF : Field := ⟨0x234, 20, 2⟩
def accN : Field := ⟨0x234, 0, 20⟩
def accW : Field := ⟨0x238, 0, 64⟩
def wRatio : Field := ⟨0x240, 24, 8⟩
def wAlpha : Field := ⟨0x240, 20, 4⟩
def wRestart : Field := ⟨0x240, 15, 1⟩
def wLowEn : Field := ⟨0x240, 1, 1⟩
def wEn : Field := ⟨0x240, 0, 1⟩
def wsL2 : Field := ⟨0x244, 31, 1⟩
def wsLinf : Field := ⟨0x244, 30, 1⟩
def wsLow : Field := ⟨0x244, 29, 1⟩
def wsNan : Field := ⟨0x244, 28, 1⟩
def wsWarm : Field := ⟨0x244, 27, 1⟩
def watchCnt : Field := ⟨0x248, 0, 32⟩
def watchL2 : Field := ⟨0x24C, 0, 32⟩
def watchLinf : Field := ⟨0x250, 0, 32⟩
def wlValid : Field := ⟨0x254, 31, 1⟩
def wlTen : Field := ⟨0x254, 15, 12⟩
def wlSeq : Field := ⟨0x254, 0, 15⟩
def watchLayer : Field := ⟨0x258, 3, 26⟩
def watchTen : Field := ⟨0x25C, 3, 26⟩
def busySlots : Field := ⟨0x260, 0, 32⟩
def lagCnt : Field := ⟨0x264, 0, 16⟩
def stallH : Field := ⟨0x270, 0, 32⟩
end Reg.Pnt

namespace Reg.Vec
def srReq : Field := ⟨0x10, 2, 1⟩
def srKv : Field := ⟨0x10, 1, 1⟩
def srResid : Field := ⟨0x10, 0, 1⟩
def rndSeed : Field := ⟨0x14, 0, 64⟩
def rndCtr : Field := ⟨0x1C, 0, 64⟩
def smpCand : Field := ⟨0x40, 0, 13⟩
def smpSeed : Field := ⟨0x44, 0, 64⟩
def smpCtr : Field := ⟨0x4C, 0, 64⟩
def cvtSatCnt : Field := ⟨0xE0, 0, 32⟩
def cvtNanCnt : Field := ⟨0xE4, 0, 32⟩
def emptyAttnCnt : Field := ⟨0xE8, 0, 32⟩
def kvDecSatCnt : Field := ⟨0xEC, 0, 32⟩
def smpTruncCnt : Field := ⟨0xF0, 0, 32⟩
end Reg.Vec

namespace Reg.Bnt
def refused : Field := ⟨0x0, 2, 1⟩
def tagMiss : Field := ⟨0x0, 1, 1⟩
def late : Field := ⟨0x0, 0, 1⟩
def loadCnt : Field := ⟨0xE0, 0, 32⟩
def lateCnt : Field := ⟨0xE4, 0, 32⟩
def tagMissCnt : Field := ⟨0xE8, 0, 32⟩
def adpSatCnt : Field := ⟨0xEC, 0, 32⟩
def refuseCnt : Field := ⟨0xF0, 0, 32⟩
end Reg.Bnt

/-- Fields of the Glb window, part 0 (chapter 18 and the field tables it cites). -/
def regTableGlb0 : List FieldSpec := [
  ⟨Reg.Glb.idPart, .ro, 33170, .any, .never, 0, 1⟩,
  ⟨Reg.Glb.idStep, .ro, 10, .any, .never, 0, 1⟩,
  ⟨Reg.Glb.idMapfmt, .ro, 1, .any, .never, 0, 1⟩,
  ⟨Reg.Glb.state, .ro, 0, .any, .never, 0, 1⟩,
  ⟨Reg.Glb.seqRun, .ro, 0, .any, .never, 0, 1⟩,
  ⟨Reg.Glb.hdrmStale, .ro, 0, .any, .never, 0, 1⟩,
  ⟨Reg.Glb.mgmtFwRun, .ro, 0, .any, .never, 0, 1⟩,
  ⟨Reg.Glb.arbHold, .ro, 0, .any, .never, 0, 1⟩,
  ⟨Reg.Glb.ctrlRun, .ro, 0, .any, .never, 0, 1⟩,
  ⟨Reg.Glb.dataRun, .ro, 0, .any, .never, 0, 1⟩,
  ⟨Reg.Glb.imageActive, .ro, 0, .any, .never, 0, 1⟩,
  ⟨Reg.Glb.halValid, .w1c, 0, .any, .never, 0, 1⟩,
  ⟨Reg.Glb.halMore, .w1c, 0, .any, .never, 0, 1⟩,
  ⟨Reg.Glb.halWrite, .ro, 0, .any, .never, 0, 1⟩,
  ⟨Reg.Glb.halPort, .ro, 0, .any, .never, 0, 1⟩,
  ⟨Reg.Glb.halAddrHi, .ro, 0, .any, .never, 0, 1⟩,
  ⟨Reg.Glb.clkPort, .ro, 0, .any, .never, 0, 1⟩,
  ⟨Reg.Glb.clkMtclk, .ro, 0, .any, .never, 0, 1⟩,
  ⟨Reg.Glb.clkCxl, .ro, 0, .any, .never, 0, 1⟩,
  ⟨Reg.Glb.clkHclk, .ro, 0, .any, .never, 0, 1⟩,
  ⟨Reg.Glb.clkAclk, .ro, 0, .any, .never, 0, 1⟩,
  ⟨Reg.Glb.wignCnt, .ro, 0, .any, .never, 0, 1⟩,
  ⟨Reg.Glb.wignLast, .ro, 0, .any, .never, 0, 1⟩,
  ⟨Reg.Glb.clampCnt, .ro, 0, .any, .never, 0, 1⟩]
/-- Fields of the Glb window, part 1 (chapter 18 and the field tables it cites). -/
def regTableGlb1 : List FieldSpec := [
  ⟨Reg.Glb.clampLast, .ro, 0, .any, .never, 0, 1⟩,
  ⟨Reg.Glb.ringAbort, .own, 0, .any, .never, 0, 1⟩,
  ⟨Reg.Glb.ringAbortCnt, .ro, 0, .any, .never, 0, 1⟩,
  ⟨Reg.Glb.xrstDropCnt, .ro, 0, .any, .never, 0, 1⟩,
  ⟨Reg.Glb.ensAddr, .rwf, 0, (.align 256), .ensBusy, 0, 1⟩,
  ⟨Reg.Glb.ensLen, .rwf, 0, (.nearest 0 67108864), .ensBusy, 0, 1⟩,
  ⟨Reg.Glb.ensCmdOp, .own, 0, .any, .never, 0, 1⟩,
  ⟨Reg.Glb.ensState, .ro, 0, .any, .never, 0, 1⟩,
  ⟨Reg.Glb.ensAmend, .ro, 0, .any, .never, 0, 1⟩,
  ⟨Reg.Glb.ensReject, .w1c, 0, .any, .never, 0, 1⟩,
  ⟨Reg.Glb.ensErr, .ro, 0, .any, .never, 0, 1⟩,
  ⟨Reg.Glb.ensClamps, .ro, 0, .any, .never, 0, 1⟩,
  ⟨Reg.Glb.ensSeq, .ro, 0, .any, .never, 0, 1⟩,
  ⟨Reg.Glb.ensDigest, .ro, 0, .any, .never, 4, 16⟩,
  ⟨Reg.Glb.fltOverflow, .w1c, 0, .any, .never, 0, 1⟩,
  ⟨Reg.Glb.fltLostCnt, .ro, 0, .any, .never, 0, 1⟩,
  ⟨Reg.Glb.fltPop, .own, 0, .any, .never, 0, 1⟩,
  ⟨Reg.Glb.uncCnt, .ro, 0, .any, .never, 8, 12⟩,
  ⟨Reg.Glb.secBusy, .ro, 0, .any, .never, 0, 1⟩,
  ⟨Reg.Glb.secDone, .w1c, 0, .any, .never, 0, 1⟩,
  ⟨Reg.Glb.secIdFail, .ro, 0, .any, .never, 0, 1⟩,
  ⟨Reg.Glb.secBootFail, .ro, 0, .any, .never, 0, 1⟩,
  ⟨Reg.Glb.secDebug, .ro, 0, .any, .never, 0, 1⟩,
  ⟨Reg.Glb.secSlotB, .ro, 0, .any, .never, 0, 1⟩]
/-- Fields of the Glb window, part 2 (chapter 18 and the field tables it cites). -/
def regTableGlb2 : List FieldSpec := [
  ⟨Reg.Glb.secErr, .ro, 0, .any, .never, 0, 1⟩,
  ⟨Reg.Glb.secCmdOp, .own, 0, .any, .never, 0, 1⟩,
  ⟨Reg.Glb.secIdCorr, .ro, 0, .any, .never, 0, 1⟩,
  ⟨Reg.Glb.secFloor, .ro, 0, .any, .never, 0, 1⟩,
  ⟨Reg.Glb.secSvn, .ro, 0, .any, .never, 0, 1⟩,
  ⟨Reg.Glb.secKeySlots, .ro, 0, .any, .never, 0, 1⟩]
/-- All fields of the Glb window. -/
def regTableGlb : List FieldSpec := regTableGlb0 ++ regTableGlb1 ++ regTableGlb2

/-- Fields of the Sch window, part 0 (chapter 18 and the field tables it cites). -/
def regTableSch0 : List FieldSpec := [
  ⟨Reg.Sch.commitGo, .own, 0, .any, .never, 0, 1⟩,
  ⟨Reg.Sch.commitAt, .own, 0, .any, .never, 0, 1⟩,
  ⟨Reg.Sch.commitDiscard, .own, 0, .any, .never, 0, 1⟩,
  ⟨Reg.Sch.commitLate, .w1c, 0, .any, .never, 0, 1⟩,
  ⟨Reg.Sch.commitStep, .rwl, 0, .any, .never, 0, 1⟩,
  ⟨Reg.Sch.commitIssued, .ro, 0, .any, .never, 0, 1⟩,
  ⟨Reg.Sch.commitApplied, .ro, 0, .any, .never, 0, 1⟩,
  ⟨Reg.Sch.ratioMode, .rws, 1, .any, .never, 0, 1⟩,
  ⟨Reg.Sch.ratioMax, .rws, 192, .any, .never, 0, 1⟩,
  ⟨Reg.Sch.ratioMin, .rws, 16, .any, .never, 0, 1⟩,
  ⟨Reg.Sch.ratioShare, .rws, 64, .any, .never, 0, 1⟩,
  ⟨Reg.Sch.rctlKb, .rws, 4, .any, .never, 0, 1⟩,
  ⟨Reg.Sch.rctlKl, .rws, 64, .any, .never, 0, 1⟩,
  ⟨Reg.Sch.rctlStepMax, .rws, 8, (.nearest 1 255), .never, 0, 1⟩,
  ⟨Reg.Sch.rctlDeadband, .rws, 1, .any, .never, 0, 1⟩,
  ⟨Reg.Sch.bklRef, .rws, 8192, (.nearest 1 16777215), .never, 0, 1⟩,
  ⟨Reg.Sch.limWaves, .rws, 3, .any, .never, 0, 1⟩,
  ⟨Reg.Sch.limMaxSeq, .rws, 8192, (.nearest 1 8192), .never, 0, 1⟩,
  ⟨Reg.Sch.limMaxPos, .rws, 32768, (.nearest 1 32768), .never, 0, 1⟩,
  ⟨Reg.Sch.budGuard, .rws, 32, .any, .never, 0, 1⟩,
  ⟨Reg.Sch.budKshift, .rws, 4, (.nearest 1 8), .never, 0, 1⟩,
  ⟨Reg.Sch.budGrow, .rws, 8, (.nearest 1 63), .never, 0, 1⟩,
  ⟨Reg.Sch.budGrowMin, .rws, 32, .any, .never, 0, 1⟩,
  ⟨Reg.Sch.chunk, .rws, 512, (.nearest 64 8192), .never, 0, 1⟩]
/-- Fields of the Sch window, part 1 (chapter 18 and the field tables it cites). -/
def regTableSch1 : List FieldSpec := [
  ⟨Reg.Sch.tmoRetryMax, .rws, 3, (.nearest 1 15), .never, 0, 1⟩,
  ⟨Reg.Sch.tmoTimeout, .rws, 100000, (.nearest 1000 10000000), .never, 0, 1⟩,
  ⟨Reg.Sch.lagRatio, .rws, 24, (.nearest 17 255), .never, 0, 1⟩,
  ⟨Reg.Sch.lagSteps, .rws, 64, (.nearest 1 65535), .never, 0, 1⟩,
  ⟨Reg.Sch.sumqEn, .rwl, 0, .any, .never, 0, 1⟩,
  ⟨Reg.Sch.sumqQueue, .rwl, 0, .any, .never, 0, 1⟩,
  ⟨Reg.Sch.ratioCur, .ro, 64, .any, .never, 0, 1⟩,
  ⟨Reg.Sch.kappa, .ro, 1065353216, .any, .never, 0, 1⟩,
  ⟨Reg.Sch.commitLat, .ro, 0, .any, .never, 0, 1⟩,
  ⟨Reg.Sch.lastStep, .ro, 0, .any, .never, 0, 1⟩,
  ⟨Reg.Sch.stepCnt, .ro, 0, .any, .never, 0, 1⟩,
  ⟨Reg.Sch.failCnt, .ro, 0, .any, .never, 0, 1⟩,
  ⟨Reg.Sch.seqFailCnt, .ro, 0, .any, .never, 0, 1⟩,
  ⟨Reg.Sch.budgetCut, .ro, 0, .any, .never, 0, 1⟩,
  ⟨Reg.Sch.lagMap, .w1c, 0, .any, .never, 4, 16⟩,
  ⟨Reg.Sch.spcPmin, .rws, 64, (.nearest 1 255), .never, 0, 1⟩,
  ⟨Reg.Sch.spcShift, .rws, 3, (.nearest 1 8), .never, 0, 1⟩,
  ⟨Reg.Sch.spcKmax, .rws, 8, (.nearest 0 8), .never, 0, 1⟩,
  ⟨Reg.Sch.spcZeroAfter, .rws, 4, (.nearest 1 255), .never, 0, 1⟩,
  ⟨Reg.Sch.spcProbe, .rws, 64, (.nearest 1 255), .never, 0, 1⟩,
  ⟨Reg.Sch.spcRprobe, .rws, 128, .any, .never, 0, 1⟩,
  ⟨Reg.Sch.spcR0, .rws, 192, .any, .never, 0, 1⟩,
  ⟨Reg.Sch.spcEn, .rws, 1, .any, .never, 0, 1⟩,
  ⟨Reg.Sch.spcQcand, .rws, 64, (.nearest 8 255), .never, 0, 1⟩]
/-- Fields of the Sch window, part 2 (chapter 18 and the field tables it cites). -/
def regTableSch2 : List FieldSpec := [
  ⟨Reg.Sch.spcDraftCnt, .ro, 0, .any, .never, 0, 1⟩,
  ⟨Reg.Sch.spcAccCnt, .ro, 0, .any, .never, 0, 1⟩,
  ⟨Reg.Sch.spcZeroCnt, .ro, 0, .any, .never, 0, 1⟩,
  ⟨Reg.Sch.spcProbeCnt, .ro, 0, .any, .never, 0, 1⟩]
/-- All fields of the Sch window. -/
def regTableSch : List FieldSpec := regTableSch0 ++ regTableSch1 ++ regTableSch2

/-- Fields of the Kvc window, part 0 (chapter 18 and the field tables it cites). -/
def regTableKvc0 : List FieldSpec := [
  ⟨Reg.Kvc.peerEn, .rws, 1, .any, .never, 0, 1⟩,
  ⟨Reg.Kvc.cxlEn, .rwf, 0, .any, .cxlBlocks, 0, 1⟩,
  ⟨Reg.Kvc.stage, .rwf, 24, (.nearest 4 128), .imageActive, 0, 1⟩,
  ⟨Reg.Kvc.lend, .rwf, 0, .any, .imageActive, 0, 1⟩,
  ⟨Reg.Kvc.hiWater, .rws, 4, .any, .never, 0, 1⟩,
  ⟨Reg.Kvc.loWater, .rws, 2, .any, .never, 0, 1⟩,
  ⟨Reg.Kvc.ttl, .rwl, 3600, (.nearest 1 86400), .never, 0, 1⟩,
  ⟨Reg.Kvc.idle, .rwl, 0, (.nearest 0 86400), .never, 0, 1⟩,
  ⟨Reg.Kvc.selNrecent, .rws, 8, (.nearest 1 255), .never, 0, 1⟩,
  ⟨Reg.Kvc.selNblk, .rws, 64, (.nearest 1 4095), .never, 0, 1⟩,
  ⟨Reg.Kvc.cxlBase, .rwf, 0, (.align 256), .cxlEn, 0, 1⟩,
  ⟨Reg.Kvc.cxlSize, .rwf, 0, .any, .cxlEn, 0, 1⟩,
  ⟨Reg.Kvc.dirCap, .rwf, 786432, (.nearest 0 1048576), .imageActive, 0, 1⟩,
  ⟨Reg.Kvc.demoteCnt, .ro, 0, .any, .never, 0, 1⟩,
  ⟨Reg.Kvc.promoteCnt, .ro, 0, .any, .never, 0, 1⟩,
  ⟨Reg.Kvc.moveFailCnt, .ro, 0, .any, .never, 0, 1⟩,
  ⟨Reg.Kvc.authFailCnt, .ro, 0, .any, .never, 0, 1⟩,
  ⟨Reg.Kvc.expireCnt, .ro, 0, .any, .never, 0, 1⟩,
  ⟨Reg.Kvc.nonce, .ro, 0, .any, .never, 0, 1⟩,
  ⟨Reg.Kvc.lfmt, .rws, 0, (.atLeast 5 3), .never, 4, 64⟩,
  ⟨Reg.Kvc.selmap, .rws, 0, .any, .never, 4, 128⟩]
/-- All fields of the Kvc window. -/
def regTableKvc : List FieldSpec := regTableKvc0

/-- Fields of the Wgt window, part 0 (chapter 18 and the field tables it cites). -/
def regTableWgt0 : List FieldSpec := [
  ⟨Reg.Wgt.epoch, .rws, 0, .any, .never, 0, 1⟩,
  ⟨Reg.Wgt.cmdOp, .own, 0, .any, .never, 0, 1⟩,
  ⟨Reg.Wgt.cmdSlot, .own, 0, .any, .never, 0, 1⟩,
  ⟨Reg.Wgt.cmdArray, .own, 0, .any, .never, 0, 1⟩,
  ⟨Reg.Wgt.busy, .ro, 0, .any, .never, 0, 1⟩,
  ⟨Reg.Wgt.epRefuse, .w1c, 0, .any, .never, 0, 1⟩,
  ⟨Reg.Wgt.noSrc, .w1c, 0, .any, .never, 0, 1⟩,
  ⟨Reg.Wgt.overdue, .w1c, 0, .any, .never, 0, 1⟩,
  ⟨Reg.Wgt.err, .ro, 0, .any, .never, 0, 1⟩,
  ⟨Reg.Wgt.errSlot, .ro, 0, .any, .never, 0, 1⟩,
  ⟨Reg.Wgt.imgAddr, .rwf, 0, (.align 256), .wgtBusy, 0, 1⟩,
  ⟨Reg.Wgt.wrapAddr, .rwf, 0, .any, .wgtBusy, 0, 1⟩,
  ⟨Reg.Wgt.instEp, .rwf, 0, .any, .wgtBusy, 0, 1⟩,
  ⟨Reg.Wgt.bcReader, .rwf, 0, .any, .wgtBusy, 0, 1⟩,
  ⟨Reg.Wgt.bcReceive, .rwf, 0, .any, .wgtBusy, 0, 1⟩,
  ⟨Reg.Wgt.bcPeerMask, .rwf, 0, .any, .wgtBusy, 0, 1⟩,
  ⟨Reg.Wgt.pgmRelax, .rwl, 24, (.nearest 8 64), .never, 0, 1⟩,
  ⟨Reg.Wgt.pgmRepass, .rwl, 2, (.nearest 1 3), .never, 0, 1⟩,
  ⟨Reg.Wgt.pgmMaxIter, .rwl, 16, (.nearest 4 32), .never, 0, 1⟩,
  ⟨Reg.Wgt.pgmConc, .rwl, 64, (.nearest 1 512), .never, 0, 1⟩,
  ⟨Reg.Wgt.touchEn, .rwl, 1, .any, .never, 0, 1⟩,
  ⟨Reg.Wgt.touchTol, .rwl, 30, (.nearest 10 45), .never, 0, 1⟩,
  ⟨Reg.Wgt.streamHbw, .rwf, 1100, (.nearest 1 65535), .imageActive, 0, 1⟩,
  ⟨Reg.Wgt.pgmCnt, .ro, 0, .any, .never, 0, 1⟩]
/-- Fields of the Wgt window, part 1 (chapter 18 and the field tables it cites). -/
def regTableWgt1 : List FieldSpec := [
  ⟨Reg.Wgt.rowRepCnt, .ro, 0, .any, .never, 0, 1⟩,
  ⟨Reg.Wgt.touchCnt, .ro, 0, .any, .never, 0, 1⟩,
  ⟨Reg.Wgt.retireCnt, .ro, 0, .any, .never, 0, 1⟩,
  ⟨Reg.Wgt.bcRetxCnt, .ro, 0, .any, .never, 0, 1⟩,
  ⟨Reg.Wgt.overdueCnt, .ro, 0, .any, .never, 0, 1⟩,
  ⟨Reg.Wgt.arrSel, .rwl, 0, .any, .never, 0, 1⟩]
/-- All fields of the Wgt window. -/
def regTableWgt : List FieldSpec := regTableWgt0 ++ regTableWgt1

/-- Fields of the Pwr window, part 0 (chapter 18 and the field tables it cites). -/
def regTablePwr0 : List FieldSpec := [
  ⟨Reg.Pwr.lp, .ro, 0, .any, .never, 0, 1⟩,
  ⟨Reg.Pwr.limBucket, .rwl, 3000, (.nearest 0 3000), .never, 0, 1⟩,
  ⟨Reg.Pwr.lim, .rwl, 4600, (.nearest 1600 4600), .never, 0, 1⟩,
  ⟨Reg.Pwr.hdrmAddr, .rwf, 12451839, .any, .imageActive, 0, 1⟩,
  ⟨Reg.Pwr.coolant, .rwl, 0, .any, .never, 0, 1⟩,
  ⟨Reg.Pwr.droopTripc, .rwl, 40, (.nearest 20 75), .never, 0, 1⟩,
  ⟨Reg.Pwr.droopTripa, .rwl, 90, (.nearest 40 180), .never, 0, 1⟩,
  ⟨Reg.Pwr.droopHyst, .rwl, 3, (.nearest 1 15), .never, 0, 1⟩,
  ⟨Reg.Pwr.droopN, .rwl, 3, (.nearest 1 15), .never, 0, 1⟩,
  ⟨Reg.Pwr.droopHold, .rwl, 4, (.nearest 1 15), .never, 0, 1⟩,
  ⟨Reg.Pwr.droopCnt, .ro, 0, .any, .never, 4, 8⟩,
  ⟨Reg.Pwr.peakCnt, .ro, 0, .any, .never, 0, 1⟩,
  ⟨Reg.Pwr.bucketCnt, .ro, 0, .any, .never, 0, 1⟩,
  ⟨Reg.Pwr.thmThrottle, .rwl, 1680, (.nearest 1440 1680), .never, 0, 1⟩,
  ⟨Reg.Pwr.thmBand4L, .rwl, 8, (.nearest 1 12), .never, 0, 1⟩,
  ⟨Reg.Pwr.thmDisagree, .rwl, 12, (.nearest 4 40), .never, 0, 1⟩,
  ⟨Reg.Pwr.thmBandHyst, .rwl, 2, (.nearest 1 10), .never, 0, 1⟩,
  ⟨Reg.Pwr.thmChipMax, .rwl, 95, (.nearest 80 95), .never, 0, 1⟩,
  ⟨Reg.Pwr.thmStageMax, .rwl, 110, (.nearest 90 110), .never, 0, 1⟩,
  ⟨Reg.Pwr.waveLevel, .ro, 0, .any, .never, 0, 1⟩,
  ⟨Reg.Pwr.regTemp, .ro, 0, .any, .never, 4, 8⟩,
  ⟨Reg.Pwr.regLth, .ro, 0, .any, .never, 4, 8⟩,
  ⟨Reg.Pwr.regBand, .ro, 0, .any, .never, 4, 8⟩,
  ⟨Reg.Pwr.senFault, .ro, 0, .any, .never, 4, 72⟩]
/-- Fields of the Pwr window, part 1 (chapter 18 and the field tables it cites). -/
def regTablePwr1 : List FieldSpec := [
  ⟨Reg.Pwr.senFaulted, .w1c, 0, .any, .never, 4, 72⟩,
  ⟨Reg.Pwr.senKind, .ro, 0, .any, .never, 4, 72⟩,
  ⟨Reg.Pwr.senRaw, .ro, 0, .any, .never, 4, 72⟩,
  ⟨Reg.Pwr.mntAge, .rwl, 10, (.nearest 1 255), .never, 0, 1⟩,
  ⟨Reg.Pwr.mntAllow, .rwl, 160, (.nearest 16 800), .never, 0, 1⟩,
  ⟨Reg.Pwr.grantCnt, .ro, 0, .any, .never, 0, 1⟩,
  ⟨Reg.Pwr.waitCnt, .ro, 0, .any, .never, 0, 1⟩,
  ⟨Reg.Pwr.agedCnt, .ro, 0, .any, .never, 0, 1⟩,
  ⟨Reg.Pwr.staleCnt, .ro, 0, .any, .never, 0, 1⟩,
  ⟨Reg.Pwr.scrubCorrLim, .rwl, 64, (.nearest 1 65535), .never, 0, 1⟩,
  ⟨Reg.Pwr.scrubInterval, .rwl, 64, (.nearest 8 3600), .never, 0, 1⟩,
  ⟨Reg.Pwr.corrCnt, .ro, 0, .any, .never, 4, 12⟩]
/-- All fields of the Pwr window. -/
def regTablePwr : List FieldSpec := regTablePwr0 ++ regTablePwr1

/-- Fields of the Port window, part 0 (chapter 18 and the field tables it cites). -/
def regTablePort0 : List FieldSpec := [
  ⟨Reg.Port.retrain, .own, 0, .any, .never, 0, 1⟩,
  ⟨Reg.Port.auto, .rwl, 1, .any, .never, 0, 1⟩,
  ⟨Reg.Port.en, .own, 0, .any, .never, 0, 1⟩,
  ⟨Reg.Port.state, .ro, 0, .any, .never, 0, 1⟩,
  ⟨Reg.Port.miswire, .w1c, 0, .any, .never, 0, 1⟩,
  ⟨Reg.Port.lightLow, .w1c, 0, .any, .never, 0, 1⟩,
  ⟨Reg.Port.downEvt, .w1c, 0, .any, .never, 0, 1⟩,
  ⟨Reg.Port.locked, .ro, 0, .any, .never, 0, 1⟩,
  ⟨Reg.Port.peerPort, .ro, 0, .any, .never, 0, 1⟩,
  ⟨Reg.Port.peerPod, .ro, 0, .any, .never, 0, 1⟩,
  ⟨Reg.Port.corrCnt, .ro, 0, .any, .never, 0, 1⟩,
  ⟨Reg.Port.uncorrCnt, .ro, 0, .any, .never, 0, 1⟩,
  ⟨Reg.Port.retryCnt, .ro, 0, .any, .never, 0, 1⟩,
  ⟨Reg.Port.trainCnt, .ro, 0, .any, .never, 0, 1⟩,
  ⟨Reg.Port.downCnt, .ro, 0, .any, .never, 0, 1⟩,
  ⟨Reg.Port.badRelayCnt, .ro, 0, .any, .never, 0, 1⟩,
  ⟨Reg.Port.txFlit, .ro, 0, .any, .never, 0, 1⟩,
  ⟨Reg.Port.rxFlit, .ro, 0, .any, .never, 0, 1⟩,
  ⟨Reg.Port.credAct, .ro, 0, .any, .never, 0, 1⟩,
  ⟨Reg.Port.credKv, .ro, 0, .any, .never, 0, 1⟩,
  ⟨Reg.Port.credCtl, .ro, 0, .any, .never, 0, 1⟩,
  ⟨Reg.Port.credBc, .ro, 0, .any, .never, 0, 1⟩,
  ⟨Reg.Port.skew, .ro, 0, .any, .never, 0, 1⟩,
  ⟨Reg.Port.rxPwr, .ro, 0, .any, .never, 0, 1⟩]
/-- All fields of the Port window. -/
def regTablePort : List FieldSpec := regTablePort0

/-- Fields of the Lnk window, part 0 (chapter 18 and the field tables it cites). -/
def regTableLnk0 : List FieldSpec := [
  ⟨Reg.Lnk.topoSlot, .ro, 0, .any, .never, 0, 1⟩,
  ⟨Reg.Lnk.topoBoard, .ro, 0, .any, .never, 0, 1⟩,
  ⟨Reg.Lnk.topoPod, .ro, 0, .any, .never, 0, 1⟩,
  ⟨Reg.Lnk.lightIn1, .ro, 0, .any, .never, 0, 1⟩,
  ⟨Reg.Lnk.lightIn0, .ro, 0, .any, .never, 0, 1⟩,
  ⟨Reg.Lnk.pairMirrored, .ro, 0, .any, .never, 0, 1⟩,
  ⟨Reg.Lnk.pairPromoted, .ro, 0, .any, .never, 0, 1⟩,
  ⟨Reg.Lnk.pairLost, .ro, 0, .any, .never, 0, 1⟩,
  ⟨Reg.Lnk.pairResync, .ro, 0, .any, .never, 0, 1⟩,
  ⟨Reg.Lnk.pairPod, .ro, 0, .any, .never, 0, 1⟩,
  ⟨Reg.Lnk.spareOp, .own, 0, .any, .never, 0, 1⟩,
  ⟨Reg.Lnk.spareReclaimed, .ro, 0, .any, .never, 0, 1⟩,
  ⟨Reg.Lnk.spareHandback, .ro, 0, .any, .never, 0, 1⟩,
  ⟨Reg.Lnk.resyncLeft, .ro, 0, .any, .never, 0, 1⟩,
  ⟨Reg.Lnk.routeSel, .rwl, 0, .any, .never, 0, 1⟩]
/-- All fields of the Lnk window. -/
def regTableLnk : List FieldSpec := regTableLnk0

/-- Fields of the Cxl window, part 0 (chapter 18 and the field tables it cites). -/
def regTableCxl0 : List FieldSpec := [
  ⟨Reg.Cxl.ideReq, .rwf, 0, .any, .imageEver, 0, 1⟩,
  ⟨Reg.Cxl.link, .ro, 0, .any, .never, 0, 1⟩,
  ⟨Reg.Cxl.width, .ro, 0, .any, .never, 0, 1⟩,
  ⟨Reg.Cxl.rate, .ro, 0, .any, .never, 0, 1⟩,
  ⟨Reg.Cxl.ideOn, .ro, 0, .any, .never, 0, 1⟩,
  ⟨Reg.Cxl.ideFail, .w1c, 0, .any, .never, 0, 1⟩,
  ⟨Reg.Cxl.linkLoss, .w1c, 0, .any, .never, 0, 1⟩,
  ⟨Reg.Cxl.bar2Base, .rwl, 24064, .any, .never, 0, 1⟩,
  ⟨Reg.Cxl.uioTimeout, .rwl, 10000, (.nearest 100 65535), .never, 0, 1⟩,
  ⟨Reg.Cxl.uioOutst, .rwl, 1024, (.nearest 64 2047), .never, 0, 1⟩,
  ⟨Reg.Cxl.bar2DenyCnt, .ro, 0, .any, .never, 0, 1⟩,
  ⟨Reg.Cxl.uioErrCnt, .ro, 0, .any, .never, 0, 1⟩,
  ⟨Reg.Cxl.uioTmoCnt, .ro, 0, .any, .never, 0, 1⟩,
  ⟨Reg.Cxl.linkDownCnt, .ro, 0, .any, .never, 0, 1⟩,
  ⟨Reg.Cxl.evtLostCnt, .ro, 0, .any, .never, 0, 1⟩,
  ⟨Reg.Cxl.cmdCnt, .ro, 0, .any, .never, 0, 1⟩]
/-- All fields of the Cxl window. -/
def regTableCxl : List FieldSpec := regTableCxl0

/-- Fields of the Ring window, part 0 (chapter 18 and the field tables it cites). -/
def regTableRing0 : List FieldSpec := [
  ⟨Reg.Ring.base, .rwf, 0, (.align 4096), .ringEn, 0, 1⟩,
  ⟨Reg.Ring.en, .own, 0, .any, .never, 0, 1⟩,
  ⟨Reg.Ring.coh, .rwf, 1, .any, .ringEn, 0, 1⟩,
  ⟨Reg.Ring.vec, .rwl, 2, .any, .never, 0, 1⟩,
  ⟨Reg.Ring.log2, .rwf, 10, .ringLog, .ringEn, 0, 1⟩,
  ⟨Reg.Ring.ie, .rwl, 0, .any, .never, 0, 1⟩,
  ⟨Reg.Ring.coalTime, .rwl, 0, .any, .never, 0, 1⟩,
  ⟨Reg.Ring.coalCnt, .rwl, 1, (.nearest 1 65535), .never, 0, 1⟩,
  ⟨Reg.Ring.wb, .rwf, 0, (.align 8), .ringEn, 0, 1⟩,
  ⟨Reg.Ring.head, .ro, 0, .any, .never, 0, 1⟩,
  ⟨Reg.Ring.tail, .ro, 0, .any, .never, 0, 1⟩]
/-- All fields of the Ring window. -/
def regTableRing : List FieldSpec := regTableRing0

/-- Fields of the Bell window, part 0 (chapter 18 and the field tables it cites). -/
def regTableBell0 : List FieldSpec := [
  ⟨Reg.Bell.doorbell, .own, 0, .any, .never, 0, 1⟩]
/-- All fields of the Bell window. -/
def regTableBell : List FieldSpec := regTableBell0

/-- Fields of the Sq window, part 0 (chapter 18 and the field tables it cites). -/
def regTableSq0 : List FieldSpec := [
  ⟨Reg.Sq.en, .own, 0, .any, .never, 0, 1⟩,
  ⟨Reg.Sq.flush, .own, 0, .any, .never, 0, 1⟩,
  ⟨Reg.Sq.lvl, .w1c, 0, .any, .never, 0, 1⟩,
  ⟨Reg.Sq.lost, .w1c, 0, .any, .never, 0, 1⟩,
  ⟨Reg.Sq.inpkt, .ro, 0, .any, .never, 0, 1⟩,
  ⟨Reg.Sq.level, .own, 0, .any, .never, 0, 1⟩,
  ⟨Reg.Sq.drop, .own, 0, .any, .never, 0, 1⟩,
  ⟨Reg.Sq.dataHi, .ro, 0, .any, .never, 0, 1⟩,
  ⟨Reg.Sq.lostCnt, .ro, 0, .any, .never, 0, 1⟩,
  ⟨Reg.Sq.dropCnt, .ro, 0, .any, .never, 0, 1⟩]
/-- All fields of the Sq window. -/
def regTableSq : List FieldSpec := regTableSq0

/-- Fields of the Flg window, part 0 (chapter 18 and the field tables it cites). -/
def regTableFlg0 : List FieldSpec := [
  ⟨Reg.Flg.underCnt, .ro, 0, .any, .never, 0, 1⟩,
  ⟨Reg.Flg.overCnt, .ro, 0, .any, .never, 0, 1⟩,
  ⟨Reg.Flg.addrCnt, .ro, 0, .any, .never, 0, 1⟩,
  ⟨Reg.Flg.monFullCnt, .ro, 0, .any, .never, 0, 1⟩,
  ⟨Reg.Flg.fltValid, .w1c, 0, .any, .never, 0, 1⟩,
  ⟨Reg.Flg.fltOver, .ro, 0, .any, .never, 0, 1⟩,
  ⟨Reg.Flg.fltPort, .ro, 0, .any, .never, 0, 1⟩,
  ⟨Reg.Flg.fltAddr, .ro, 0, .any, .never, 0, 1⟩]
/-- All fields of the Flg window. -/
def regTableFlg : List FieldSpec := regTableFlg0

/-- Fields of the Dlk window, part 0 (chapter 18 and the field tables it cites). -/
def regTableDlk0 : List FieldSpec := [
  ⟨Reg.Dlk.en, .rwl, 1, .any, .never, 0, 1⟩,
  ⟨Reg.Dlk.window, .rwl, 20, (.nearest 2 10000), .never, 0, 1⟩,
  ⟨Reg.Dlk.frozen, .ro, 0, .any, .never, 0, 1⟩,
  ⟨Reg.Dlk.waits, .ro, 0, .any, .never, 0, 1⟩,
  ⟨Reg.Dlk.cnt, .ro, 0, .any, .never, 0, 1⟩,
  ⟨Reg.Dlk.last, .ro, 0, .any, .never, 0, 1⟩,
  ⟨Reg.Dlk.snapSel, .rwl, 0, .any, .never, 0, 1⟩]
/-- All fields of the Dlk window. -/
def regTableDlk : List FieldSpec := regTableDlk0

/-- Fields of the Mtr window, part 0 (chapter 18 and the field tables it cites). -/
def regTableMtr0 : List FieldSpec := [
  ⟨Reg.Mtr.reqOp, .own, 0, .any, .never, 0, 1⟩,
  ⟨Reg.Mtr.reqChunk, .own, 0, .any, .never, 0, 1⟩,
  ⟨Reg.Mtr.mbDone, .w1c, 0, .any, .never, 0, 1⟩,
  ⟨Reg.Mtr.mbBusy, .ro, 0, .any, .never, 0, 1⟩,
  ⟨Reg.Mtr.mbGone, .w1c, 0, .any, .never, 0, 1⟩,
  ⟨Reg.Mtr.mbLen, .ro, 0, .any, .never, 0, 1⟩,
  ⟨Reg.Mtr.rseqSel, .rwl, 0, .any, .never, 0, 1⟩,
  ⟨Reg.Mtr.sealCnt, .ro, 0, .any, .never, 0, 1⟩,
  ⟨Reg.Mtr.newest, .ro, 0, .any, .never, 0, 1⟩,
  ⟨Reg.Mtr.cond, .ro, 0, .any, .never, 0, 1⟩]
/-- All fields of the Mtr window. -/
def regTableMtr : List FieldSpec := regTableMtr0

/-- Fields of the Hoist window, part 0 (chapter 18 and the field tables it cites). -/
def regTableHoist0 : List FieldSpec := [
  ⟨Reg.Hoist.refSettled, .ro, 0, .any, .never, 0, 1⟩,
  ⟨Reg.Hoist.refLost, .w1c, 0, .any, .never, 0, 1⟩,
  ⟨Reg.Hoist.convEn, .own, 0, .any, .never, 0, 1⟩,
  ⟨Reg.Hoist.refSrc, .rwf, 0, (.atLeast 3 0), .convEn, 0, 1⟩]
/-- All fields of the Hoist window. -/
def regTableHoist : List FieldSpec := regTableHoist0

/-- Fields of the Pnt window, part 0 (chapter 18 and the field tables it cites). -/
def regTablePnt0 : List FieldSpec := [
  ⟨Reg.Pnt.width, .rws, 2, (.nearest 0 2), .never, 0, 1⟩,
  ⟨Reg.Pnt.confWindow, .rws, 10, .any, .never, 0, 1⟩,
  ⟨Reg.Pnt.suspLimit, .rws, 4, (.nearest 1 255), .never, 0, 1⟩,
  ⟨Reg.Pnt.avg, .rws, 0, (.nearest 0 2), .never, 0, 1⟩,
  ⟨Reg.Pnt.retries, .rws, 3, .any, .never, 0, 1⟩,
  ⟨Reg.Pnt.thresh, .rws, 24, (.nearest 8 255), .never, 0, 1⟩,
  ⟨Reg.Pnt.zeroVecEn, .rwl, 1, .any, .never, 0, 1⟩,
  ⟨Reg.Pnt.zeroSliceEn, .rwl, 1, .any, .never, 0, 1⟩,
  ⟨Reg.Pnt.accEff, .ro, 1, .any, .never, 0, 1⟩,
  ⟨Reg.Pnt.accPromote, .rws, 1, (.nearest 0 2), .never, 0, 1⟩,
  ⟨Reg.Pnt.srReq, .rws, 1, .any, .never, 0, 1⟩,
  ⟨Reg.Pnt.srKv, .rws, 1, .any, .never, 0, 1⟩,
  ⟨Reg.Pnt.srResid, .rws, 1, .any, .never, 0, 1⟩,
  ⟨Reg.Pnt.rndSeed, .rws, 0, .any, .never, 0, 1⟩,
  ⟨Reg.Pnt.rndCtr, .ro, 0, .any, .never, 0, 1⟩,
  ⟨Reg.Pnt.ofmt, .rws, 6, (.nearest 0 11), .never, 0, 1⟩,
  ⟨Reg.Pnt.pool, .rws, 0, .any, .never, 0, 1⟩,
  ⟨Reg.Pnt.pgrp, .rws, 0, .any, .never, 0, 1⟩,
  ⟨Reg.Pnt.gate, .rwf, 0, (.nearest 0 2), .imageActive, 0, 1⟩,
  ⟨Reg.Pnt.gpart, .rwf, 0, .any, .imageActive, 0, 1⟩,
  ⟨Reg.Pnt.biasEn, .rws, 0, .any, .never, 0, 1⟩,
  ⟨Reg.Pnt.tbank, .rws, 0, .any, .never, 0, 1⟩,
  ⟨Reg.Pnt.act, .rws, 0, (.nearest 0 4), .never, 0, 1⟩,
  ⟨Reg.Pnt.outEn, .rwf, 0, .any, .imageActive, 0, 1⟩]
/-- Fields of the Pnt window, part 1 (chapter 18 and the field tables it cites). -/
def regTablePnt1 : List FieldSpec := [
  ⟨Reg.Pnt.actX0b0, .rwf, 0, .any, .bank0, 0, 1⟩,
  ⟨Reg.Pnt.actX0b1, .rwf, 0, .any, .bank1, 0, 1⟩,
  ⟨Reg.Pnt.actK1, .rwf, 0, .any, .bank1, 0, 1⟩,
  ⟨Reg.Pnt.actK0, .rwf, 0, .any, .bank0, 0, 1⟩,
  ⟨Reg.Pnt.actBank, .rwl, 0, .any, .never, 0, 1⟩,
  ⟨Reg.Pnt.actIdx, .rwl, 0, (.nearest 0 263), .never, 0, 1⟩,
  ⟨Reg.Pnt.actData, .own, 0, .any, .never, 0, 1⟩,
  ⟨Reg.Pnt.rows, .rws, 1024, .rows, .never, 4, 16⟩,
  ⟨Reg.Pnt.fs, .rws, 256, (.nearest 16 4095), .never, 4, 16⟩,
  ⟨Reg.Pnt.stState, .ro, 0, .any, .never, 4, 16⟩,
  ⟨Reg.Pnt.stSuspCnt, .ro, 0, .any, .never, 4, 16⟩,
  ⟨Reg.Pnt.stClip, .w1c, 0, .any, .never, 4, 16⟩,
  ⟨Reg.Pnt.stSat, .w1c, 0, .any, .never, 4, 16⟩,
  ⟨Reg.Pnt.stChkFail, .w1c, 0, .any, .never, 4, 16⟩,
  ⟨Reg.Pnt.stNoSpare, .w1c, 0, .any, .never, 4, 16⟩,
  ⟨Reg.Pnt.stSpareIdx, .ro, 0, .any, .never, 4, 16⟩,
  ⟨Reg.Pnt.zeroSliceCnt, .ro, 0, .any, .never, 0, 1⟩,
  ⟨Reg.Pnt.zeroVecCnt, .ro, 0, .any, .never, 0, 1⟩,
  ⟨Reg.Pnt.clipCnt, .ro, 0, .any, .never, 0, 1⟩,
  ⟨Reg.Pnt.satCnt, .ro, 0, .any, .never, 0, 1⟩,
  ⟨Reg.Pnt.retryCnt, .ro, 0, .any, .never, 0, 1⟩,
  ⟨Reg.Pnt.suspCnt, .ro, 0, .any, .never, 0, 1⟩,
  ⟨Reg.Pnt.chkSkipCnt, .ro, 0, .any, .never, 0, 1⟩]
/-- Fields of the Pnt window, part 2 (chapter 18 and the field tables it cites). -/
def regTablePnt2 : List FieldSpec := [
  ⟨Reg.Pnt.nffCnt, .ro, 0, .any, .never, 0, 1⟩,
  ⟨Reg.Pnt.cvtSatCnt, .ro, 0, .any, .never, 0, 1⟩,
  ⟨Reg.Pnt.cvtNanCnt, .ro, 0, .any, .never, 0, 1⟩,
  ⟨Reg.Pnt.nanVecCnt, .ro, 0, .any, .never, 0, 1⟩,
  ⟨Reg.Pnt.outVecCnt, .ro, 0, .any, .never, 0, 1⟩,
  ⟨Reg.Pnt.chkConfirm, .rws, 4, (.nearest 1 15), .never, 0, 1⟩,
  ⟨Reg.Pnt.chkDwell, .rws, 8, (.nearest 1 15), .never, 0, 1⟩,
  ⟨Reg.Pnt.chkLimit, .rws, 16, (.nearest 8 255), .never, 0, 1⟩,
  ⟨Reg.Pnt.cvStandin, .ro, 0, .any, .never, 4, 16⟩,
  ⟨Reg.Pnt.cvStandinM, .ro, 0, .any, .never, 4, 16⟩,
  ⟨Reg.Pnt.cvCflt, .ro, 0, .any, .never, 4, 16⟩,
  ⟨Reg.Pnt.cvUnchecked, .w1c, 0, .any, .never, 4, 16⟩,
  ⟨Reg.Pnt.cvChkFlt, .ro, 0, .any, .never, 4, 16⟩,
  ⟨Reg.Pnt.cvDwellOn, .ro, 0, .any, .never, 4, 16⟩,
  ⟨Reg.Pnt.cvDfltCnt, .ro, 0, .any, .never, 4, 16⟩,
  ⟨Reg.Pnt.cvDfltIdx, .ro, 0, .any, .never, 4, 16⟩,
  ⟨Reg.Pnt.disagreeCnt, .ro, 0, .any, .never, 0, 1⟩,
  ⟨Reg.Pnt.dwellCnt, .ro, 0, .any, .never, 0, 1⟩,
  ⟨Reg.Pnt.lateCnt, .ro, 0, .any, .never, 0, 1⟩,
  ⟨Reg.Pnt.flagCnt, .ro, 0, .any, .never, 0, 1⟩,
  ⟨Reg.Pnt.calForce, .own, 0, .any, .never, 0, 1⟩,
  ⟨Reg.Pnt.calAge, .rwl, 7, .any, .never, 0, 1⟩,
  ⟨Reg.Pnt.calFailLimit, .rws, 4, (.nearest 1 15), .never, 0, 1⟩,
  ⟨Reg.Pnt.calInitExp, .rwf, 18, (.nearest 10 20), .convEn, 0, 1⟩]
/-- Fields of the Pnt window, part 3 (chapter 18 and the field tables it cites). -/
def regTablePnt3 : List FieldSpec := [
  ⟨Reg.Pnt.calOld, .ro, 0, .any, .never, 0, 1⟩,
  ⟨Reg.Pnt.calStale, .ro, 0, .any, .never, 0, 1⟩,
  ⟨Reg.Pnt.calCount, .ro, 0, .any, .never, 0, 1⟩,
  ⟨Reg.Pnt.calFailCnt, .ro, 0, .any, .never, 0, 1⟩,
  ⟨Reg.Pnt.calSkipCnt, .ro, 0, .any, .never, 0, 1⟩,
  ⟨Reg.Pnt.calLfArray, .ro, 0, .any, .never, 0, 1⟩,
  ⟨Reg.Pnt.calLfQty, .ro, 0, .any, .never, 0, 1⟩,
  ⟨Reg.Pnt.calLfKind, .ro, 0, .any, .never, 0, 1⟩,
  ⟨Reg.Pnt.calLfIndex, .ro, 0, .any, .never, 0, 1⟩,
  ⟨Reg.Pnt.calLast, .ro, 0, .any, .never, 0, 1⟩,
  ⟨Reg.Pnt.calWinAddr, .rwl, 0, .any, .never, 0, 1⟩,
  ⟨Reg.Pnt.accDone, .ro, 0, .any, .never, 0, 1⟩,
  ⟨Reg.Pnt.accSel, .own, 0, .any, .never, 0, 1⟩,
  ⟨Reg.Pnt.accF, .ro, 0, .any, .never, 0, 1⟩,
  ⟨Reg.Pnt.accN, .ro, 0, .any, .never, 0, 1⟩,
  ⟨Reg.Pnt.accW, .ro, 0, .any, .never, 0, 1⟩,
  ⟨Reg.Pnt.wRatio, .rws, 64, (.nearest 17 255), .never, 0, 1⟩,
  ⟨Reg.Pnt.wAlpha, .rws, 8, (.nearest 2 12), .never, 0, 1⟩,
  ⟨Reg.Pnt.wRestart, .own, 0, .any, .never, 0, 1⟩,
  ⟨Reg.Pnt.wLowEn, .rws, 0, .any, .never, 0, 1⟩,
  ⟨Reg.Pnt.wEn, .rwl, 1, .any, .never, 0, 1⟩,
  ⟨Reg.Pnt.wsL2, .w1c, 0, .any, .never, 0, 1⟩,
  ⟨Reg.Pnt.wsLinf, .w1c, 0, .any, .never, 0, 1⟩,
  ⟨Reg.Pnt.wsLow, .w1c, 0, .any, .never, 0, 1⟩]
/-- Fields of the Pnt window, part 4 (chapter 18 and the field tables it cites). -/
def regTablePnt4 : List FieldSpec := [
  ⟨Reg.Pnt.wsNan, .w1c, 0, .any, .never, 0, 1⟩,
  ⟨Reg.Pnt.wsWarm, .ro, 1, .any, .never, 0, 1⟩,
  ⟨Reg.Pnt.watchCnt, .ro, 0, .any, .never, 0, 1⟩,
  ⟨Reg.Pnt.watchL2, .ro, 0, .any, .never, 0, 1⟩,
  ⟨Reg.Pnt.watchLinf, .ro, 0, .any, .never, 0, 1⟩,
  ⟨Reg.Pnt.wlValid, .ro, 0, .any, .never, 0, 1⟩,
  ⟨Reg.Pnt.wlTen, .ro, 0, .any, .never, 0, 1⟩,
  ⟨Reg.Pnt.wlSeq, .ro, 0, .any, .never, 0, 1⟩,
  ⟨Reg.Pnt.watchLayer, .rwf, 0, .any, .watchEn, 0, 1⟩,
  ⟨Reg.Pnt.watchTen, .rwf, 0, .any, .watchEn, 0, 1⟩,
  ⟨Reg.Pnt.busySlots, .ro, 0, .any, .never, 0, 1⟩,
  ⟨Reg.Pnt.lagCnt, .ro, 0, .any, .never, 0, 1⟩,
  ⟨Reg.Pnt.stallH, .ro, 0, .any, .never, 4, 6⟩]
/-- All fields of the Pnt window. -/
def regTablePnt : List FieldSpec := regTablePnt0 ++ regTablePnt1 ++ regTablePnt2 ++ regTablePnt3 ++ regTablePnt4

/-- Fields of the Vec window, part 0 (chapter 18 and the field tables it cites). -/
def regTableVec0 : List FieldSpec := [
  ⟨Reg.Vec.srReq, .rws, 1, .any, .never, 0, 1⟩,
  ⟨Reg.Vec.srKv, .rws, 1, .any, .never, 0, 1⟩,
  ⟨Reg.Vec.srResid, .rws, 1, .any, .never, 0, 1⟩,
  ⟨Reg.Vec.rndSeed, .rws, 0, .any, .never, 0, 1⟩,
  ⟨Reg.Vec.rndCtr, .ro, 0, .any, .never, 0, 1⟩,
  ⟨Reg.Vec.smpCand, .rws, 4096, (.nearest 256 4096), .never, 0, 1⟩,
  ⟨Reg.Vec.smpSeed, .rws, 0, .any, .never, 0, 1⟩,
  ⟨Reg.Vec.smpCtr, .ro, 0, .any, .never, 0, 1⟩,
  ⟨Reg.Vec.cvtSatCnt, .ro, 0, .any, .never, 0, 1⟩,
  ⟨Reg.Vec.cvtNanCnt, .ro, 0, .any, .never, 0, 1⟩,
  ⟨Reg.Vec.emptyAttnCnt, .ro, 0, .any, .never, 0, 1⟩,
  ⟨Reg.Vec.kvDecSatCnt, .ro, 0, .any, .never, 0, 1⟩,
  ⟨Reg.Vec.smpTruncCnt, .ro, 0, .any, .never, 0, 1⟩]
/-- All fields of the Vec window. -/
def regTableVec : List FieldSpec := regTableVec0

/-- Fields of the Bnt window, part 0 (chapter 18 and the field tables it cites). -/
def regTableBnt0 : List FieldSpec := [
  ⟨Reg.Bnt.refused, .w1c, 0, .any, .never, 0, 1⟩,
  ⟨Reg.Bnt.tagMiss, .w1c, 0, .any, .never, 0, 1⟩,
  ⟨Reg.Bnt.late, .w1c, 0, .any, .never, 0, 1⟩,
  ⟨Reg.Bnt.loadCnt, .ro, 0, .any, .never, 0, 1⟩,
  ⟨Reg.Bnt.lateCnt, .ro, 0, .any, .never, 0, 1⟩,
  ⟨Reg.Bnt.tagMissCnt, .ro, 0, .any, .never, 0, 1⟩,
  ⟨Reg.Bnt.adpSatCnt, .ro, 0, .any, .never, 0, 1⟩,
  ⟨Reg.Bnt.refuseCnt, .ro, 0, .any, .never, 0, 1⟩]
/-- All fields of the Bnt window. -/
def regTableBnt : List FieldSpec := regTableBnt0

/-- The fields a window holds. -/
def regTable : Blk → List FieldSpec
  | .glb => regTableGlb
  | .sch => regTableSch
  | .kvc => regTableKvc
  | .wgt => regTableWgt
  | .pwr => regTablePwr
  | .port => regTablePort
  | .lnk => regTableLnk
  | .cxl => regTableCxl
  | .ring => regTableRing
  | .bell => regTableBell
  | .sq => regTableSq
  | .flg => regTableFlg
  | .dlk => regTableDlk
  | .mtr => regTableMtr
  | .hoist => regTableHoist
  | .pnt => regTablePnt
  | .vec => regTableVec
  | .bnt => regTableBnt
  | .none => []

/-- Reset value of a field of a window that Tables 18-6 to 18-10 do not give as 0, by its offset in the window and its lowest bit. -/
def resetTable : Blk → List (Nat × Nat × Nat)
  | .glb => [(0x0, 16, 33170), (0x0, 8, 10), (0x0, 0, 1)]
  | .sch => [(0x100, 31, 1), (0x100, 16, 192), (0x100, 8, 16), (0x100, 0, 64), (0x104, 24, 4), (0x104, 16, 64), (0x104, 8, 8), (0x104, 0, 1), (0x108, 0, 8192), (0x10C, 30, 3), (0x10C, 16, 8192), (0x10C, 0, 32768), (0x110, 24, 32), (0x110, 20, 4), (0x110, 8, 8), (0x110, 0, 32), (0x114, 0, 512), (0x118, 28, 3), (0x118, 0, 100000), (0x11C, 24, 24), (0x11C, 0, 64), (0x124, 0, 64), (0x128, 0, 1065353216), (0x200, 24, 64), (0x200, 20, 3), (0x200, 16, 8), (0x200, 8, 4), (0x200, 0, 64), (0x204, 8, 128), (0x204, 0, 192), (0x208, 31, 1), (0x208, 0, 64)]
  | .kvc => [(0x0, 31, 1), (0x0, 16, 24), (0x0, 4, 4), (0x0, 0, 2), (0x4, 0, 3600), (0xC, 16, 8), (0xC, 0, 64), (0x1C, 0, 786432)]
  | .wgt => [(0x30, 24, 24), (0x30, 20, 2), (0x30, 12, 16), (0x30, 0, 64), (0x34, 31, 1), (0x34, 0, 30), (0x38, 0, 1100)]
  | .pwr => [(0x4, 20, 3000), (0x4, 0, 4600), (0x10, 5, 12451839), (0x20, 24, 40), (0x20, 16, 90), (0x20, 12, 3), (0x20, 4, 3), (0x20, 0, 4), (0x400, 20, 1680), (0x400, 16, 8), (0x400, 8, 12), (0x400, 4, 2), (0x404, 24, 95), (0x404, 16, 110), (0x800, 24, 10), (0x800, 0, 160), (0x830, 16, 64), (0x830, 0, 64)]
  | .port => [(0x0, 1, 1)]
  | .cxl => [(0x8, 14, 24064), (0xC, 16, 10000), (0xC, 0, 1024)]
  | .ring => [(0x8, 30, 1), (0x8, 16, 2), (0x8, 8, 10), (0xC, 0, 1)]
  | .dlk => [(0x0, 31, 1), (0x0, 0, 20)]
  | .pnt => [(0x0, 0, 2), (0x4, 24, 10), (0x4, 16, 4), (0x4, 12, 3), (0x4, 0, 24), (0x8, 1, 1), (0x8, 0, 1), (0xC, 8, 1), (0xC, 0, 1), (0x10, 2, 1), (0x10, 1, 1), (0x10, 0, 1), (0x24, 24, 6), (0x40, 16, 1024), (0x44, 16, 1024), (0x48, 16, 1024), (0x4C, 16, 1024), (0x50, 16, 1024), (0x54, 16, 1024), (0x58, 16, 1024), (0x5C, 16, 1024), (0x60, 16, 1024), (0x64, 16, 1024), (0x68, 16, 1024), (0x6C, 16, 1024), (0x70, 16, 1024), (0x74, 16, 1024), (0x78, 16, 1024), (0x7C, 16, 1024), (0x40, 0, 256), (0x44, 0, 256), (0x48, 0, 256), (0x4C, 0, 256), (0x50, 0, 256), (0x54, 0, 256), (0x58, 0, 256), (0x5C, 0, 256), (0x60, 0, 256), (0x64, 0, 256), (0x68, 0, 256), (0x6C, 0, 256), (0x70, 0, 256), (0x74, 0, 256), (0x78, 0, 256), (0x7C, 0, 256), (0x100, 20, 4), (0x100, 16, 8), (0x100, 0, 16), (0x200, 24, 7), (0x200, 16, 4), (0x200, 8, 18), (0x240, 24, 64), (0x240, 20, 8), (0x240, 0, 1), (0x244, 27, 1)]
  | .vec => [(0x10, 2, 1), (0x10, 1, 1), (0x10, 0, 1), (0x40, 0, 4096)]
  | _ => []

/-- Where an offset of BAR0 lies: its window, the number of the window's instance and the base of the instance
(Tables 18-1 and 18-2). -/
def locate (off : Nat) : Blk × Nat × Nat :=
  if off < 0x1000 then (.glb, 0, 0)
  else if off < 0x10000 then (.none, 0, 0)
  else if off < 0x20000 then (.sch, 0, 0x10000)
  else if off < 0x30000 then (.kvc, 0, 0x20000)
  else if off < 0x40000 then (.wgt, 0, 0x30000)
  else if off < 0x50000 then (.pwr, 0, 0x40000)
  else if off < 0x5A000 then (.port, (off - 0x50000) / 0x800, 0x50000 + (off - 0x50000) / 0x800 * 0x800)
  else if off < 0x60000 then (.lnk, 0, 0x5A000)
  else if off < 0x60100 then (.cxl, 0, 0x60000)
  else if off < 0x60260 then (.ring, (off - 0x60100) / 0x20, 0x60100 + (off - 0x60100) / 0x20 * 0x20)
  else if off < 0x61000 then (.none, 0, 0)
  else if off < 0x6C000 then (.bell, (off - 0x61000) / 0x1000, off / 0x1000 * 0x1000)
  else if off < 0x70000 then (.none, 0, 0)
  else if off < 0x74000 then (.sq, (off - 0x70000) / 0x100, off / 0x100 * 0x100)
  else if off < 0x80000 then (.none, 0, 0)
  else if off < 0x80800 then (.flg, 0, 0x80000)
  else if off < 0x90000 then (.dlk, 0, 0x80800)
  else if off < 0xA0000 then (.none, 0, 0)
  else if off < 0xB0000 then (.mtr, 0, 0xA0000)
  else if off < 0x1000000 then (.none, 0, 0)
  else if off < 0x3000000 then
    let h := (off - 0x1000000) / 0x100000
    let r := off % 0x100000
    let hb := off - r
    if r < 0x1000 then (.hoist, h, hb)
    else if r < 0x10000 then (.none, 0, 0)
    else if r < 0x20000 then (.pnt, h * 16 + (r - 0x10000) / 0x1000, off / 0x1000 * 0x1000)
    else if r < 0x80000 then (.none, 0, 0)
    else if r < 0x81000 then (.vec, h, hb + 0x80000)
    else if r < 0x90000 then (.none, 0, 0)
    else if r < 0x92000 then (.bnt, 2 * h + (r - 0x90000) / 0x1000, off / 0x1000 * 0x1000)
    else (.none, 0, 0)
  else (.none, 0, 0)

/-- Base of hoist `h`'s window (Table 18-1). -/
def hoistBase (h : Nat) : Nat := 0x1000000 + h * 0x100000
/-- Base of pennant `n`'s window, n = h × 16 + p (Table 18-2). -/
def pntBase (n : Nat) : Nat := hoistBase (n / 16) + 0x10000 + n % 16 * 0x1000
/-- Base of vector unit `h`'s window. -/
def vecBase (h : Nat) : Nat := hoistBase h + 0x80000
/-- Base of bunting tile `t`'s window. -/
def bntBase (t : Nat) : Nat := hoistBase (t / 2) + 0x90000 + t % 2 * 0x1000
/-- Base of port `n`'s registers (R308). -/
def portBase (n : Nat) : Nat := 0x50000 + n * 0x800
/-- Base of ring `n`'s configuration (R330). -/
def ringBase (n : Nat) : Nat := 0x60100 + n * 0x20
/-- Base of streamer queue `q` (R354). -/
def sqBase (q : Nat) : Nat := 0x70000 + q * 0x100
def schBase : Nat := 0x10000
def kvcBase : Nat := 0x20000
def wgtBase : Nat := 0x30000
def pwrBase : Nat := 0x40000
def lnkBase : Nat := 0x5A000
def cxlBase : Nat := 0x60000
def flgBase : Nat := 0x80000
def dlkBase : Nat := 0x80800
def mtrBase : Nat := 0xA0000

/-- The reset value of a field, by its key (R434). Ring n's VEC is 2 + n, and ring 9's LOG2SIZE is 24 (Table 18-8). -/
def resetField (key : Nat) : Nat :=
  let off := key / 32
  let lo := key % 32
  let (b, i, base) := locate off
  if b = .ring ∧ off - base = 8 ∧ lo = 16 then 2 + i
  else if b = .ring ∧ off - base = 8 ∧ lo = 8 ∧ i = 9 then 24
  else
    match (resetTable b).find? (fun e => e.1 = off - base ∧ e.2.1 = lo) with
    | some e => e.2.2
    | none => 0

/-- The fields that lie in the 32-bit register at an offset of a window, with the place of each in the part. A pair
is found at its LO half only. -/
def fieldsAt (off : Nat) : List FieldSpec :=
  let (b, _, base) := locate off
  let o := off - base
  (regTable b).filterMap fun r =>
    if r.stride = 0 then
      if r.field.off = o then some { r with field := ⟨off, r.field.lo, r.field.w⟩ } else none
    else if r.field.off ≤ o ∧ (o - r.field.off) % r.stride = 0 ∧ (o - r.field.off) / r.stride < r.count then
      some { r with field := ⟨off, r.field.lo, r.field.w⟩ }
    else none

/-- Nearest legal row window, the lower on a tie (Table 10-12). -/
def clampRows (v : Nat) : Nat :=
  if v ≤ 96 then 64 else if v ≤ 192 then 128 else if v ≤ 384 then 256 else if v ≤ 768 then 512 else 1024

/-- Nearest value of a range. -/
def clampRange (lo hi v : Nat) : Nat := if v < lo then lo else if hi < v then hi else v

/-- The legal value that replaces a written one (Table 10-12); `i` is the number of the window's instance. -/
def applyClamp (c : Clamp) (i v : Nat) : Nat :=
  match c with
  | .any => v
  | .nearest lo hi => clampRange lo hi v
  | .atLeast m w => if m ≤ v then w else v
  | .rows => clampRows v
  | .ringLog => if i = 9 then clampRange 16 30 v else clampRange 4 20 v
  | .align n => v / n * n

end Sys2Proof.Machine
end

