-- ==== Sys2Proof/Machine/SMap.lean ====
section
/-! DEFINITION. Sparse maps from a number to a value, in one canonical form: keys strictly rising, and no entry
equal to what an unlisted key reads as. Memory, registers and every per-unit table of State are such maps. -/

namespace Sys2Proof.Machine

/-- A sparse map. -/
abbrev SMap (α : Type) := List (Nat × α)

variable {α : Type}

/-- The value at a key; `d` says what an unlisted key reads as. -/
def SMap.get (d : Nat → α) : SMap α → Nat → α
  | [], k => d k
  | (j, v) :: m, k => if k = j then v else SMap.get d m k

/-- Put an entry in its place. -/
def SMap.put (k : Nat) (v : α) : SMap α → SMap α
  | [] => [(k, v)]
  | (j, w) :: m => if k = j then (k, v) :: m else if k < j then (k, v) :: (j, w) :: m else (j, w) :: SMap.put k v m

/-- Take the entry of a key out. -/
def SMap.erase (k : Nat) : SMap α → SMap α
  | [] => []
  | (j, w) :: m => if k = j then SMap.erase k m else (j, w) :: SMap.erase k m

/-- Write a value; writing what an unlisted key reads as removes the entry. -/
def SMap.set [DecidableEq α] (d : Nat → α) (m : SMap α) (k : Nat) (v : α) : SMap α :=
  if v = d k then SMap.erase k m else SMap.put k v m

/-- Replace the value at a key by a function of it. -/
def SMap.upd [DecidableEq α] (d : Nat → α) (m : SMap α) (k : Nat) (f : α → α) : SMap α :=
  SMap.set d m k (f (SMap.get d m k))

/-- Change every value; entries that now equal what an unlisted key reads as go. -/
def SMap.mapV [DecidableEq α] (d : Nat → α) (f : α → α) (m : SMap α) : SMap α :=
  (m.map fun e => (e.1, f e.2)).filter fun e => decide (e.2 ≠ d e.1)

/-- The keys rise strictly. -/
def SMap.sorted : SMap α → Bool
  | [] => true
  | [_] => true
  | (j, _) :: (k, w) :: m => decide (j < k) && SMap.sorted ((k, w) :: m)

/-- The canonical form. -/
def SMap.wf [DecidableEq α] (d : Nat → α) (m : SMap α) : Bool :=
  SMap.sorted m && m.all (fun e => decide (e.2 ≠ d e.1))

end Sys2Proof.Machine
end

