-- ==== Sys2Proof/Machine/Units.lean ====
section
/-! DEFINITION. What the units of the die keep beside their registers: arrays, pennants, vector units, the maintenance
arbiter, the power and thermal manager, the meter collector and the meter (chapters 02 to 06, 09, 14 and 15). -/

namespace Sys2Proof.Machine
open Sys2Proof

/-! ### Arrays (chapters 02, 03 and 09) -/

/-- A vector in an array's input buffer (R49, R110, R129): its input exponent and the integers of the array's rows. -/
structure InVec where
  vid : Nat
  step : Nat
  ten : Nat
  e : Int
  xs : List Int
  /-- The vector's maximum was NaN or infinite: no array reads it (R130). -/
  bad : Bool
  deriving DecidableEq, Repr

/-- One read of one slice: by column the composed corrected code in 1/64 LSB and the number of window conversions summed
into it; the columns that stayed clipped at 64 rows; whether a code was late and whether a window split (R53, R60,
R75). -/
structure Sample where
  codes : List (Nat × Int × Nat)
  sat : List Nat
  late : Bool
  split : Bool
  deriving DecidableEq, Repr

/-- One slice of a read: the reads of it so far and how many of them were retries (R61). -/
structure SliceRec where
  slice : Nat
  samples : List Sample
  retries : Nat
  settled : Bool
  passed : Bool
  deriving DecidableEq, Repr

/-- The values under which a read runs from its first slot to its last retry (R51, R89). -/
structure ReadPar where
  width : Nat
  rows : Nat
  fs : Nat
  thresh : Nat
  retries : Nat
  cal : SMap (Option Int)
  /-- Checksum converters not covered: their groups are not checked (R85). -/
  open_ : List Nat
  /-- Checksum converter that the check converter stands in for (R84). -/
  standin : Option Nat
  /-- The calibration store is uncorrectable: every evaluation fails (R413). -/
  calBad : Bool
  deriving DecidableEq, Repr

/-- A read whose result is not yet in the narrow accumulators (R62). -/
structure ReadRec where
  vec : InVec
  par : ReadPar
  slices : List SliceRec
  deriving DecidableEq, Repr

/-- A dwell of the check converter (R82): comparisons made, disagreements among them, the checksum column (0 to 15) it
compares, and DWELL, CONFIRM and LIMIT as they stood when it began (Table 3-14). -/
structure Dwell where
  made : Nat
  wrong : Nat
  col : Nat
  need : Nat
  confirm : Nat
  limit : Nat
  deriving DecidableEq, Repr

/-- Calibration of an array (R86 to R97). Values are kept by quantity × 1024 + index: offsets in 1/64 LSB, gains in
parts per million; a value never measured is the factory trim. -/
structure CalRec where
  vals : SMap (Option Int)
  /-- Consecutive failing rounds of a quantity. -/
  fails : SMap Nat
  /-- Flagged data converters. -/
  dflags : List Nat
  /-- The check converter's last calibration failed. -/
  chkFailed : Bool
  /-- Waivers owed: after a band or reference change, after a program, forced (R80, R88, R94, R96). -/
  waiveBand : Bool
  waiveStale : Bool
  waiveAll : Bool
  /-- Flagged checksum converters whose round has passed: the next dwell may clear them (R83). -/
  recheck : List Nat
  /-- LTIME of the last passing cycle. -/
  lastPass : Nat
  /-- The cycle of the round in progress is done. -/
  done : Bool
  /-- The calibration store holds an uncorrectable word (R413). -/
  bad : Bool
  deriving DecidableEq, Repr

/-- The block of weights an array holds, or that a placement reserves it for (R64, R266, Table 9-3). -/
structure BlockRef where
  slot : Nat
  layer : Nat
  block : Nat
  role : Nat
  matrix : Nat
  row0 : Nat
  rows : Nat
  cols : Nat
  col0 : Nat
  deriving DecidableEq, Repr

/-- Why an array is programmed: an install, as a spare for another array (by touch-up or not), or a repair. -/
inductive Job where
  | install
  | spareFor (src : Nat) (touch : Bool)
  | repair
  deriving DecidableEq, Repr

/-- Progress of a job (R239, R242): waiting for its chunk, being programmed, at rest, awaiting readback. -/
inductive JobPhase where
  | wantChunk | programming | resting | reading
  deriving DecidableEq, Repr

/-- An array (R13, Table 2-7), beside `PNT_STAT`, `PNT_ROWWIN` and `CNV_STAT`. -/
structure ArrRec where
  /-- Net levels of its cell pairs, by row × 1024 + column (R41). -/
  levels : SMap Int
  /-- Levels being programmed. -/
  target : SMap Int
  /-- Residue store, by row × 16 + group (R59), and whether it is uncorrectable. -/
  residues : SMap Int
  resBad : Bool
  hold : Option BlockRef
  /-- The block a placement reserves the array for, and the epoch slot whose placement names it a spare. -/
  reserved : Option BlockRef
  spareSlot : Option Nat
  /-- The block that moved away from the array: its cells still hold it (R251). -/
  past : Option BlockRef
  job : Option Job
  phase : JobPhase
  /-- LTIME at which the rest began. -/
  restAt : Nat
  /-- RELAX and REPASS as they stood when the program began: a live change applies to later programs (Table 9-13). -/
  relax : Nat
  repass : Nat
  failedReads : Nat
  /-- ADD_SPARE waits for a diagnostic read (R253). -/
  adding : Bool
  /-- The spare that takes this array's block, once chosen; `ready` when its readback has passed (R67). -/
  heir : Option Nat
  heirReady : Bool
  buf : List InVec
  reads : List ReadRec
  /-- Rotation index of the check converter and the next reference column (R81). -/
  rot : Nat
  refNext : Nat
  dwell : Option Dwell
  /-- Reads since the suspect window began (R65). -/
  winReads : Nat
  /-- Consecutive reads without an idle slot (R86). -/
  busyReads : Nat
  /-- Slots of the step so far, and the pause after the last read (R193, R365). -/
  stepSlots : Nat
  pause : Nat
  cal : CalRec
  /-- Drift age in units of Config.ageUnit (R250). -/
  age : Nat
  overdue : Bool
  /-- Step of the last clip report (R54). -/
  clipStep : Option Nat
  deriving DecidableEq, Repr

/-- The reference monitor of a hoist (R78, R80): readings so far, newest first, and the reading at which SETTLED last
set, in µV. -/
structure HoistRec where
  readings : List Nat
  settledAt : Nat
  deriving DecidableEq, Repr

/-! ### Pennants (chapters 04 and 05) -/

/-- One array of a chain within a pennant: the array, its full-scale and role, and whether a promotion follows it
(R115), with the interval that promotion reports. -/
structure ChainItem where
  arr : Nat
  fs : Nat
  role : Nat
  ends : Bool
  eff : Nat
  deriving DecidableEq, Repr

/-- Accumulation of one vector in one pennant (R111 to R113). -/
structure VecAcc where
  tag : VecTag
  e : Int
  bad : Bool
  width : Nat
  todo : List ChainItem
  /-- Results of arrays that wait for their turn: array and ACC-N contributions by column. -/
  got : List (Nat × List (Nat × Int))
  /-- No array has read the vector: every contribution was skipped (R57, R140). -/
  skipped : Bool
  accN : SMap Int
  accW : SMap Int
  deriving DecidableEq, Repr

/-- A column's parameters (R133): E8M0 exponent, FP16 multiplier, FP32 bias. -/
structure ColParam where
  x : Nat
  m : Nat
  bias : Nat
  deriving DecidableEq, Repr

/-- A delivered output vector (R128, R139): format code, elements, block scales and segment maximum. -/
structure OutVec where
  vid : Nat
  ten : Nat
  seq : Nat
  fmt : Nat
  elems : List Nat
  scales : List Nat
  max : Nat
  deriving DecidableEq, Repr

/-- A vector that waits at stage 7 of a gated consumer: its FP32 values after stage 6 (R137). -/
structure GateItem where
  tag : VecTag
  vals : List Nat
  skipped : Bool
  deriving DecidableEq, Repr

/-- A pennant (R16), beside its registers. -/
structure PntRec where
  accs : List VecAcc
  /-- Vectors that the gated producer has sent, oldest first, and vectors that wait for them (R137). -/
  partners : List (List Nat)
  gateWait : List GateItem
  /-- Adapter deltas sent by tiles and not yet arrived, and those that have arrived: vector, tile, FP32 deltas by
  column (R171). -/
  coming : List (Nat × Nat × List (Nat × Nat))
  deltas : List (Nat × Nat × List (Nat × Nat))
  /-- Vectors collected for SEQ_MEAN: step, sequence, whether every read was skipped, columns (R138). -/
  pool : List (Nat × Nat × Bool × List Nat)
  /-- Activation tables, by bank × 512 + index (R135). -/
  act : SMap Nat
  /-- Column parameter store and the columns whose entry is uncorrectable (R133). -/
  params : SMap (Option ColParam)
  badCols : List Nat
  /-- Accumulators of the vector last worked on (R126). -/
  lastN : SMap Int
  lastW : SMap Int
  lastF : Nat
  snapReq : Bool
  /-- Watched vectors seen in warm-up, and a restart asked for (R141). -/
  warmSeen : Nat
  restart : Bool
  /-- Calibration: a round runs, it is the initial one, it must run first, a value has failed in it (R88, R95, R96). -/
  round : Bool
  initial : Bool
  first : Bool
  roundFailed : Bool
  roundSkipped : Bool
  out : Option OutVec
  /-- Above the lag ratio for SCH_LAG.STEPS steps in a row (R193). -/
  lagging : Bool
  deriving DecidableEq, Repr

/-! ### Vector units (chapter 06) -/

/-- A partial attention record at the combiner (R156, R157): FP32 bits. -/
structure Partial where
  m : Nat
  s : Nat
  o : List Nat
  deriving DecidableEq, Repr

/-- A combination in progress: what the plan lists, and the partials present by holder. -/
structure Combine where
  cid : Nat
  step : Nat
  seq : Nat
  ten : Nat
  head : Nat
  holders : Nat
  dst : VecDst
  got : List (Nat × Partial)
  deriving DecidableEq, Repr

/-- A holder's partial for a query head and position (R155). -/
structure Holder where
  step : Nat
  lslot : Nat
  seq : Nat
  head : Nat
  pos : Nat
  part : Partial
  deriving DecidableEq, Repr

/-- A vector unit (R152), beside its registers. -/
structure VecRec where
  combines : List Combine
  holders : List Holder
  /-- The vector last produced, as FP32 or as codes of its destination format. -/
  out : List Nat
  deriving DecidableEq, Repr

/-! ### Maintenance arbiter (R371 to R375) -/

/-- States of a key/value block (Table 8-5). -/
inductive BlockState where
  | opened | hot | lent | cxl | moving
  deriving DecidableEq, Repr

/-- A waiting request. -/
structure MntReq where
  act : MntAct
  arrival : Nat
  aged : Bool
  waited : Bool
  deriving DecidableEq, Repr

/-- A grant: the activity, the resources it holds and its claim in mW. -/
structure MntGrant where
  act : MntAct
  res : List Nat
  claim : Nat
  deriving DecidableEq, Repr

/-- The maintenance arbiter. -/
structure MntState where
  waiting : List MntReq
  granted : List MntGrant
  deriving DecidableEq, Repr

/-! ### Power and temperature (R355 to R370) -/

/-- Why the 42 V stage is latched off (R357, R364). -/
inductive Latch where
  | none
  | rail (n : Nat)
  | trip (sensor : Nat)
  deriving DecidableEq, Repr

/-- A sensor, beside `THM_SENSORn` (R361, R362). -/
structure Sensor where
  /-- LTIME of the last sample, and the LTIME since which every sample has passed every test. -/
  lastAt : Nat
  passSince : Option Nat
  /-- Consecutive samples that disagree, and that reach the trip limit. -/
  apart : Nat
  hot : Nat
  /-- Since when the value has been the same, with twice the group's median at that time (stuck test). -/
  sameSince : Nat
  sameMedian : Option Int
  deriving DecidableEq, Repr

/-- Power, temperature and headroom. -/
structure PwrState where
  /-- Rails power-good (`PWR_STAT.PG`); the stage runs. -/
  pg : List Nat
  on : Bool
  vin10mV : Nat
  latch : Latch
  /-- The input fell below 34 V since the latch was set. -/
  armed : Bool
  sensors : SMap Sensor
  /-- Regions whose clock is being stretched (R359). -/
  droop : List Nat
  /-- Region clocks of R363 and R366: LTIME since which T_r is below the band's fall limit; last rise and last fall. -/
  below : SMap (Option Nat)
  /-- Highest band that a region fell from in the second now running (R250). -/
  topBand : SMap Nat
  lastUp : SMap (Option Nat)
  lastDown : SMap (Option Nat)
  /-- Excess energy X in nJ, input power samples of the last 100 µs in mW, newest first, the LTIME of the last rise of
  L_p at BUCKET while X stays there, and of its last fall. -/
  excess : Nat
  samples : List Nat
  overAt : Option Nat
  easeAt : Option Nat
  /-- The throttle in force came from a peak. -/
  peak : Bool
  /-- Wave level: last rise, last fall, and the source that reached its limit last (Table 14-6, HOT). -/
  waveUp : Option Nat
  waveDown : Option Nat
  waveSrc : Nat
  /-- Busy time of the last wave in LTIME ticks, and the steps whose first input is held, with the LTIME of the end. -/
  busy : Nat
  held : List (Nat × Nat)
  /-- R_th of the sources in n°C per W (R370); readings of the second now running by source in 1/16 °C and how many, and
  power samples in mW and how many. -/
  rth : SMap Nat
  tSum : SMap Int
  tCount : Nat
  pSum : Nat
  pCount : Nat
  /-- P_mean of the last second in mW; the LTIME at which PWR_COOLANT was written. -/
  pMean : Nat
  coolantAt : Option Nat
  /-- Publication number, and LTIME of the newest headroom word. -/
  pub : Nat
  pubAt : Option Nat
  /-- Published R_th, FP32 bits (`PWR_RTH`). -/
  rthBits : Nat
  /-- Hoists whose VCORE and VANA gates are open. -/
  core : List Nat
  vana : List Nat
  /-- Gates asked to switch, oldest first, of which at most four switch at once: hoist, VANA or VCORE, opening. -/
  ramping : List (Nat × Bool × Bool)
  deriving DecidableEq, Repr

/-! ### Meter (chapter 15) -/

/-- A frame of the counter interface: interval, LTIME, counts by account and kind (R382). -/
structure Frame where
  interval : Nat
  ltime : Nat
  counts : List (Nat × Nat × Nat)
  deriving DecidableEq, Repr

/-- A record of the meter (R385, R386, R389). -/
structure MeterRecord where
  format : Nat
  rseq : Nat
  bytes : List Byte
  deriving DecidableEq, Repr

/-- The collector in the fly ring (R382) and the metering domain (R378). -/
structure MeterState where
  /-- Collector: counts by account × 16 + kind, and the interval number. -/
  acts : SMap Nat
  interval : Nat
  /-- Frames sent and not yet received. -/
  sent : List Frame
  on : Bool
  mtime : Nat
  /-- Remainder of the last second's energy below 1 µJ, in fJ (R380). MTIME stands at the start of the open second. -/
  carryFj : Nat
  firstRecord : Bool
  sealFault : Bool
  /-- Counts of the open second, and of the frames in it. -/
  counts : SMap Nat
  frames : Nat
  missing : Nat
  firstFrame : Option (Nat × Nat)
  lastInterval : Option Nat
  /-- Channel fault or over range of the last completed second. -/
  flagged : Bool
  records : List MeterRecord
  rseq : Nat
  /-- Newest record read over I3C. -/
  readTo : Nat
  totals : SMap Nat
  saved : SMap Nat
  savedOpen : Nat
  sealCount : Nat
  params : MeterParams
  spare : Option MeterParams
  /-- The spare copy is being programmed; it is programmed and checked. -/
  programming : Bool
  exchange : Bool
  /-- Valid nonce and the MTIME of its issue. -/
  nonce : Option (List Byte × Nat)
  /-- The seal record that the first second record under a new set owes: the digest of the old set (R389). -/
  sealDue : Option (List Byte)
  /-- The totals record that READ_TOTALS formed. -/
  totalsRec : Option MeterRecord
  /-- Answer window of the mailbox, and a request that waits for management firmware (R34, R392). -/
  win : List Byte
  held : Option (Nat × Nat)
  deriving DecidableEq, Repr

end Sys2Proof.Machine
end

