-- ==== Sys2Proof/Machine/State.lean ====
section
/-! DEFINITION. The state of the block: every register, store, queue, counter, mode and pin that the spec gives the
part, as plain data, with the queue of waiting commands, and State.reset, the part right after RESET_N is released.
Where a field of a register holds a value, that field (in `regs`) is its one home. -/

namespace Sys2Proof.Machine
open Sys2Proof

/-- Why a command stops: an operand names a unit that the part does not have. Safe: the hardware has no such unit, so
no command of it exists. -/
inductive Fault where
  /-- A Lenrik port above 19 (R283). -/
  | noSuchPort
  /-- A ring above 10 (Table 12-2). -/
  | noSuchRing
  /-- A sensor above 71 (R361). -/
  | noSuchSensor
  /-- A rail above 5 (Table 14-9). -/
  | noSuchRail
  /-- An initiator port above 56 (Table 1-7). -/
  | noSuchInitiator
  /-- A converter, gate or source index above the last (chapters 03 and 14). -/
  | noSuchUnit
  /-- A clock above bit 30 of GLB_CLKPRESENT (Table 13-8). -/
  | noSuchClock
  /-- A length, wavelength or lane outside what the command can carry. -/
  | badLength
  /-- An offset that is no half of a 64-bit pair (Table 18-3). -/
  | noSuchPair
  deriving DecidableEq, Repr

/-- Why a command is refused. -/
inductive Refusal where
  /-- The command has no meaning in the model yet; safe, nothing is claimed of it. -/
  | notModelled (mnemonic : String)
  deriving DecidableEq, Repr

/-- An access that the ring root holds for a requester (R337, R340). -/
structure RegAccess where
  write : Bool
  off : Nat
  size : Nat
  value : Nat
  deriving DecidableEq, Repr

/-- What the ring root keeps for one requester: read latches and write holds by LO offset (R430, R431) and the
accesses waiting for a stopped clock, oldest first (R340). -/
structure ReqPort where
  latches : SMap Nat
  holds : SMap (Option Nat)
  queue : List RegAccess
  deriving DecidableEq, Repr

/-- A posted write of the host to a doorbell, to BAR2 or to a register. -/
inductive Posted where
  | bell (ring value : Nat)
  | bar2 (off : Nat) (bytes : List Byte)
  | reg (off size value : Nat)
  deriving DecidableEq, Repr

/-- A closed host commit (R275, R276). -/
structure HostCommit where
  seq : Nat
  atStep : Option Nat
  values : List (Nat × Nat)
  deriving DecidableEq, Repr

/-- An internal commit: of the recipe policy or of an amendment (R276). -/
structure IntCommit where
  amend : Bool
  recipes : List (Nat × Nat)
  values : List (Nat × Nat)
  deriving DecidableEq, Repr

/-- State of one side of a crossing (Table 13-3). -/
inductive CrossSide where
  | run | held | waitclr
  deriving DecidableEq, Repr

/-- A crossing between MCLK or HCLK and a domain that can stop: its two sides and the entries in it. -/
structure Crossing where
  near : CrossSide
  far : CrossSide
  entries : Nat
  deriving DecidableEq, Repr

/-- A streamer queue: entries from stage 0 on, each with whether it has settled. -/
structure StreamQueue where
  entries : List (Word64 × Bool)
  deriving DecidableEq, Repr

/-- A registered WAIT: what it waits for, and the word it last read (R350). -/
structure Waiter where
  spec : WaitSpec
  monitored : Bool
  seen : Word64
  deriving DecidableEq, Repr

/-- A payload flit that the sender keeps until it is acknowledged (R287). -/
structure TxFlit where
  fseq : Nat
  vc : Nat
  msg : Msg
  first : Bool
  resent : Nat
  deriving DecidableEq, Repr

/-- What a Lenrik port keeps beside its registers (R286 to R293). -/
structure PortState where
  attempts : Nat
  /-- Last sequence number sent. -/
  txSeq : Nat
  /-- Messages waiting, per virtual channel, each with the flits of it still to send. -/
  queues : List (Nat × Msg × Nat)
  replay : List TxFlit
  /-- Flits of the replay buffer still to be sent again. -/
  resend : List TxFlit
  /-- Last flit received in good order. -/
  rxSeq : Nat
  /-- A NAK is outstanding, since this LTIME. -/
  nakSince : Option Nat
  nakToSend : Bool
  /-- Credits owed to the other end, per virtual channel. -/
  owed : List Nat
  /-- Flit times the broadcast channel has waited. -/
  bcWait : Nat
  /-- Which of activation and key/value went last. -/
  kvLast : Bool
  /-- The last flit sent. -/
  lastTx : Option FlitHead
  /-- LTIME of the last message sent and of the last heard. -/
  lastSent : Nat
  lastHeard : Nat
  /-- LTIME of the entry into DOWN, and at which the training attempt began. -/
  downAt : Nat
  attemptAt : Nat
  deriving DecidableEq, Repr

/-- A step in flight on this part (R181). -/
structure StepRec where
  plan : Plan
  composedAt : Nat
  started : Bool
  kvDone : Bool
  /-- Sequences that this part, as the output part, has sampled so far. -/
  sampled : List Accepted
  /-- Drafts received for the output part's verification, by sequence (R221). -/
  drafts : List (Nat × List Proposal)
  accepted : Option (List Accepted)
  /-- Mirror acknowledgements still awaited (R303): one, two on the head part. -/
  unacked : Nat
  /-- The step's entries have gone to the partner (R303). -/
  mirrorSent : Bool
  readySent : Bool
  ready : List Nat
  readyAt : Option Nat
  reserve : Nat
  /-- Fetches of the plan started so far, in plan order (R214). -/
  fetched : Nat
  /-- Positions of the step (generation k + 1 each, prefill chunks). -/
  positions : Nat
  deriving DecidableEq, Repr

/-- Headroom values of a part, as published (R189, R369): µW, µ°C, n°C per W and κ × 10^9, with the claims C of R190
in µW. -/
structure Headroom where
  watts : Int
  theta : Int
  rth : Nat
  kappa : Nat
  claimed : Int
  deriving DecidableEq, Repr

/-- The ring root and the configuration state (R275, R276, R429 to R431). -/
structure CfgState where
  reqs : SMap ReqPort
  /-- Uncommitted host shadows: field key and value (R275). -/
  shadows : SMap Nat
  commits : List HostCommit
  internals : List IntCommit
  /-- IMAGE_ACTIVE has set since reset (R311). -/
  imageEver : Bool
  /-- Crossings by the GLB_CLKPRESENT bit of the domain on their far side. -/
  crossings : SMap Crossing
  /-- Regions lost to an unplanned clock loss, until a conventional reset (R419). -/
  lostRegions : List Nat
  /-- Posted writes of the host that wait for CXL.io credits behind 16 hung writes (Table 13-4). -/
  posted : List Posted
  deriving DecidableEq, Repr

/-- A load of an ensign image in progress (R269). -/
structure EnsLoad where
  image : EnsImage
  amend : Bool
  deriving DecidableEq, Repr

/-- The ensign image in force and the load in progress (R269 to R272). -/
structure EnsState where
  /-- A LOAD that waits for management firmware (R34). -/
  held : Option EnsImage
  load : Option EnsLoad
  image : Option EnsImage
  /-- LEND value of an amendment that waits for lent blocks to move (R271). -/
  lendNext : Option Nat
  /-- An accepted amendment whose internal commit has formed. -/
  amending : Option EnsImage
  deriving DecidableEq, Repr

/-- Flag words, waits and the deadlock detector (R348 to R352). -/
structure SyncState where
  waiters : List Waiter
  /-- LTIME of the last movement or of the window's restart. -/
  windowStart : Nat
  snapshot : List (List Nat)
  sqs : SMap StreamQueue
  deriving DecidableEq, Repr

/-- One copy of the lifetime record (R421): its snapshot number, its counts by offset and whether its CRC verifies. -/
structure LifeCopy where
  number : Nat
  counts : SMap Nat
  valid : Bool
  deriving DecidableEq, Repr

/-- Fault collector and lifetime records (R418, R421). -/
structure FaultState where
  /-- Bunting-staging lines marked invalid (R411). -/
  badStage : List Nat
  /-- Key/value blocks being restored from the partner: layer slot, sequence, block (R415). -/
  restoring : List (Nat × Nat × Nat)
  queue : List FaultEntry
  /-- LTIME of the last FAULT event of a code and source. -/
  sent : List (Nat × Nat × Nat)
  /-- Running counts of the lifetime record by offset (Table 17-4), from the newest copy on. -/
  life : SMap Nat
  copies : SMap LifeCopy
  snapshots : Nat
  lastSnapshot : Nat
  /-- Corrected words of each slice in the current hour, with the hour's number and whether the report was made. -/
  sliceCorr : SMap (Nat × Nat × Bool)
  /-- Poisoned 256-byte lines, by line number (R411). -/
  poisoned : List Nat

  deriving DecidableEq, Repr

/-- Rings, events, commands and the CXL link (R309 to R328). -/
structure HostState where
  events : List Event
  lost : Nat
  /-- Entries added since the last signal and LTIME of the first of them, per producer ring. -/
  unsignalled : SMap (Nat × Nat)
  /-- Committed step records held for the link or for ring 9, oldest first: step number and bytes (R310). -/
  held : List (Nat × List Byte)
  /-- Commands read and not completed, deferred to a step boundary or a copy: OP and header (R319, R321). -/
  openCmds : List (Nat × CmdHead)
  /-- The STAGE_COPY in progress: header, offset in bytes and length. -/
  staging : Option (CmdHead × Nat × Nat)
  /-- MSI-X: function mask, unmasked vectors, pending vectors, messages sent (R324). -/
  funcMask : Bool
  unmasked : List Nat
  msixTable : SMap Nat
  msixPending : List Nat
  msixSent : List Nat
  /-- UIO requests in flight: kind of use and how many attempts have been made. -/
  uio : List (UioUse × Nat)
  /-- LTIME of the last TIER_UNREACHABLE event. -/
  unreachAt : Option Nat
  /-- Bytes that the part has written to host memory. -/
  mem : SMap Byte
  deriving DecidableEq, Repr

/-- Mirrored positions held for the partner: staged until the mirror record of its tenant and step is written under an
encryption counter value; `whole` once the block's records are compacted into one mirror block (R303). -/
structure MirrorEntry where
  item : MirrorItem
  step : Nat
  nonce : Option Nat
  whole : Bool
  deriving DecidableEq, Repr

/-- Lenrik fabric (R283 to R307). -/
structure LnkState where
  ports : SMap PortState
  /-- Position entries whose ALT address is in use (R305). -/
  switched : List Nat
  /-- The board controller has written the board and slot numbers (R291, R446). -/
  podKnown : Bool
  /-- LTIME at which a part was last heard, by pod address. -/
  heard : SMap Nat
  /-- Reports of silence received: reporting and silent pod address. -/
  silent : List (Nat × Nat)
  /-- Lost parts whose position nothing has taken over. -/
  lostPods : List Nat
  /-- Activation vectors of a step in a layer slot: step, layer slot, the next vector for the quantisers, and vectors
  held because they came early, as first vector and number (R292). -/
  arrivals : List (Nat × Nat × Nat × List (Nat × Nat))
  /-- Mirrored entries of the partner (R303), acknowledgements withheld for want of mirror buffer, and the mirrored
  sequence records with the last step they belong to. -/
  mirror : List MirrorEntry
  mirrorOwed : List Nat
  mirrorSeqs : SMap SeqRec
  mirrorStep : Nat
  /-- Promoted for the head part of the lost instance: it composes that instance's steps, the next of this number; the
  pod address its last plan came from otherwise (R305). -/
  lostHead : Bool
  lostNext : Nat
  lostHeadPod : Option Nat
  /-- Sequences to copy, when pair resynchronisation began (R306). -/
  resyncTotal : Nat
  /-- A reclaim of the lent space runs; a handback copy runs (R216, R305). -/
  reclaiming : Bool
  handingBack : Bool
  deriving DecidableEq, Repr

/-- Recipe policy of a layer slot (R147, R148): the index in force, the step of the last change, watch word values read
at the last boundaries, newest first, steps in a row without a jump, and whether HOLD was set. -/
structure RecipeRec where
  k : Nat
  changed : Option Nat
  hist : List Nat
  clean : Nat
  held : Bool
  deriving DecidableEq, Repr

/-- Step scheduling (R177 to R193). -/
structure SchedState where
  /-- Recipe policy by layer slot. -/
  recipes : SMap RecipeRec
  tenantCount : Nat
  tenants : SMap Tenant
  classes : SMap ClassEntry
  seqs : SMap SeqRec
  /-- Number of the next step composed (R180). -/
  nextStep : Nat
  steps : List StepRec
  /-- Averaged latency of each class in µs (R188). -/
  lat : SMap Nat
  headroom : SMap Headroom
  /-- Predictions of the last committed step, by position: power in µW and energy in nJ (R190, R35). -/
  refPred : SMap (Int × Nat)
  prevPositions : Nat
  orderNext : Nat
  /-- The highest step whose boundary this part has passed (R182). -/
  boundary : Option Nat
  /-- Pod address that the last step plan came from. -/
  headPod : Option Nat
  deriving DecidableEq, Repr

/-- A block of the block directory (Table 8-2), with what a move in progress keeps. -/
structure Block where
  ten : Nat
  seq : Nat
  blk : Nat
  fmt : Nat
  lslot : Nat
  /-- First slot in use: above 0 in a block opened at a seal point (R207). -/
  first : Nat
  fill : Nat
  state : BlockState
  loc : Nat
  peer : Nat
  sel : Bool
  /-- The step that allocated the block, until it commits or fails (R228). -/
  step : Option Nat
  /-- Moving: the state and place the block comes from, where it goes, and whether the copy is done. -/
  src : BlockState
  dest : MoveDest
  destLoc : Nat
  copied : Bool
  /-- Chosen for demotion, for promotion, or to be freed at a step boundary. -/
  demote : Bool
  promote : Bool
  freeing : Bool
  /-- Nonce of the block's CXL copy (R212). -/
  nonce : Nat
  deriving DecidableEq, Repr

/-- A block kept for a peer (R211, R216): the borrower's pod address, the block's tenant and identity at the borrower,
its lines and place, and whether it is being demoted to the CXL tier. -/
structure LentBlock where
  pod : Nat
  ten : Nat
  seq : Nat
  lslot : Nat
  blk : Nat
  fmt : Nat
  first : Nat
  fill : Nat
  lines : Nat
  loc : Nat
  demoting : Bool
  deriving DecidableEq, Repr

/-- A staged copy of a CXL-tier block (R214): the step it was fetched for, the block, and its line in SRAM. -/
structure StagedBlock where
  step : Nat
  lslot : Nat
  seq : Nat
  blk : Nat
  loc : Nat
  deriving DecidableEq, Repr

/-- Key/value tiers (R205 to R220). -/
structure KvState where
  dir : List Block
  staged : List StagedBlock
  /-- Fetches of plans not yet done. -/
  fetching : List (Nat × Nat × Nat × Nat)
  /-- First encryption counter value that is not reserved (R212). -/
  reserved : Nat
  /-- Blocks kept for peers in the lent space. -/
  lent : List LentBlock
  /-- KV_TIER_FULL sent and not yet relieved: directory, hot tier, CXL tier. -/
  fullDir : Bool
  fullHot : Bool
  fullCxl : Bool
  deriving DecidableEq, Repr

/-- States of a bunting bank (Table 6-3). -/
inductive BankState where
  | empty | loading | ready
  deriving DecidableEq, Repr

/-- A bunting bank: its tag, where its load comes from and the bytes it holds (R166 to R168). -/
structure Bank where
  state : BankState
  ten : Nat
  kind : Nat
  version : Nat
  src : Nat
  len : Nat
  /-- The step whose plan ordered the load. -/
  step : Nat
  data : SMap Byte
  deriving DecidableEq, Repr

/-- States of a weight epoch slot (Table 9-8, Table 9-15). -/
inductive SlotState where
  | empty | installing | installed | dormant | failed
  deriving DecidableEq, Repr

/-- A weight epoch slot (R246, R254, R255). -/
structure EpSlot where
  state : SlotState
  num : Nat
  root : List Byte
  placement : List Byte
  modelId : Nat
  imageVer : Nat
  publisher : List Byte
  /-- Arrays and tile sections of the image, and arrays read back. -/
  arrays : Nat
  tiles : Bool
  readBack : Nat
  /-- An ATTACH of the slot has ended since start-up (R447). -/
  attachEnded : Bool
  deriving DecidableEq, Repr

/-- What the part keeps of a resident or arriving image: its block and chunk tables by layer slot (R234). -/
structure ImgTables where
  blocks : List (Nat × BlockEntry)
  chunks : List (Nat × ChunkEntry)
  deriving DecidableEq, Repr

/-- How far an install or attach has come (Table 9-5): the root, the wrap record, sections still to come, chunks and
readbacks, or the array check of an attach with the arrays still to be checked. -/
inductive InstPhase where
  | root | wrap
  | sections (left : List Nat)
  | chunks
  | checks (left : List Nat)
  deriving DecidableEq, Repr

/-- The section table of a manifest root (Table 9-2): type, layer slot and digest of each section. -/
structure SectEntry where
  typ : Nat
  slot : Nat
  digest : List Byte
  deriving DecidableEq, Repr

/-- A manifest root, as Table 9-1 lays it out. -/
structure ImgRoot where
  formOk : Bool
  tiles : Bool
  streamed : Bool
  modelId : Nat
  imageVer : Nat
  pubkey : List Byte
  keyCommit : List Byte
  sects : List SectEntry
  signed : List Byte
  sig : List Byte
  deriving DecidableEq, Repr

/-- An install or attach in progress. -/
structure InstRec where
  slot : Nat
  attach : Bool
  phase : InstPhase
  root : Option ImgRoot
  /-- Residues and column parameters of the parameter sections read, by layer slot. -/
  residues : List (Nat × BlockResidues)
  columns : List (Nat × ColumnEntry)
  /-- Broadcast chunks kept for arrays whose grant is still to come, and mismatches of a chunk (R247, R248). -/
  kept : List (Nat × Nat × List Byte)
  bad : List (Nat × Nat × Nat)
  /-- Pod address of the reader of a broadcast install. -/
  reader : Option Nat
  deriving DecidableEq, Repr

/-- Weight images and epochs (chapter 09). -/
structure WgtState where
  slots : SMap EpSlot
  tables : SMap ImgTables
  inst : Option InstRec
  /-- Components that could not be read: epoch slot, component and LTIME of the last try (R238, R249). -/
  lost : List (Nat × CompId × Nat)
  /-- Epochs RELEASEd whose bunting banks are cleared once unreferenced (Table 9-8). -/
  clearing : List Nat
  /-- Epochs INSTALLED on other parts, by position: from their forwarded events (R256). -/
  peers : List (Nat × Nat)
  /-- Epochs that step plans have named since the head part last told their live count to be zero (R257). -/
  live : List Nat
  deriving DecidableEq, Repr

/-- A configuration key slot (R397): 0 EMPTY, 1 ENROLLED, 2 REVOKED; its public key and its enrolment RSEQ. -/
structure CfgKey where
  state : Nat
  key : List Byte
  rseq : Nat
  deriving DecidableEq, Repr

/-- Identity region, boot and security (R393 to R408). -/
structure SecState where
  /-- Epoch slots whose unwrapped model key is held. -/
  slotKeys : List Nat
  /-- Tenant secrets held: tenant and secret (R402). -/
  secrets : List (Nat × List Byte)
  /-- Factory image digests of a TLV-8192-F: root, publisher, placement (R245). -/
  factory : Option (List Byte × List Byte × List Byte)
  /-- Counter area (Table 16-2): configuration key slots, firmware floor, firmware key 0 revoked. -/
  cfgKeys : SMap CfgKey
  floor : Nat
  key0Revoked : Bool
  /-- The running firmware: FWDIG, SEQDIG, and whether key 1 signed it (R396). -/
  fwDig : List Byte
  seqDig : List Byte
  fwKey1 : Bool
  /-- SEC_NONCE, none until one is made; SEC_XFER; SEC_WIN. -/
  nonce : Option (List Byte)
  xfer : SMap Byte
  win : List Byte
  /-- Reports asked for, oldest first: over SPDM, and the verifier's nonce; SEC_CMD operations that wait for BUSY. -/
  reports : List (Bool × List Byte)
  ops : List SecOp
  deriving DecidableEq, Repr

/-- The result that a reading command leaves for its requester: the bytes or the value read. -/
inductive Answer where
  | none
  | value (n : Nat)
  | bytes (l : List Byte)
  deriving DecidableEq, Repr

/-- Pins of the part (R438). PWR_GOOD and ALERT_N follow the state without a register of their own: `pwrGood`, `alertN`. -/
structure Pins where
  resetN : Bool
  thermtripN : Bool
  mtrAlertN : Bool
  crystal : Bool
  deriving DecidableEq, Repr

/-- The whole state of the block. -/
structure State where
  /-- The register file: every field of BAR0, by its key (offset of its register × 32 + lowest bit). -/
  regs : SMap Nat
  ltime : Word64
  pins : Pins
  cfg : CfgState
  ens : EnsState
  sync : SyncState
  flt : FaultState
  host : HostState
  lnk : LnkState
  sched : SchedState
  kv : KvState
  sec : SecState
  banks : SMap Bank
  wgt : WgtState
  arrs : SMap ArrRec
  hoists : SMap HoistRec
  pnts : SMap PntRec
  vecs : SMap VecRec
  mnt : MntState
  pwr : PwrState
  mtr : MeterState
  /-- SRAM (R22), one byte at an address. -/
  sram : List Host.Cell
  answer : Answer
  /-- The model's own: how many free values have been drawn. -/
  fresh : Nat
  /-- The queue of waiting commands, first in, first out. -/
  pending : List Instr
  deriving DecidableEq, Repr

/-- What an unlisted entry of each table reads as. -/
def dfltReq (_ : Nat) : ReqPort := ⟨[], [], []⟩
def dfltZero (_ : Nat) : Nat := 0
def dfltNone (_ : Nat) : Option Nat := none
def dfltByte (_ : Nat) : Byte := 0
def dfltCrossing (_ : Nat) : Crossing := ⟨.run, .run, 0⟩
def dfltQueue (_ : Nat) : StreamQueue := ⟨[]⟩
def dfltTenant (_ : Nat) : Tenant := ⟨false, 0, 1, 0, 0, false, [], none, []⟩
def dfltClass (_ : Nat) : ClassEntry := ⟨0, 0⟩
def dfltPort (_ : Nat) : PortState :=
  ⟨0, 0, [], [], [], 0, none, false, [0, 0, 0, 0], 0, false, none, 0, 0, 0, 0⟩
def dfltSampling : Sampling := ⟨0, 0, 0, false⟩
def dfltSeq (_ : Nat) : SeqRec :=
  ⟨.free, 0, 0, 0, none, dfltSampling, 0, 0, 0, [], 0, none, 0, none, false, none, 0, 0, 0, 0, 0, 0, 0, false, 0⟩
def dfltBank (_ : Nat) : Bank := ⟨.empty, 0, 0, 0, 0, 0, 0, []⟩
def dfltSlot (_ : Nat) : EpSlot := ⟨.empty, 0, [], [], 0, 0, [], 0, false, 0, false⟩
def dfltTables (_ : Nat) : ImgTables := ⟨[], []⟩
def dfltRecipe (_ : Nat) : RecipeRec := ⟨0, none, [], 0, false⟩
def dfltHead (_ : Nat) : Headroom := ⟨0, 0, 0, 0, 0⟩
def dfltPred (_ : Nat) : Int × Nat := (0, 0)
def dfltKey (_ : Nat) : CfgKey := ⟨0, [], 0⟩
def dfltPair (_ : Nat) : Nat × Nat := (0, 0)
def dfltCorr (_ : Nat) : Nat × Nat × Bool := (0, 0, false)
def dfltCopy (_ : Nat) : LifeCopy := ⟨0, [], false⟩

def dfltInt (_ : Nat) : Int := 0
def dfltCal : CalRec := ⟨[], [], [], false, false, false, false, [], 0, false, false⟩
def dfltArr (_ : Nat) : ArrRec :=
  ⟨[], [], [], false, none, none, none, none, none, .wantChunk, 0, 24, 2, 0, false, none, false, [], [], 0, 528, none, 0, 0, 0, 0, dfltCal,
    0, false, none⟩
def dfltParam (_ : Nat) : Option ColParam := none
def dfltPnt (_ : Nat) : PntRec :=
  ⟨[], [], [], [], [], [], [], [], [], [], [], 0, false, 0, false, false, false, false, false, false, none, false⟩
def dfltHoist (_ : Nat) : HoistRec := ⟨[], 0⟩
def dfltVec (_ : Nat) : VecRec := ⟨[], [], []⟩
def dfltSensor (_ : Nat) : Sensor := ⟨0, none, 0, 0, 0, none⟩

/-! ### Reset -/

def cfgReset : CfgState := ⟨[], [], [], [], false, [], [], []⟩
def ensReset : EnsState := ⟨none, none, none, none, none⟩
def syncReset : SyncState := ⟨[], 0, [], []⟩
def fltReset : FaultState := ⟨[], [], [], [], [], [], 0, 0, [], []⟩
def hostReset : HostState := ⟨[], 0, [], [], [], none, true, [], [], [], [], [], none, []⟩
def lnkReset : LnkState :=
  ⟨[], [], false, [], [], [], [], [], [], [], 0, false, 0, none, 0, false, false⟩
def schedReset : SchedState := ⟨[], 0, [], [], [], 0, [], [], [], [], 0, 0, none, none⟩
def kvReset : KvState := ⟨[], [], [], 0, [], false, false, false⟩
def wgtReset : WgtState := ⟨[], [], none, [], [], [], []⟩
def secReset : SecState := ⟨[], [], none, [], 0, false, [], [], false, none, [], [], [], []⟩

/-- R_th of a source before any estimate: 0.045 °C per W (R370). -/
def dfltRth (_ : Nat) : Nat := 45000000

/-- The rails are up at 42.00 V and nothing has been measured. -/
def pwrReset : PwrState :=
  { pg := [0, 1, 2, 3, 4, 5], on := true, vin10mV := 4200, latch := .none, armed := false, sensors := [], droop := [],
    below := [], topBand := [], lastUp := [], lastDown := [], excess := 0, samples := [], overAt := none, easeAt := none,
    peak := false, waveUp := none, waveDown := none, waveSrc := 0, busy := 0, held := [], rth := [], tSum := [],
    tCount := 0, pSum := 0, pCount := 0, pMean := 0, coolantAt := none, pub := 0, pubAt := none, rthBits := 0, core := [],
    vana := [], ramping := [] }

/-- The factory weights of Table 15-2. -/
def meterWeights : List Nat :=
  [649216, 118, 123, 410, 1024, 14336, 9216, 10240, 2048000000, 2048000000, 0]

/-- The meter as the factory left it: seal count 1, the factory weights, P_0 = 0 (Table 15-3, R389). -/
def mtrReset : MeterState :=
  ⟨[], 0, [], true, 0, 0, true, false, [], 0, 0, none, none, false, [], 0, 0, [], [], 0, 1,
    ⟨[], meterWeights, 0, List.replicate 64 0, List.replicate 64 0⟩, none, false, false, none, none, none, [], none⟩

/-- The part right after the release of RESET_N (R434, R445): a TLV-8192-U with blank arrays, its rails good, the boot
ROM about to run. Every register reads its reset word, since none is listed. -/
def State.reset : State :=
  { regs := [], ltime := 0, pins := ⟨true, true, true, true⟩, cfg := cfgReset, ens := ensReset, sync := syncReset,
    flt := fltReset, host := hostReset, lnk := lnkReset, sched := schedReset, kv := kvReset, sec := secReset, banks := [],
    wgt := wgtReset, arrs := [], hoists := [], pnts := [], vecs := [], mnt := ⟨[], []⟩, pwr := pwrReset, mtr := mtrReset,
    sram := [], answer := .none, fresh := 0, pending := [] }

end Sys2Proof.Machine
end

