-- ==== Sys2Proof/Machine/Ops.lean ====
section
/-! DEFINITION. The named operations that meanings share: fields of registers, counters, the lifetime record, MSI-X,
host memory, rings, events, the fault collector and messages. -/

namespace Sys2Proof.Machine
open Sys2Proof

/-! ### Fields -/

/-- The value of a field. -/
def getF (f : Field) (s : State) : Nat := SMap.get resetField s.regs f.key

/-- Write a field; the value is cut to the field's width. -/
def setF (f : Field) (v : Nat) (s : State) : State :=
  { s with regs := SMap.set resetField s.regs f.key (v % 2 ^ f.w) }

/-- A one-bit field reads 1. -/
def isSet (f : Field) (s : State) : Bool := getF f s = 1

/-- A counter that wraps (R70). -/
def addF (f : Field) (n : Nat) (s : State) : State := setF f (getF f s + n) s

/-- A counter that saturates. -/
def satF (f : Field) (n : Nat) (s : State) : State := setF f (min (getF f s + n) (2 ^ f.w - 1)) s

/-- Write several fields by key. -/
def setKeys (l : List (Nat × Nat)) (s : State) : State :=
  l.foldl (fun s e => { s with regs := SMap.set resetField s.regs e.1 e.2 }) s

/-- LTIME as a number. -/
def now (s : State) : Nat := s.ltime.toNat

/-- LTIME ticks of a time in µs, ms and s (R333). -/
def ticksUs (n : Nat) : Nat := n * 47
def ticksMs (n : Nat) : Nat := n * 47000
def ticksS (n : Nat) : Nat := n * 47000000

/-- Draw a fresh free value: the number that names it, and the state with the next number. -/
def draw (s : State) : Nat × State := (s.fresh, { s with fresh := s.fresh + 1 })

/-! ### Bytes -/

/-- The `n` low bytes of a number, least significant first. -/
def leBytes : Nat → Nat → List Byte
  | 0, _ => []
  | n + 1, v => BitVec.ofNat 8 v :: leBytes n (v / 256)

/-- The number that little-endian bytes spell. -/
def ofLe : List Byte → Nat
  | [] => 0
  | b :: l => b.toNat + 256 * ofLe l

/-- One bit step of CRC-32C, reflected. -/
def crcBit (c : Nat) : Nat := if c % 2 = 1 then (c / 2) ^^^ 0x82F63B78 else c / 2

/-- One byte into CRC-32C. -/
def crcByte (c : Nat) (b : Byte) : Nat :=
  crcBit (crcBit (crcBit (crcBit (crcBit (crcBit (crcBit (crcBit (c ^^^ b.toNat))))))))

/-- CRC-32C (Castagnoli polynomial) of a run of bytes, as records and events carry it (Tables 7-6 and 7-8). -/
def crc32c (l : List Byte) : Nat := (l.foldl crcByte 0xFFFFFFFF) ^^^ 0xFFFFFFFF

/-- Write bytes at an address of a byte map. -/
def putBytes : Nat → List Byte → SMap Byte → SMap Byte
  | _, [], m => m
  | a, b :: l, m => putBytes (a + 1) l (SMap.set dfltByte m a b)

/-- Read `n` bytes at an address of a byte map. -/
def takeBytes : Nat → Nat → SMap Byte → List Byte
  | 0, _, _ => []
  | n + 1, a, m => SMap.get dfltByte m a :: takeBytes n (a + 1) m

/-- One byte of SRAM. -/
def sramByte (a : Nat) (s : State) : Byte := SMap.get dfltByte s.sram a

/-- Write bytes to SRAM. -/
def sramPut (a : Nat) (l : List Byte) (s : State) : State := { s with sram := putBytes a l s.sram }

/-- Read bytes of SRAM. -/
def sramTake (n a : Nat) (s : State) : List Byte := takeBytes n a s.sram

/-- A 64-bit word of SRAM, little-endian. -/
def sramWord (a : Nat) (s : State) : Word64 := BitVec.ofNat 64 (ofLe (sramTake 8 a s))

/-- Write a 64-bit word to SRAM. -/
def sramPutWord (a : Nat) (v : Word64) (s : State) : State := sramPut a (leBytes 8 v.toNat) s

/-- Write bytes to host memory. -/
def hostPut (a : Nat) (l : List Byte) (s : State) : State :=
  { s with host := { s.host with mem := putBytes a l s.host.mem } }

/-! ### Lifetime record (Table 17-4) -/

/-- Add to a count of the lifetime record of `size` bytes; counts saturate (R422). -/
def lifeAdd (off size n : Nat) (s : State) : State :=
  { s with flt := { s.flt with life := SMap.upd dfltZero s.flt.life off (fun v => min (v + n) (2 ^ (8 * size) - 1)) } }

/-- A count of the lifetime record. -/
def lifeGet (off : Nat) (s : State) : Nat := SMap.get dfltZero s.flt.life off

/-- A corrected event of protection domain `d` (R409). -/
def domCorrected (d n : Nat) (s : State) : State :=
  lifeAdd (0x300 + 16 * d) 8 n (addF (Reg.Pwr.corrCnt.at (pwrBase + 4 * d)) n s)

/-- An uncorrected event of protection domain `d` (R409). -/
def domUncorrected (d n : Nat) (s : State) : State :=
  lifeAdd (0x308 + 16 * d) 8 n (addF (Reg.Glb.uncCnt.at (8 * d)) n s)

/-- Add to the collector's counter of an account and kind (R382); account 0xFFFF is the overhead account. -/
def meterAdd (account kind n : Nat) (s : State) : State :=
  { s with mtr := { s.mtr with acts := SMap.upd dfltZero s.mtr.acts (account * 16 + kind) (fun c => (c + n) % 2 ^ 48) } }

/-! ### Counted clamps and refused writes -/

/-- One clamp, of the field at an offset, or 0 for data and image values (R281). -/
def countClamp (off : Nat) (s : State) : State :=
  lifeAdd 0x600 8 1 (setF Reg.Glb.clampLast off (addF Reg.Glb.clampCnt 1 s))

/-- Several clamps of data (R42, R101). -/
def countClamps : Nat → State → State
  | 0, s => s
  | n + 1, s => countClamps n (countClamp 0 s)

/-- One refused write (R278). -/
def countIgnored (off : Nat) (s : State) : State :=
  lifeAdd 0x608 8 1 (setF Reg.Glb.wignLast off (addF Reg.Glb.wignCnt 1 s))

/-! ### MSI-X and rings -/

/-- Signal a vector: a masked vector sets its pending bit (R324). -/
def signal (v : Nat) (s : State) : State :=
  if s.host.funcMask ∨ v ∉ s.host.unmasked then
    { s with host := { s.host with msixPending := if v ∈ s.host.msixPending then s.host.msixPending else v :: s.host.msixPending } }
  else { s with host := { s.host with msixSent := s.host.msixSent ++ [v] } }

/-- The CXL link is active and, where IDE is asked for, its streams are established (R310, R328). -/
def linkReady (s : State) : Bool :=
  getF (Reg.Cxl.link.at cxlBase) s = 2 ∧ (¬ isSet (Reg.Cxl.ideReq.at cxlBase) s ∨ isSet (Reg.Cxl.ideOn.at cxlBase) s)

/-- A ring operates: enabled, and the link can carry it (R320, R328). -/
def ringOn (n : Nat) (s : State) : Bool := isSet (Reg.Ring.en.at (ringBase n)) s && linkReady s

/-- Size of a ring, in entries, or in bytes for ring 9 (R314). -/
def ringSize (n : Nat) (s : State) : Nat := 2 ^ getF (Reg.Ring.log2.at (ringBase n)) s

/-- TAIL − HEAD, modulo 2^32. -/
def ringUsed (n : Nat) (s : State) : Nat :=
  (getF (Reg.Ring.tail.at (ringBase n)) s + 2 ^ 32 - getF (Reg.Ring.head.at (ringBase n)) s) % 2 ^ 32

/-- Free space of a ring. -/
def ringFree (n : Nat) (s : State) : Nat := ringSize n s - ringUsed n s

/-- Signal a producer ring's vector where its moderation asks for it after one more entry (R325). -/
def ringAdded (n : Nat) (s : State) : State :=
  let p := SMap.get dfltPair s.host.unsignalled n
  let c := p.1 + 1
  if getF (Reg.Ring.coalTime.at (ringBase n)) s = 0 ∨ getF (Reg.Ring.coalCnt.at (ringBase n)) s ≤ c then
    signal (getF (Reg.Ring.vec.at (ringBase n)) s)
      { s with host := { s.host with unsignalled := SMap.set dfltPair s.host.unsignalled n (0, 0) } }
  else
    { s with host := { s.host with
        unsignalled := SMap.set dfltPair s.host.unsignalled n (c, if p.1 = 0 then now s else p.2) } }

/-- Advance a producer ring's TAIL by `k` counts after its bytes are in place, write the writeback word, then let the
ring signal (R314, R316). -/
def ringAdvance (n k : Nat) (s : State) : State :=
  let s := addF (Reg.Ring.tail.at (ringBase n)) k s
  ringAdded n (hostPut (getF (Reg.Ring.wb.at (ringBase n)) s) (leBytes 4 (getF (Reg.Ring.tail.at (ringBase n)) s)) s)

/-! ### Events -/

/-- The 32 bytes of an event record (Table 7-8). -/
def eventBytes (e : Event) : List Byte :=
  let l := leBytes 2 e.code ++ leBytes 1 e.src ++ leBytes 1 0 ++ leBytes 2 e.ten ++ leBytes 2 e.seq ++
    leBytes 8 e.ltime ++ leBytes 8 e.step ++ leBytes 4 e.detail
  l ++ leBytes 4 (crc32c l)

/-- Write one event to ring 10 (R314, R316). -/
def writeEvent (e : Event) (s : State) : State :=
  let t := getF (Reg.Ring.tail.at (ringBase 10)) s
  ringAdvance 10 1 (hostPut (getF (Reg.Ring.base.at (ringBase 10)) s + t % ringSize 10 s * 32) (eventBytes e) s)

/-- Ring 10 can take an event. -/
def eventRoom (s : State) : Bool := ringOn 10 s && decide (0 < ringFree 10 s)

/-- This part's position in its instance (R263), 0 while no image is active. -/
def myPos (s : State) : Nat := match s.ens.image with | some i => i.partPos | none => 0

/-- Write queued events while ring 10 has room, oldest first. -/
def drainEvents : List Event → State → State
  | [], s => { s with host := { s.host with events := [] } }
  | e :: l, s =>
    if eventRoom s then drainEvents l (writeEvent e s) else { s with host := { s.host with events := e :: l } }

/-- Write EVENTS_LOST first where events were dropped (R319), then the queued events. -/
def drainQueue (s : State) : State :=
  if 0 < s.host.lost ∧ eventRoom s then
    let e : Event := ⟨0x0402, myPos s, 0xFFFF, 0xFFFF, now s, getF (Reg.Sch.lastStep.at schBase) s, s.host.lost⟩
    let s := writeEvent e { s with host := { s.host with lost := 0 } }
    drainEvents s.host.events s
  else drainEvents s.host.events s

/-- Place an event on the part's own queue of 1,024, whose last 64 places are for CMD_DONE and EVENTS_LOST (R319). -/
def queueEvent (e : Event) (s : State) : State :=
  if 960 ≤ s.host.events.length ∧ e.code ≠ 0x0401 ∧ e.code ≠ 0x0402 then
    addF (Reg.Cxl.evtLostCnt.at cxlBase) 1 { s with host := { s.host with lost := s.host.lost + 1 } }
  else drainQueue { s with host := { s.host with events := s.host.events ++ [e] } }

/-! ### Identity, routes and messages -/

/-- The image's PART section gives the part the head role: ROLE 1 or 3 (Table 10-3). -/
def isHead (s : State) : Bool :=
  match s.ens.image with
  | some i => match i.part with | some p => p.role = 1 ∨ p.role = 3 | none => false
  | none => false

/-- Output part: ROLE 2 or 3. -/
def isOutput (s : State) : Bool :=
  match s.ens.image with
  | some i => match i.part with | some p => p.role = 2 ∨ p.role = 3 | none => false
  | none => false

/-- Mirrored operation is in force (Table 10-3, R304). -/
def isMirrored (s : State) : Bool := isSet (Reg.Lnk.pairMirrored.at lnkBase) s

/-- The route entries in force. -/
def routes (s : State) : List RouteEntry :=
  match s.ens.image with
  | some i => match i.route with | some r => r.entries | none => []
  | none => []

/-- This part's pod address (R291). -/
def myPod (s : State) : Nat := getF (Reg.Lnk.topoPod.at lnkBase) s

/-- Steps of the lost instance that a promoted part carries are numbered from here, and its positions from 4,096: both
instances number their steps and positions from 0 (R180, R305). -/
def lostBase : Nat := 2 ^ 48

/-- Pod address used for an instance position: its ALT where a route switch names it (R305). A position of the lost
instance is the pair partner's. -/
def podOf (pos : Nat) (s : State) : Nat :=
  match (routes s)[pos % 4096]? with
  | some e => if 4096 ≤ pos ∨ pos ∈ s.lnk.switched then e.alt else e.dpod
  | none => 0xFFFF

/-- Pod addresses of the other parts of the instance, or of the lost instance. -/
def instancePods (lost : Bool) (s : State) : List Nat :=
  ((List.range (routes s).length).map (fun p => podOf (if lost then p + 4096 else p) s)).filter
    (fun d => d ≠ 0xFFFF ∧ d ≠ myPod s ∧ d ∉ s.lnk.lostPods)

/-- A port is in state UP. -/
def portUp (n : Nat) (s : State) : Bool := getF (Reg.Port.state.at (portBase n)) s = 6

/-- The direct port towards a pod address of the same board (R296). -/
def directPort (pod : Nat) (s : State) : Nat := (pod % 16 + 31 - getF (Reg.Lnk.topoSlot.at lnkBase) s) % 16

/-- Ports that lead to a pod address, in path order (R296, R298). -/
def portsTo (pod : Nat) (s : State) : List Nat :=
  if isMirrored s ∧ pod = getF (Reg.Lnk.pairPod.at lnkBase) s then [15]
  else if pod / 16 = getF (Reg.Lnk.topoBoard.at lnkBase) s then [directPort pod s]
  else
    let mask := match (routes s).find? (fun e => e.dpod = pod ∨ e.alt = pod) with | some e => e.upmask | none => 15
    (List.range 4).filterMap (fun n => if mask.testBit n then some (16 + n) else none)

/-- The virtual channel of a message type (Table 11-4). -/
def vcOf (typ : Nat) : Nat := if typ < 2 then 0 else if typ < 0x10 then 1 else if typ < 0x20 then 2 else 3

/-- The flits that a message takes: a 16-byte header and LEN units of 64 bytes, 256 bytes a flit (R290). -/
def flitsOf (m : Msg) : Nat := (16 + 64 * m.len + 255) / 256

/-- Queue a message on a port. -/
def sendOn (port : Nat) (m : Msg) (s : State) : State :=
  let add := fun (p : PortState) => { p with queues := p.queues ++ [(vcOf m.typ, m, flitsOf m)], lastSent := now s }
  { s with lnk := { s.lnk with ports := SMap.upd dfltPort s.lnk.ports port add } }

/-- The port that a message to a pod address takes: the first path that is UP, else the first listed. -/
def choosePort (pod : Nat) (s : State) : Nat :=
  let l := portsTo pod s
  (l.find? (fun n => portUp n s)).getD (l.headD 16)

/-- Send a message to a pod address. -/
def sendTo (pod : Nat) (typ layer step len : Nat) (b : MsgBody) (s : State) : State :=
  sendOn (choosePort pod s) ⟨typ, false, true, pod, myPod s, layer, step % 2 ^ 32, 0, len, b⟩ s

/-- Send a message to every other part of the instance that the step belongs to. -/
def sendAll (typ step len : Nat) (b : MsgBody) (s : State) : State :=
  (instancePods (decide (lostBase ≤ step)) s).foldl (fun s d => sendTo d typ 0 step len b s) s

/-- This part composes the instance that a step belongs to. -/
def headFor (n : Nat) (s : State) : Bool := if lostBase ≤ n then s.lnk.lostHead else isHead s

/-- Pod address of the head part: the source of the last step plan taken (R181), position 0 before the first. -/
def headPod (s : State) : Nat := s.sched.headPod.getD (podOf 0 s)

/-- Pod address of the head part of the instance that a step belongs to. -/
def headPodFor (n : Nat) (s : State) : Nat := if lostBase ≤ n then s.lnk.lostHeadPod.getD (podOf 4096 s) else headPod s

/-- This part's position in the instance that a step belongs to. -/
def posFor (n : Nat) (s : State) : Nat := if lostBase ≤ n then myPos s + 4096 else myPos s

/-- A message of a part has arrived: it is alive (R301). -/
def hear (pod : Nat) (s : State) : State :=
  { s with lnk := { s.lnk with
      heard := SMap.set dfltZero s.lnk.heard pod (now s), silent := s.lnk.silent.filter fun x => ¬ x = (myPod s, pod) } }

/-- Send an event: from a part that is not the head part it is forwarded to the head part, except CMD_DONE and
EVENTS_LOST, which stay on the part's own ring (R197, R323). -/
def emit (code ten seq step detail : Nat) (s : State) : State :=
  let e : Event := ⟨code, myPos s, ten, seq, now s, step % lostBase, detail⟩
  if isSet Reg.Glb.imageActive s ∧ ¬ isHead s ∧ code ≠ 0x0401 ∧ code ≠ 0x0402 then
    sendTo (headPod s) 0x16 0 step 1 (.event e) s
  else queueEvent e s

/-- An event with no tenant and no sequence, about the last committed step. -/
def emitPart (code detail : Nat) (s : State) : State :=
  emit code 0xFFFF 0xFFFF (getF (Reg.Sch.lastStep.at schBase) s) detail s

/-! ### Fault collector (R418) -/

/-- The count of the lifetime record that a fault code adds to, where Table 17-4 has one for it. -/
def faultLife (code : Nat) : Option Nat :=
  if code = 0x000D then some 0x630 else if code = 0x000E then some 0x638 else if code = 0x000F then some 0x640
  else if code = 0x0010 then some 0x648 else if code = 0x0011 then some 0x650 else if code = 0x0012 then some 0x628
  else none

/-- Raise the repeat count of the entry of a code and source. -/
def bumpEntry (code src : Nat) : List FaultEntry → List FaultEntry
  | [] => []
  | e :: l => if e.code = code ∧ e.src = src then { e with count := min (e.count + 1) 65535 } :: l else e :: bumpEntry code src l

/-- The queue side of a report: a new entry, a raised repeat count or a lost report. -/
def queueFault (code src detail : Nat) (s : State) : State :=
  if s.flt.queue.any (fun e => e.code = code ∧ e.src = src) then
    { s with flt := { s.flt with queue := bumpEntry code src s.flt.queue } }
  else if s.flt.queue.length < 64 then
    let s' := { s with flt := { s.flt with queue := s.flt.queue ++ [⟨code, src, now s, detail, 1⟩] } }
    if s.flt.queue.isEmpty then signal 1 s' else s'
  else lifeAdd 0x678 8 1 (setF Reg.Glb.fltOverflow 1 (satF Reg.Glb.fltLostCnt 1 s))

/-- The last FAULT event of this code and source was sent less than one second of LTIME ago. -/
def faultHushed (code src : Nat) (s : State) : Bool :=
  s.flt.sent.any (fun e => e.1 = code ∧ e.2.1 = src ∧ now s < e.2.2 + ticksS 1)

/-- A report to the fault collector. -/
def report (code src detail : Nat) (s : State) : State :=
  let s := queueFault code src detail s
  let s := match faultLife code with | some o => lifeAdd o 8 1 s | none => s
  if faultHushed code src s then s
  else
    emitPart 0x000D (code % 65536 + src % 65536 * 65536)
      { s with flt := { s.flt with
          sent := (code, src, now s) :: s.flt.sent.filter (fun e => ¬ (e.1 = code ∧ e.2.1 = src)) } }

end Sys2Proof.Machine
end

