-- ==== Sys2Proof/Machine/Operands.lean ====
section
/-! DEFINITION. Number formats (chapter 04): what the bits of a value stand for, and rounding an exact value to a format,
to nearest with ties to even or stochastically. Exact values are integers times powers of two, so no corner hides. -/

namespace Sys2Proof.Machine
open Sys2Proof

/-- What a format does at its top exponent: IEEE infinities and NaNs, one NaN code only (E4M3), or neither. -/
inductive FmtKind where
  | ieee | nanOnly | finite
  deriving DecidableEq, Repr

/-- A floating format: exponent bits, fraction bits, bias. -/
structure Fmt where
  eb : Nat
  mb : Nat
  bias : Nat
  kind : FmtKind
  deriving DecidableEq, Repr

def fp32 : Fmt := ⟨8, 23, 127, .ieee⟩
def fp16 : Fmt := ⟨5, 10, 15, .ieee⟩
def bf16 : Fmt := ⟨8, 7, 127, .ieee⟩
def e4m3 : Fmt := ⟨4, 3, 7, .nanOnly⟩
def e5m2 : Fmt := ⟨5, 2, 15, .ieee⟩
def e2m1 : Fmt := ⟨2, 1, 1, .finite⟩
def e2m3 : Fmt := ⟨2, 3, 1, .finite⟩
def e3m2 : Fmt := ⟨3, 2, 3, .finite⟩

/-- A value: a NaN with its sign, an infinity, or a sign with magnitude m × 2^e. -/
inductive FVal where
  | nan (neg : Bool)
  | inf (neg : Bool)
  | fin (neg : Bool) (m : Nat) (e : Int)
  deriving DecidableEq, Repr

/-- The width of a format in bits. -/
def fmtBits (f : Fmt) : Nat := 1 + f.eb + f.mb

/-- The value that bits of a format stand for. -/
def decodeF (f : Fmt) (b : Nat) : FVal :=
  let neg := b.testBit (f.eb + f.mb)
  let x := b / 2 ^ f.mb % 2 ^ f.eb
  let m := b % 2 ^ f.mb
  if f.kind = .ieee ∧ x = 2 ^ f.eb - 1 then (if m = 0 then .inf neg else .nan neg)
  else if f.kind = .nanOnly ∧ x = 2 ^ f.eb - 1 ∧ m = 2 ^ f.mb - 1 then .nan neg
  else if x = 0 then .fin neg m (1 - (f.bias : Int) - f.mb)
  else .fin neg (2 ^ f.mb + m) ((x : Int) - f.bias - f.mb)

/-- How an exact value is rounded: to nearest, ties to even, or stochastically with a 32-bit random word (R119, R120). -/
inductive Round where
  | rne
  | sr (r : Nat)
  deriving DecidableEq, Repr

/-- Multiply a fraction num ÷ den by 2^e, as a fraction. -/
def scaleFrac (num den : Nat) (e : Int) : Nat × Nat :=
  if 0 ≤ e then (num * 2 ^ e.toNat, den) else (num, den * 2 ^ (-e).toNat)

/-- Exponent of the leading bit of num ÷ den, for num and den above 0. -/
def leadExp (num den : Nat) : Int :=
  let e : Int := (Nat.log2 num : Int) - Nat.log2 den
  let p := scaleFrac num den (-e)
  if p.1 < p.2 then e - 1 else e

/-- Round a fraction to an integer. -/
def roundInt (r : Round) (num den : Nat) : Nat :=
  match r with
  | .rne =>
    let q := num / den
    let x := num % den
    if 2 * x < den then q else if den < 2 * x then q + 1 else if q % 2 = 0 then q else q + 1
  | .sr w => if w < num % den * 2 ^ 32 / den then num / den + 1 else num / den

/-- The largest finite magnitude of a format as its bits without sign. -/
def maxFinite (f : Fmt) : Nat :=
  match f.kind with
  | .ieee => (2 ^ f.eb - 1) * 2 ^ f.mb - 1
  | .nanOnly => 2 ^ (f.eb + f.mb) - 2
  | .finite => 2 ^ (f.eb + f.mb) - 1

/-- The bits, without sign, of num ÷ den × 2^e rounded to a format with no bound on its exponent: above `maxFinite` the
value has overflowed. -/
def roundBits (f : Fmt) (r : Round) (num den : Nat) (e : Int) : Nat :=
  if num = 0 then 0
  else
    let lead := leadExp num den + e
    let emin : Int := 1 - (f.bias : Int)
    let q : Int := (if lead < emin then emin else lead) - f.mb
    let p := scaleFrac num den (e - q)
    let m := roundInt r p.1 p.2
    if m < 2 ^ f.mb then m else ((q + f.mb + f.bias).toNat - 1) * 2 ^ f.mb + m

/-- Canonical NaN of a format: the top fraction bit of FP16, BF16 and FP32, all ones in the FP8 formats (R105). -/
def nanBits (f : Fmt) : Nat :=
  match f.kind with
  | .ieee => if f.eb + f.mb = 7 then 127 else (2 ^ f.eb - 1) * 2 ^ f.mb + 2 ^ (f.mb - 1)
  | .nanOnly => 2 ^ (f.eb + f.mb) - 1
  | .finite => maxFinite f

/-- Infinity of an IEEE format. -/
def infBits (f : Fmt) : Nat := (2 ^ f.eb - 1) * 2 ^ f.mb

/-- Put a sign on bits. -/
def signed (f : Fmt) (neg : Bool) (b : Nat) : Nat := if neg then 2 ^ (f.eb + f.mb) + b else b

/-- Encode a value in an IEEE format with infinities on overflow. -/
def encodeF (f : Fmt) (r : Round) : FVal → Nat
  | .nan neg => signed f neg (nanBits f)
  | .inf neg => signed f neg (infBits f)
  | .fin neg m e =>
    let b := roundBits f r m 1 e
    signed f neg (if maxFinite f < b then infBits f else b)

/-- Encode a non-negative fraction in a format, infinity on overflow. -/
def encodeFrac (f : Fmt) (num den : Nat) (e : Int) : Nat :=
  let b := roundBits f .rne num den e
  if maxFinite f < b then infBits f else b

/-- An integer as an exact value. -/
def ofIntF (i : Int) (e : Int) : FVal := .fin (decide (i < 0)) i.natAbs e

/-- Exact sum as a signed integer times a power of two. -/
def addExact (a : Int × Int) (b : Int × Int) : Int × Int :=
  if a.2 ≤ b.2 then (a.1 + b.1 * 2 ^ (b.2 - a.2).toNat, a.2) else (a.1 * 2 ^ (a.2 - b.2).toNat + b.1, b.2)

/-- The signed integer and exponent of a finite value. -/
def exactOf (neg : Bool) (m : Nat) (e : Int) : Int × Int := (if neg then -(m : Int) else m, e)

/-- Sum of two values, exact before rounding; opposite infinities give NaN. A zero sum is positive unless both are
negative. A NaN keeps its sign (R105); the sign of a NaN that no operand brings is open. -/
def addV : FVal → FVal → FVal
  | .nan a, _ => .nan a
  | _, .nan b => .nan b
  | .inf a, .inf b => if a = b then .inf a else .nan Config.nanSign
  | .inf a, _ => .inf a
  | _, .inf b => .inf b
  | .fin a m e, .fin b n k =>
    let s := addExact (exactOf a m e) (exactOf b n k)
    if s.1 = 0 then .fin (a && b) 0 s.2 else .fin (decide (s.1 < 0)) s.1.natAbs s.2

/-- Product of two values, exact before rounding. -/
def mulV : FVal → FVal → FVal
  | .nan a, _ => .nan a
  | _, .nan b => .nan b
  | .inf a, .inf b => .inf (a != b)
  | .inf a, .fin b n _ => if n = 0 then .nan Config.nanSign else .inf (a != b)
  | .fin a m _, .inf b => if m = 0 then .nan Config.nanSign else .inf (a != b)
  | .fin a m e, .fin b n k => .fin (a != b) (m * n) (e + k)

/-- Negation. -/
def negV : FVal → FVal
  | .nan a => .nan (!a)
  | .inf a => .inf (!a)
  | .fin a m e => .fin (!a) m e

/-- Magnitude. -/
def absV : FVal → FVal
  | .nan _ => .nan false
  | .inf _ => .inf false
  | .fin _ m e => .fin false m e

/-- Strictly below, false with a NaN. -/
def ltV : FVal → FVal → Bool
  | .nan _, _ => false
  | _, .nan _ => false
  | .inf a, .inf b => a && !b
  | .inf a, _ => a
  | _, .inf b => !b
  | .fin a m e, .fin b n k =>
    decide ((addExact (exactOf a m e) (let p := exactOf b n k; (-p.1, p.2))).1 < 0)

/-- A NaN. -/
def isNanV : FVal → Bool
  | .nan _ => true
  | _ => false

/-- A NaN or an infinity. -/
def nonFinite : FVal → Bool
  | .fin _ _ _ => false
  | _ => true

/-- FP32 arithmetic: exact, then rounded to nearest. -/
def f32 (b : Nat) : FVal := decodeF fp32 b
def toF32 (v : FVal) : Nat := encodeF fp32 .rne v
def addF32 (a b : Nat) : Nat := toF32 (addV (f32 a) (f32 b))
def subF32 (a b : Nat) : Nat := toF32 (addV (f32 a) (negV (f32 b)))
def mulF32 (a b : Nat) : Nat := toF32 (mulV (f32 a) (f32 b))
/-- a × b + c with one rounding. -/
def fmaF32 (a b c : Nat) : Nat := toF32 (addV (mulV (f32 a) (f32 b)) (f32 c))
def maxF32 (a b : Nat) : Nat := if ltV (f32 a) (f32 b) then b else a
def ltF32 (a b : Nat) : Bool := ltV (f32 a) (f32 b)
def isNanF32 (a : Nat) : Bool := match f32 a with | .nan _ => true | _ => false
/-- The FP32 value of an integer. -/
def intF32 (i : Int) : Nat := toF32 (ofIntF i 0)

/-- Larger of two FP32 values, a NaN winning. -/
def maxNanF32 (a b : Nat) : Nat := if isNanF32 a then a else if isNanF32 b then b else maxF32 a b
/-- Magnitude of an FP32 value. -/
def absF32 (a : Nat) : Nat := a % 2 ^ 31

/-- Adjacent pairs summed, a last one alone rising unchanged. -/
def pairStep (f : Nat → Nat → Nat) : List Nat → List Nat
  | a :: b :: l => f a b :: pairStep f l
  | l => l

/-- Combine a list pairwise in `n` rounds. -/
def pairRounds (f : Nat → Nat → Nat) : Nat → List Nat → List Nat
  | 0, l => l
  | n + 1, l => pairRounds f n (pairStep f l)

/-- Pairwise FP32 sum (Table 4-8). -/
def sumF32 (l : List Nat) : Nat := (pairRounds addF32 (Nat.log2 l.length + 1) l).headD 0

/-- Quotient of two FP32 values that are not NaN with a divisor that is not 0, rounded once. -/
def divF32 (a b : Nat) : Nat :=
  match f32 a, f32 b with
  | .fin x m e, .fin y n k => if n = 0 then signed fp32 (x != y) (infBits fp32) else
      let r := roundBits fp32 .rne m n (e - k)
      signed fp32 (x != y) (if maxFinite fp32 < r then infBits fp32 else r)
  | .nan x, _ => signed fp32 x (nanBits fp32)
  | _, .nan y => signed fp32 y (nanBits fp32)
  | .inf x, .fin y _ _ => signed fp32 (x != y) (infBits fp32)
  | .fin x _ _, .inf y => signed fp32 (x != y) 0
  | .inf _, .inf _ => signed fp32 Config.nanSign (nanBits fp32)

/-- Round an exact value to an integer, ties to even. -/
def rneInt : FVal → Int
  | .fin neg m e =>
    let p := scaleFrac m 1 e
    let q := roundInt .rne p.1 p.2
    if neg then -(q : Int) else q
  | _ => 0

/-- Round an exact value to an integer with a rounding mode. -/
def roundFInt (r : Round) : FVal → Int
  | .fin neg m e =>
    let p := scaleFrac m 1 e
    let q := roundInt r p.1 p.2
    if neg then -(q : Int) else q
  | _ => 0

/-- Least k with num ÷ den ≤ 2^k, for num and den above 0. -/
def ceilLog2 (num den : Nat) : Int :=
  let e := leadExp num den
  let p := scaleFrac num den (-e)
  if p.1 = p.2 then e else e + 1

/-! ### Random words (R121) -/

/-- The function mix of R121, modulo 2^64. -/
def mix (z : Nat) : Nat :=
  let z := (z + 0x9E3779B97F4A7C15) % 2 ^ 64
  let z := (z ^^^ (z >>> 30)) * 0xBF58476D1CE4E5B9 % 2 ^ 64
  let z := (z ^^^ (z >>> 27)) * 0x94D049BB133111EB % 2 ^ 64
  z ^^^ (z >>> 31)

/-- The random word of a seed and counter. -/
def randomWord (seed ctr : Nat) : Nat := mix ((seed + ctr) % 2 ^ 64) / 2 ^ 32

end Sys2Proof.Machine
end

