-- ==== Sys2Proof/Machine/Steps.lean ====
section
/-! DEFINITION. Shared operations over steps, sequences and key/value blocks: what a failed step does (R186), how a
sequence ends (R178), and the block directory's allocation, sealing and release (R207, R224, R228). -/

namespace Sys2Proof.Machine
open Sys2Proof

/-! ### Sequences -/

/-- The record of a sequence. -/
def seqOf (q : Nat) (s : State) : SeqRec := SMap.get dfltSeq s.sched.seqs q

/-- Write a sequence record. -/
def setSeq (q : Nat) (r : SeqRec) (s : State) : State :=
  { s with sched := { s.sched with seqs := SMap.set dfltSeq s.sched.seqs q r } }

/-- A sequence becomes FREE: its record reads as a fresh one. -/
def freeSeq (q : Nat) (s : State) : State := setSeq q (dfltSeq q) s

/-- The tenant-table entry of a tenant; one at or above the table's size is never VALID (R179). -/
def tenantOf (t : Nat) (s : State) : Tenant :=
  if t < s.sched.tenantCount then SMap.get dfltTenant s.sched.tenants t else dfltTenant t

/-- Live sequences of a tenant. -/
def liveCount (t : Nat) (s : State) : Nat :=
  (s.sched.seqs.filter (fun e => e.2.ten = t ∧ e.2.state ≠ .free)).length

/-- Live sequences that hold an epoch (R255). -/
def epochLive (e : Nat) (s : State) : Nat :=
  (s.sched.seqs.filter (fun x => x.2.epoch = e ∧ x.2.state ≠ .free)).length

/-- The tenant has a secret on this part (R402). -/
def hasSecret (t : Nat) (s : State) : Bool := s.sec.secrets.any fun x => x.1 = t

/-! ### Steps in flight -/

/-- A step in flight. -/
def stepOf (n : Nat) (s : State) : Option StepRec := s.sched.steps.find? (fun r => r.plan.step = n)

/-- Change a step in flight. -/
def updStep (n : Nat) (f : StepRec → StepRec) (s : State) : State :=
  { s with sched := { s.sched with steps := s.sched.steps.map (fun r => if r.plan.step = n then f r else r) } }

/-- A wave in flight names a block of a sequence in a layer slot (R215). -/
def waveNames (lslot seq blk : Nat) (s : State) : Bool :=
  s.sched.steps.any fun r => r.plan.entries.any fun e => e.seq.toNat = seq ∧ (lslot, blk) ∈ e.blocks

/-- Waves in flight that name a bank of a bunting tile (R166). -/
def bankRefs (tile : Nat) (bank : Bool) (s : State) : Nat :=
  (s.sched.steps.filter fun r => r.plan.uses.any fun u => u.tile.toNat = tile ∧ u.bank = bank).length

/-- Banks that no wave names and that the newest wave's plan releases, or that are EMPTY with their tag kept (R414),
are cleared (Table 6-3). -/
def freeBanks (s : State) : State :=
  let frees := match s.sched.steps.getLast? with | some r => r.plan.frees | none => []
  { s with banks := s.banks.filter fun b =>
      !(bankRefs (b.1 / 2) (b.1 % 2 == 1) s == 0 && (b.2.state == .empty ||
        (b.2.state == .ready && frees.any fun f => f.1.toNat == b.1 / 2 && f.2 == (b.1 % 2 == 1)))) }

/-- Take a step out of flight, with what the vector units keep for it. -/
def dropStep (n : Nat) (s : State) : State :=
  let busy := match stepOf n s with | some r => now s - r.composedAt | none => s.pwr.busy
  freeBanks { s with
    pwr := { s.pwr with busy := busy, held := s.pwr.held.filter (fun x => ¬ x.1 = n) }
    sched := { s.sched with steps := s.sched.steps.filter (fun r => ¬ r.plan.step = n) }
    vecs := SMap.mapV dfltVec (fun (v : VecRec) => { v with
      combines := v.combines.filter (fun c => ¬ c.step = n), holders := v.holders.filter (fun h => ¬ h.step = n) }) s.vecs }

/-- Drop a step's vectors from the arrays and pennants (R186). -/
def dropVectors (n : Nat) (s : State) : State :=
  { s with
    arrs := SMap.mapV dfltArr (fun (r : ArrRec) => { r with
      buf := r.buf.filter (fun v => ¬ v.step = n), reads := r.reads.filter (fun x => ¬ x.vec.step = n) }) s.arrs
    pnts := SMap.mapV dfltPnt (fun (r : PntRec) =>
      let gone := (r.accs.filter fun v => v.tag.step = n).map fun v => v.tag.vid
      { r with
        accs := r.accs.filter (fun v => ¬ v.tag.step = n), gateWait := r.gateWait.filter (fun g => ¬ g.tag.step = n)
        pool := r.pool.filter (fun x => ¬ x.1 = n), coming := r.coming.filter (fun x => x.1 ∉ gone)
        deltas := r.deltas.filter (fun x => x.1 ∉ gone) }) s.pnts }

/-- The last committed step number. -/
def lastStep (s : State) : Nat := getF (Reg.Sch.lastStep.at schBase) s

/-! ### Blocks -/

/-- Lines of a block of a format in a layer of `g` groups and head dimension `d` (R205, R206): a token-layer's bytes. -/
def blockLines (g d fmt : Nat) : Nat :=
  let q := if fmt = 0 then 2 else if fmt ≤ 2 then 3 else 4
  2 * g * d * q / 4 + 2 * g * d / 32

/-- The LAYER section of a slot in the image in force; in mirrored operation slot s + 32 is the partner's slot s of the
same model (R304). -/
def layerOf (slot : Nat) (s : State) : Option LayerSection :=
  let n := if isMirrored s ∧ 32 ≤ slot then slot - 32 else slot
  match s.ens.image with | some i => i.layers.find? (fun l => l.slot = n) | none => none

/-- Lines of a block of a layer slot in a format. -/
def slotLines (slot fmt : Nat) (s : State) : Nat :=
  match layerOf slot s with | some l => blockLines l.g l.d fmt | none => 0

/-- Layer slots the part holds (Table 10-3). -/
def mySlots (s : State) : List Nat :=
  match s.ens.image with
  | some i => match i.part with | some p => p.slots | none => []
  | none => []

/-- Sequences of the lost instance are numbered from here (R305). -/
def lostSeqs : Nat := 65536

/-- The sequence ID that a record or event shows. -/
def seqNo (q : Nat) : Nat := q % lostSeqs

/-- Layer slots that a sequence uses on this part: of the lost instance, slots s + 32 (R304). -/
def slotsFor (q : Nat) (s : State) : List Nat := if lostSeqs ≤ q then (mySlots s).map (fun l => l + 32) else mySlots s

/-- Size of the SRAM partition of the given number, in the order of Table 1-3. -/
def partSize (n : Nat) (s : State) : Nat :=
  match s.ens.image with
  | some i => match i.sram with | some x => (x.sizes[n]?).getD 0 | none => 0
  | none => ([268435456, 67108864, 33554432, 25165824, 4194304, 4194304][n]?).getD 0

/-- Start of a partition. -/
def partBase (n : Nat) (s : State) : Nat := ((List.range n).map (fun i => partSize i s)).sum

/-- Lines of the hot tier proper: the key/value partition without STAGE and LEND (R265). -/
def hotLines (s : State) : Nat :=
  (partSize 0 s - (getF (Reg.Kvc.stage.at kvcBase) s + getF (Reg.Kvc.lend.at kvcBase) s) * 1048576) / 256

/-- A block lies in the hot tier, wholly or as the source or destination of a move. -/
def blockHotLoc (b : Block) : Option Nat :=
  match b.state with
  | .opened => some b.loc
  | .hot => some b.loc
  | .moving => if b.src = .hot then some b.loc else if b.dest = .hot then some b.destLoc else none
  | _ => none

/-- Lines that blocks take in the hot tier. -/
def hotUsed (s : State) : Nat :=
  (s.kv.dir.map fun b => if (blockHotLoc b).isSome then slotLines b.lslot b.fmt s else 0).sum

/-- Lines of the largest in-use format (R210): the largest block among the formats in force of the slots held. -/
def largestLines (s : State) : Nat :=
  ((mySlots s).map fun l => slotLines l (getF (Reg.Kvc.lfmt.at (kvcBase + 4 * l)) s) s).foldl max 0

/-- Free hot blocks of the largest in-use format (R210). -/
def hotFree (s : State) : Nat := if largestLines s = 0 then 0 else (hotLines s - hotUsed s) / largestLines s

/-- Blocks in the CXL tier. -/
def cxlBlocks (s : State) : Nat :=
  (s.kv.dir.filter fun b => b.state = .cxl ∨ (b.state = .moving ∧ b.src = .cxl)).length

/-- Lowest line from which `n` lines are free of the given occupied runs; the runs are tried as starting points. -/
def firstFit (n limit : Nat) (runs : List (Nat × Nat)) : Option Nat :=
  (0 :: runs.map (fun r => r.1 + r.2)).filter (fun a =>
    a + n ≤ limit ∧ runs.all (fun r => a + n ≤ r.1 ∨ r.1 + r.2 ≤ a)) |>.foldl
    (fun m a => match m with | none => some a | some x => some (min x a)) none

/-- Runs of lines that blocks take in the hot tier. -/
def hotRuns (s : State) : List (Nat × Nat) :=
  s.kv.dir.filterMap fun b => (blockHotLoc b).map fun l => (l, slotLines b.lslot b.fmt s)

/-- Free the lines of a block that lies in the hot tier: they are written with zeros and lose their poison (R411). -/
def clearLines (l n : Nat) (s : State) : State :=
  { s with
    sram := s.sram.filter (fun c => ¬ (l * 256 ≤ c.1 ∧ c.1 < (l + n) * 256))
    flt := { s.flt with poisoned := s.flt.poisoned.filter (fun p => ¬ (l ≤ p ∧ p < l + n)) } }

/-- Take a block out of the directory. -/
def freeBlock (b : Block) (s : State) : State :=
  let s' := match blockHotLoc b with | some l => clearLines l (slotLines b.lslot b.fmt s) s | none => s
  { s' with kv := { s'.kv with dir := s'.kv.dir.filter (fun x => ¬ x = b) } }

/-- Free the blocks that satisfy a test. -/
def freeWhere (p : Block → Bool) (s : State) : State := (s.kv.dir.filter p).foldl (fun s b => freeBlock b s) s

/-- Change every block of the directory. -/
def mapBlocks (f : Block → Block) (s : State) : State := { s with kv := { s.kv with dir := s.kv.dir.map f } }

/-- A sequence's blocks are freed at the first step boundary with no wave naming them (Table 8-5); those that no wave
names are freed now. -/
def discardBlocks (q : Nat) (s : State) : State :=
  let s := freeWhere (fun b => b.seq = q && !(waveNames b.lslot b.seq b.blk s)) s
  mapBlocks (fun b => if b.seq = q then { b with freeing := true } else b) s

/-- Blocks of a sequence in this part's directory. -/
def blockCount (q : Nat) (s : State) : Nat := (s.kv.dir.filter (fun b => b.seq = q)).length

/-- KV_TIER_FULL: 0 directory, 1 hot tier, 2 CXL tier (Table 8-8). -/
def tierFull (which : Nat) (s : State) : State := emitPart 0x0102 which s

/-- Allocate an OPEN block for a sequence in a layer slot, for a step (R207, R224). A full directory or hot tier sends
KV_TIER_FULL and allocates nothing. -/
def allocBlock (ten seq blk lslot fmt first : Nat) (step : Option Nat) (s : State) : State :=
  if getF (Reg.Kvc.dirCap.at kvcBase) s ≤ s.kv.dir.length then
    if s.kv.fullDir then s else tierFull 0 { s with kv := { s.kv with fullDir := true } }
  else
    match firstFit (slotLines lslot fmt s) (hotLines s) (hotRuns s) with
    | none => if s.kv.fullHot then s else tierFull 1 { s with kv := { s.kv with fullHot := true } }
    | some l =>
      let b : Block := ⟨ten, seq, blk, fmt, lslot, first, first, .opened, l, 0, false, step, .hot, .cxl, 0, false,
        false, false, false, 0⟩
      { s with kv := { s.kv with dir := s.kv.dir ++ [b] } }

/-- The sequence has an open block of this index in the layer slot. -/
def hasOpen (seq blk lslot : Nat) (s : State) : Bool :=
  s.kv.dir.any fun b => b.seq = seq && b.blk = blk && b.lslot = lslot && b.state = .opened

/-- First slot in use of a new block of an index: the seal point where a sealed block of the index exists (R207). -/
def sealPoint (seq blk lslot lo : Nat) (s : State) : Nat :=
  if s.kv.dir.any (fun b => b.seq = seq && b.blk = blk && b.lslot = lslot) then lo - blk * 256 else 0

/-- Seal the open blocks of a layer slot that satisfy a test; one that holds no committed position is released (R207). -/
def sealWhere (lslot : Nat) (p : Block → Bool) (s : State) : State :=
  let hit := fun (b : Block) => b.lslot = lslot && b.state = .opened && p b
  let s := freeWhere (fun b => hit b && decide (b.fill ≤ b.first)) s
  mapBlocks (fun b => if hit b then { b with state := .hot, step := none } else b) s

/-- Open blocks for the positions `from` to `from + count − 1` of a sequence in one layer slot. -/
def openFor (ten seq lslot lo count : Nat) (step : Option Nat) (s : State) : State :=
  let fmt := getF (Reg.Kvc.lfmt.at (kvcBase + 4 * lslot)) s
  let s := sealWhere lslot (fun b => b.seq = seq && b.fmt ≠ fmt) s
  ((List.range (count + 1)).map (fun i => (lo / 256) + i)).foldl
    (fun s i => if i * 256 < lo + count ∧ lo < (i + 1) * 256 ∧ 0 < count ∧ ¬ hasOpen seq i lslot s then
      allocBlock ten seq i lslot fmt (sealPoint seq i lslot lo s) step s else s) s

/-- Positions that a plan entry carries: k + 1, or its chunk. -/
def entryPositions (e : PlanEntry) : Nat := if e.gen then e.k + 1 else e.chunk

/-- Open the blocks that a plan's positions need on this part, in every layer slot held (R224). -/
def openPlan (p : Plan) (s : State) : State :=
  p.entries.foldl (fun s e => (slotsFor e.seq.toNat s).foldl
    (fun s l => openFor e.ten.toNat e.seq.toNat l e.len (entryPositions e) (some p.step) s) s) s

/-- A committed fill within a block whose slots start at `b.blk × 256`, for a committed length. -/
def fillFor (b : Block) (len : Nat) : Nat := max b.first (min 256 (len - b.blk * 256))

/-- At a commit: advance fills, seal blocks whose fill reaches 256, release blocks with no committed position
(R207, R228). -/
def commitBlocks (n seq len : Nat) (s : State) : State :=
  let s := mapBlocks (fun b =>
    if b.seq = seq ∧ b.state = .opened then
      let f := fillFor b len
      { b with fill := f, state := if f = 256 then .hot else .opened, step := if b.step = some n then none else b.step }
    else b) s
  freeWhere (fun b => b.seq = seq && b.state = .opened && decide (len ≤ b.blk * 256 + b.first)) s

/-- Seal a sequence's open blocks at their fill (R207, R218). -/
def sealSeq (q : Nat) (s : State) : State :=
  mapBlocks (fun b => if b.seq = q ∧ b.state = .opened then { b with state := .hot } else b) s

/-! ### Fetches into the staging area (R214) -/

/-- Lines of the staging area. -/
def stageLines (s : State) : Nat := getF (Reg.Kvc.stage.at kvcBase) s * 4096

/-- Lines of a block of the directory. -/
def dirLines (l q b : Nat) (s : State) : Nat :=
  match s.kv.dir.find? (fun x => x.lslot = l ∧ x.seq = q ∧ x.blk = b) with | some x => slotLines x.lslot x.fmt s | none => 0

/-- Runs of lines that staged copies take, from the start of the staging area. -/
def stagedRuns (s : State) : List (Nat × Nat) := s.kv.staged.map fun x => (x.loc - hotLines s, dirLines x.lslot x.seq x.blk s)

/-- Lines that staged and fetched blocks take. -/
def stagedLines (s : State) : Nat :=
  ((stagedRuns s).map fun r => r.2).sum + (s.kv.fetching.map fun x => dirLines x.2.1 x.2.2.1 x.2.2.2 s).sum

/-- The next fetch of a step, where its plan has one left and the area has room. -/
def fetchOne (n : Nat) (s : State) : Option State :=
  match stepOf n s with
  | none => none
  | some r =>
    match r.plan.fetches[r.fetched]? with
    | none => none
    | some f =>
      if stagedLines s + dirLines f.1 f.2.1 f.2.2 s ≤ stageLines s then
        let s := updStep n (fun r => { r with fetched := r.fetched + 1 }) s
        let u := UioUse.fetch n f.1 f.2.1 f.2.2
        some { s with
          kv := { s.kv with fetching := s.kv.fetching ++ [(n, f)] }, host := { s.host with uio := s.host.uio ++ [(u, 0)] } }
      else none

/-- Fetches of one step, as far as the area has room. -/
def fetchStep (n : Nat) : Nat → State → State
  | 0, s => s
  | k + 1, s => match fetchOne n s with | some s' => fetchStep n k s' | none => s

/-- Start what fetches the staging area has room for, in plan order. -/
def fetchMore (s : State) : State :=
  s.sched.steps.foldl (fun s r => fetchStep r.plan.step r.plan.fetches.length s) s

/-- Release a step's staged copies and drop its fetches. -/
def dropStaged (n : Nat) (s : State) : State :=
  { s with kv := { s.kv with
      staged := s.kv.staged.filter (fun x => ¬ x.step = n), fetching := s.kv.fetching.filter (fun x => ¬ x.1 = n) } }

/-- At an abort: blocks allocated for the step are released, staged copies and fetches dropped (R207, R214). -/
def abortBlocks (n : Nat) (s : State) : State :=
  let s := freeWhere (fun b => b.step = some n && b.state = .opened) s
  dropStaged n s

/-- Free the blocks that ended sequences left and no wave names any more. -/
def sweepBlocks (s : State) : State := freeWhere (fun b => b.freeing && !(waveNames b.lslot b.seq b.blk s)) s

/-! ### Ends and failures -/

/-- When an epoch's live count falls to zero the head part tells every part (R257): the message is a step-less
control message. -/
def noticeEpoch (e : Nat) (s : State) : State :=
  if e ≠ 0 ∧ epochLive e s = 0 then sendAll 0x16 (lastStep s) 1 (.epochZero e) s else s

/-- In mirrored operation the partner frees the mirror records of a sequence that ended (R303). -/
def dropMirror (q : Nat) (s : State) : State :=
  if isMirrored s ∧ ¬ isSet (Reg.Lnk.pairLost.at lnkBase) s ∧ q < lostSeqs then
    sendOn 15 ⟨0x1A, false, true, getF (Reg.Lnk.pairPod.at lnkBase) s, myPod s, 0, 0, 0, 1, .discard q⟩ s
  else s

/-- A sequence leaves every state for FREE: its blocks are discarded on every part. -/
def endSeq (q : Nat) (s : State) : State :=
  let r := seqOf q s
  let s := discardBlocks q (freeSeq q s)
  let s := dropMirror q s
  noticeEpoch r.epoch (sendAll 0x1A (if lostSeqs ≤ q then lostBase else 0) 1 (.discard (seqNo q)) s)

/-- SEQ_END_ERROR and FREE (R178). -/
def endSeqError (q cause : Nat) (s : State) : State :=
  let r := seqOf q s
  endSeq q (emit 0x0001 r.ten (seqNo q) (lastStep s) cause s)

/-- A released sequence becomes FREE. -/
def finishRelease (q : Nat) (s : State) : State := endSeq q s

/-- One sequence of a failed step (Table 7-2): released, ended with `ended`, retried or at its retry limit. -/
def failSeq (cause : Nat) (ended : List Nat) (q : Nat) (s : State) : State :=
  let r := { seqOf q s with inStep := none }
  if r.releasing then finishRelease q (setSeq q r s)
  else if q ∈ ended then endSeqError q cause (setSeq q r s)
  else if r.retry < getF (Reg.Sch.tmoRetryMax.at schBase) s then setSeq q { r with retry := r.retry + 1 } s
  else endSeqError q cause (addF (Reg.Sch.seqFailCnt.at schBase) 1 (setSeq q r s))

/-- What every part does at an abort: drop the step's vectors, release its blocks, staged copies and bank references. -/
def abortLocal (n : Nat) (s : State) : State := sweepBlocks (fetchMore (dropStep n (dropVectors n (abortBlocks n s))))

/-- The head part aborts a step in flight (R186); `ended` names sequences that end instead of retrying (R213). -/
def failStep (n cause : Nat) (ended : List Nat) (s : State) : State :=
  match stepOf n s with
  | none => s
  | some r =>
    let s := addF (Reg.Sch.failCnt.at schBase) 1 s
    let s := emit 0x0002 0xFFFF 0xFFFF n cause s
    let s := sendAll 0x14 n 1 .empty s
    let s := abortLocal n s
    r.plan.entries.foldl (fun s e => failSeq cause ended e.seq.toNat s) s

/-- A sequence ends with an error that this part found: the part that composes its instance ends it, and is told where
this is another part (R178, R411). -/
def endFrom (q cause : Nat) (s : State) : State :=
  let n := if lostSeqs ≤ q then lostBase else 0
  let r := seqOf q s
  if headFor n s then (if r.state = .free then s else endSeqError q cause s)
  else sendTo (headPodFor n s) 0x16 0 n 1 (.event ⟨0x0001, myPos s, r.ten, seqNo q, now s, lastStep s, cause⟩) s

/-- A failure found on this part: the head part aborts, another part reports it to the head part. -/
def failHere (n cause : Nat) (s : State) : State :=
  if headFor n s then failStep n cause [] s else sendTo (headPodFor n s) 0x16 0 n 1 (.failure (posFor n s) cause) s

/-- Fail the step that issued an operation, where one did. -/
def failIssuer (step : Option Nat) (cause : Nat) (s : State) : State :=
  match step with | some n => failHere n cause s | none => s

/-- Every step in flight on the part fails. -/
def failAll (cause : Nat) (s : State) : State :=
  (s.sched.steps.map (fun r => r.plan.step)).foldl (fun s n => failHere n cause s) s

end Sys2Proof.Machine
end

