-- ==== Sys2Proof/Machine/Maint.lean ====
section
/-! DEFINITION. Arrays and their states (Table 2-7), the maintenance arbiter (R371 to R375), and what a grant starts:
spare programming, touch-up, repair, calibration rounds and block moves (chapters 02, 08, 09 and 14). -/

namespace Sys2Proof.Machine
open Sys2Proof

/-! ### Arrays and pennants -/

/-- The field of a register repeated per array, for die-wide array `a` = hoist × 256 + pennant × 16 + number (R13). -/
def arrF (f : Field) (a : Nat) : Field := f.at (pntBase (a / 16) + 4 * (a % 16))

/-- The field of a pennant register. -/
def pntF (f : Field) (p : Nat) : Field := f.at (pntBase p)

def arrOf (a : Nat) (s : State) : ArrRec := SMap.get dfltArr s.arrs a
def setArr (a : Nat) (r : ArrRec) (s : State) : State := { s with arrs := SMap.set dfltArr s.arrs a r }
def updArr (a : Nat) (f : ArrRec → ArrRec) (s : State) : State := setArr a (f (arrOf a s)) s
def pntOf (p : Nat) (s : State) : PntRec := SMap.get dfltPnt s.pnts p
def setPnt (p : Nat) (r : PntRec) (s : State) : State := { s with pnts := SMap.set dfltPnt s.pnts p r }
def updPnt (p : Nat) (f : PntRec → PntRec) (s : State) : State := setPnt p (f (pntOf p s)) s

/-- State of an array (Table 2-7). -/
def arrState (a : Nat) (s : State) : Nat := getF (arrF Reg.Pnt.stState a) s
def setArrState (a n : Nat) (s : State) : State := setF (arrF Reg.Pnt.stState a) n s

/-- The array serves a block: SERVICE, SUSPECT, QUEUED or STANDIN. -/
def serves (a : Nat) (s : State) : Bool := decide (1 ≤ arrState a s ∧ arrState a s ≤ 4)

/-- Converters of a hoist are enabled (R73). -/
def convOn (h : Nat) (s : State) : Bool := isSet (Reg.Hoist.convEn.at (hoistBase h)) s

/-- Clock region of a hoist (R15). -/
def regionOf (h : Nat) : Nat := h / 4

/-- Band of a region. -/
def bandOf (r : Nat) (s : State) : Nat := getF (Reg.Pwr.regBand.at (pwrBase + 4 * r)) s

/-- Program cycles of an array (R252, Table 17-4). -/
def pgmCycles (a : Nat) (s : State) : Nat := lifeGet (0x2000 + 2 * a) s

/-- Retirement nibble of an array (Table 17-4). -/
def retireNibble (a : Nat) (s : State) : Nat := lifeGet (0x1000 + a / 2) s / 16 ^ (a % 2) % 16

/-- The array has reached its program budget. -/
def atBudget (a : Nat) (s : State) : Bool := decide (10000 ≤ pgmCycles a s)

/-- A converter of the array is flagged: the converter fault of R85. -/
def convFault (a : Nat) (s : State) : Bool := !(arrOf a s).cal.dflags.isEmpty

/-- ARRAY_RETIREMENT: cause 1 readback, 2 budget, 3 repair; the lifetime record holds cause 4 for a converter fault
(R252, R85). -/
def retire (a cause : Nat) (s : State) : State :=
  let nib := if cause = 3 ∧ convFault a s then 4 else cause
  let s := setArrState a 8 s
  let s := if retireNibble a s = 0 then lifeAdd (0x1000 + a / 2) 1 (nib * 16 ^ (a % 2)) s else s
  let s := lifeAdd 0x620 8 1 (addF (Reg.Wgt.retireCnt.at wgtBase) 1 s)
  let s := updArr a (fun r => { r with job := none, hold := none, adding := false }) s
  emitPart 0x0205 (cause * 2 ^ 24 + a) s

/-- An array enters SPARE, or RETIRED where it has reached its budget (R252). -/
def toSpare (a : Nat) (s : State) : State := if atBudget a s then retire a 2 s else setArrState a 7 s

/-- One program cycle of an array. -/
def programCycle (a : Nat) (s : State) : State := lifeAdd (0x2000 + 2 * a) 2 1 s

/-! ### The arbiter (R371 to R375) -/

/-- SPARE arrays of a hoist that are free to take a block. -/
def freeSpares (h : Nat) (s : State) : List Nat :=
  ((List.range 256).map (fun i => h * 256 + i)).filter fun a => arrState a s = 7 ∧ (arrOf a s).job.isNone ∧ ¬ atBudget a s

/-- The spare for an array: in its own pennant, else the lowest-numbered of the hoist (Table 2-8, R251). -/
def chooseSpare (a : Nat) (s : State) : Option Nat :=
  let l := freeSpares (a / 256) s
  match l.find? (fun x => x / 16 = a / 16) with | some x => some x | none => l.head?

/-- A block of the directory. -/
def blockOf (l q b : Nat) (s : State) : Option Block := s.kv.dir.find? fun x => x.lslot = l ∧ x.seq = q ∧ x.blk = b

/-- The resource that a block move holds: the Lenrik port, or the CXL path as 720. -/
def moveRes (l q b : Nat) (dest : MoveDest) (s : State) : Nat :=
  match dest with
  | .peer p => 700 + p
  | .cxl => 720
  | .hot => match blockOf l q b s with
    | some x => if x.state = .lent ∨ (x.state = .moving ∧ x.src = .lent) then 700 + x.peer else 720
    | none => 720

/-- Resources of an activity (Table 14-7): pennants 0 to 511, slices from 600, ports from 700, the CXL path 720, the
lifetime store 800; none where no spare exists. -/
def actRes (m : MntAct) (s : State) : Option (List Nat) :=
  match m with
  | .round p _ => some [p]
  | .spareProg a => (chooseSpare a s).map fun x => [x / 16]
  | .touchUp a => (chooseSpare a s).map fun x => [x / 16]
  | .repair a => some [a / 16]
  | .diag a => some [a / 16]
  | .readback a => some [a / 16]
  | .startup a => some [a / 16]
  | .install a => some [a / 16]
  | .resync => some [715, 720]
  | .move l q b d => some [moveRes l q b d s]
  | .lentMove _ _ _ _ => some [720]
  | .compaction => some [720]
  | .scrub i => some [600 + i]
  | .snapshot => some [800]

/-- Power claim in mW. -/
def actClaim : MntAct → Nat
  | .round _ _ => 0
  | .spareProg _ => 600
  | .repair _ => 600
  | .diag _ => 100
  | .readback _ => 100
  | .startup _ => 100
  | .resync => 2000
  | .move _ _ _ _ => 1000
  | .lentMove _ _ _ _ => 1000
  | .compaction => 500
  | .touchUp _ => 600
  | .install _ => 600
  | .scrub _ => 200
  | .snapshot => 100

/-- Rank, and row of Table 14-7. -/
def actRank : MntAct → Nat × Nat
  | .round _ first => if first then (1, 0) else (3, 3)
  | .spareProg _ => (2, 1)
  | .repair _ => (2, 1)
  | .diag _ => (2, 2)
  | .readback _ => (2, 2)
  | .startup _ => (2, 2)
  | .resync => (4, 4)
  | .move _ _ _ _ => (5, 5)
  | .lentMove _ _ _ _ => (5, 5)
  | .compaction => (5, 6)
  | .touchUp _ => (6, 7)
  | .install _ => (6, 7)
  | .scrub _ => (7, 8)
  | .snapshot => (8, 9)

/-- Rank of a request: 0 once it has aged (R373). -/
def reqRank (r : MntReq) : Nat := if r.aged then 0 else (actRank r.act).1

/-- Programs and diagnostic reads, which CONC limits apart (R240). -/
def isProgram : MntAct → Bool
  | .spareProg _ => true
  | .repair _ => true
  | .touchUp _ => true
  | .install _ => true
  | _ => false

def isDiag : MntAct → Bool
  | .diag _ => true
  | .readback _ => true
  | .startup _ => true
  | _ => false

/-- Claims in force, in mW. -/
def claims (s : State) : Nat := (s.mnt.granted.map fun g => g.claim).sum

/-- Power level L_p. -/
def lp (s : State) : Nat := getF (Reg.Pwr.lp.at pwrBase) s

/-- Arrays read back so that a slot holds the block. -/
def slotRec (n : Nat) (s : State) : EpSlot := SMap.get dfltSlot s.wgt.slots n
def setSlot (n : Nat) (r : EpSlot) (s : State) : State := { s with wgt := { s.wgt with slots := SMap.set dfltSlot s.wgt.slots n r } }

/-- Runs of lines that blocks take in the CXL tier, with their header line (R212). -/
def cxlRuns (s : State) : List (Nat × Nat) :=
  s.kv.dir.filterMap fun b =>
    let n := slotLines b.lslot b.fmt s + 1
    if b.state = .cxl ∨ (b.state = .moving ∧ b.src = .cxl) then some (b.loc, n)
    else if b.state = .moving ∧ b.dest = .cxl then some (b.destLoc, n)
    else none

/-- Where a block goes in the CXL tier; none where the tier is off or full. -/
def cxlFit (l fmt : Nat) (s : State) : Option Nat :=
  if isSet (Reg.Kvc.cxlEn.at kvcBase) s then
    firstFit (slotLines l fmt s + 1) (getF (Reg.Kvc.cxlSize.at kvcBase) s * 4096) (cxlRuns s)
  else none

/-- The hot tier is above HIWATER and the sequence is in a step (Table 8-5). -/
def inStepAbove (q : Nat) (s : State) : Bool :=
  decide (16 * getF (Reg.Kvc.hiWater.at kvcBase) s < hotFree s) &&
    s.sched.steps.any fun r => r.plan.entries.any fun e => e.seq.toNat = q

/-- The array takes part in calibration rounds: a state other than UNMAPPED, REVERIFY, REPAIR or RETIRED. -/
def calibrates (a : Nat) (s : State) : Bool := !([0, 5, 6, 8].contains (arrState a s))

/-- The activity still stands: what it would work on is in the state that asks for it. -/
def actLive (m : MntAct) (s : State) : Bool :=
  match m with
  | .round p _ => convOn (p / 16) s && !(pntOf p s).initial && !(pntOf p s).round &&
      (List.range 16).any fun i => calibrates (p * 16 + i) s
  | .spareProg a => arrState a s = 3
  | .touchUp a => arrState a s = 1 || arrState a s = 2
  | .repair a => arrState a s = 6 || ((arrOf a s).job.isSome && (arrOf a s).phase ≠ .reading)
  | .diag a => arrState a s = 5 || (arrOf a s).adding
  | .readback a => (arrOf a s).job.isSome && (arrOf a s).phase = .reading
  | .startup a => serves a s
  | .install a => (arrOf a s).job = some .install
  | .resync => isMirrored s && isSet (Reg.Lnk.pairLost.at lnkBase) s && !(isSet (Reg.Lnk.pairResync.at lnkBase) s) && portUp 15 s
  | .move l q b d => match blockOf l q b s with
    | some x => !(x.freeing) && (match d with | .peer _ => isSet (Reg.Kvc.peerEn.at kvcBase) s | _ => true) && (d ≠ .cxl || (hasSecret x.ten s && (cxlFit l x.fmt s).isSome)) && (d ≠ .hot || (firstFit (slotLines l x.fmt s) (hotLines s) (hotRuns s)).isSome) && ((x.demote && x.state = .hot && d ≠ .hot) || ((x.promote || inStepAbove q s) && (x.state = .lent || x.state = .cxl) && d = .hot))
    | none => false
  | .lentMove p l q b => s.kv.lent.any fun x => x.pod == p && x.lslot == l && x.seq == q && x.blk == b && x.demoting
  | .compaction => isMirrored s
  | .scrub i => decide (i < 64)
  | .snapshot => true

/-- The part may grant anything (R374). -/
def arbOpen (s : State) : Bool := isSet Reg.Glb.mgmtFwRun s && !(isSet Reg.Glb.arbHold s)

/-- A request can be granted now, with the resources it takes (R372 to R374). -/
def grantable (r : MntReq) (s : State) : Option (List Nat) :=
  match actRes r.act s with
  | none => none
  | some res =>
    let c := actClaim r.act
    let conc := getF (Reg.Wgt.pgmConc.at wgtBase) s
    if arbOpen s && s.mnt.granted.all (fun g => g.res.all fun x => !(res.contains x)) &&
        (c == 0 || (lp s == 0 && decide (claims s + c ≤ getF (Reg.Pwr.mntAllow.at pwrBase) s * 250))) &&
        (!(isProgram r.act) || decide ((s.mnt.granted.filter fun g => isProgram g.act).length < conc)) &&
        (!(isDiag r.act) || decide ((s.mnt.granted.filter fun g => isDiag g.act).length < conc)) then some res
    else none

/-- Request `a` is served before request `b`: rank, then arrival, then row order. -/
def before (a b : MntReq) : Bool :=
  let ra := reqRank a
  let rb := reqRank b
  decide (ra < rb) || (ra == rb && (decide (a.arrival < b.arrival) || (a.arrival == b.arrival && decide ((actRank a.act).2 < (actRank b.act).2))))

/-- Insert a request in order of service, behind its equals. -/
def insertReq (r : MntReq) : List MntReq → List MntReq
  | [] => [r]
  | x :: l => if before r x then r :: x :: l else x :: insertReq r l

/-- Mark an array stale (R96): its next cycles waive O_col, G_col and A. -/
def markStale (a : Nat) (s : State) : State :=
  let f := pntF Reg.Pnt.calStale (a / 16)
  let s := if (getF f s).testBit (a % 16) then s else setF f (getF f s + 2 ^ (a % 16)) s
  let setStale := fun (r : ArrRec) => { r with cal := { r.cal with waiveStale := true } }
  updArr a setStale (addF (Reg.Pwr.staleCnt.at pwrBase) 1 s)

/-- A calibration round of the pennant is requested or in progress. -/
def roundDue (p : Nat) (s : State) : Bool :=
  (pntOf p s).round || s.mnt.waiting.any fun r => match r.act with | .round q _ => q = p | _ => false

/-- Where the array to be programmed has a round due, it is marked stale and skipped (R96). -/
def staleIfDue (a : Nat) (s : State) : State := if roundDue (a / 16) s then markStale a s else s

/-- A queued or due array takes its spare: STANDIN, and the spare waits for its chunk (Table 2-8, R251). -/
def startStandin (a sp : Nat) (touch : Bool) (s : State) : State :=
  let s := setF (arrF Reg.Pnt.stSpareIdx a) (sp % 256) (setArrState a 4 s)
  let s := updArr a (fun r => { r with heir := some sp, heirReady := false }) s
  staleIfDue sp (updArr sp (fun r => { r with job := some (.spareFor a touch), phase := .wantChunk, failedReads := 0 }) s)

/-- Start a block move: MOVING, its destination allocated (Table 8-5). -/
def startMove (l q b : Nat) (dest : MoveDest) (s : State) : State :=
  match blockOf l q b s with
  | none => s
  | some x =>
    let loc := match dest with
      | .hot => firstFit (slotLines l x.fmt s) (hotLines s) (hotRuns s)
      | .cxl => cxlFit l x.fmt s
      | .peer _ => some 0
    match loc with
    | none => s
    | some d =>
      let s := mapBlocks (fun y => if y = x then
        { y with state := .moving, src := x.state, dest := dest, destLoc := d, copied := false } else y) s
      -- A move over the CXL path issues its UIO requests (R326); one to or from a peer goes as messages of type 0x05.
      if moveRes l q b dest s = 720 then { s with host := { s.host with uio := s.host.uio ++ [(UioUse.move l q b, 0)] } }
      else
        let port := moveRes l q b dest s - 700
        let len := if dest = .hot then 1 else slotLines l x.fmt s * 4
        sendOn port ⟨0x05, false, true, getF (Reg.Port.peerPod.at (portBase port)) s, myPod s, l, 0, 0, len, .block l q b⟩ s

/-- Live sequences of this part's own instance that its blocks or records show. -/
def liveSeqs (s : State) : List Nat :=
  (((s.kv.dir.map fun b => b.seq) ++ (s.sched.seqs.filter fun e => e.2.state ≠ .free).map fun e => e.1).filter
    fun q => q < lostSeqs).eraseDups

/-- Pair resynchronisation starts (R306): RESYNC reads 1 and every live sequence is still unprotected. -/
def startResync (s : State) : State :=
  let n := (liveSeqs s).length
  setF (Reg.Lnk.pairResync.at lnkBase) 1 (setF (Reg.Lnk.resyncLeft.at lnkBase) n
    { s with lnk := { s.lnk with resyncTotal := n } })

/-- What a grant starts. -/
def startAct (m : MntAct) (s : State) : State :=
  match m with
  | .round p _ =>
    let s := updPnt p (fun r => { r with round := true, first := false }) s
    (List.range 16).foldl (fun s i => updArr (p * 16 + i) (fun r => { r with cal := { r.cal with done := false } }) s) s
  | .spareProg a => match chooseSpare a s with | some x => startStandin a x false s | none => s
  | .touchUp a => match chooseSpare a s with | some x => startStandin a x true s | none => s
  | .repair a =>
    -- Cells that hold a block's weights are programmed from its chunk; an array that never held one needs none.
    staleIfDue a (updArr a (fun r => match r.job with
      | none => { r with job := some .repair, phase := if r.past.isSome then .wantChunk else .programming,
                         failedReads := 0, target := r.levels
                         relax := getF (Reg.Wgt.pgmRelax.at wgtBase) s, repass := getF (Reg.Wgt.pgmRepass.at wgtBase) s }
      | some _ => { r with phase := if r.job = some .repair ∧ r.past.isNone then .programming else .wantChunk
                           relax := getF (Reg.Wgt.pgmRelax.at wgtBase) s, repass := getF (Reg.Wgt.pgmRepass.at wgtBase) s }) s)
  | .install a =>
    staleIfDue a (updArr a (fun r => { r with phase := .wantChunk }) s)
  | .move l q b d => startMove l q b d s
  | .diag _ => s
  | .readback _ => s
  | .startup _ => s
  | .resync => startResync s
  | .lentMove _ _ _ _ => s
  | .compaction => s
  | .scrub _ => s
  | .snapshot => s

/-- MNT_GRANT: hold the resources and start the activity. -/
def giveGrant (m : MntAct) (res : List Nat) (s : State) : State :=
  let s := { s with mnt := { s.mnt with granted := s.mnt.granted ++ [⟨m, res, actClaim m⟩] } }
  startAct m (addF (Reg.Pwr.grantCnt.at pwrBase) 1 s)

/-- A queued array with no spare in its hoist (Table 2-8): NOSPARE, reported once. -/
def noSpare (m : MntAct) (s : State) : State :=
  match m with
  | .spareProg a =>
    if (chooseSpare a s).isNone ∧ ¬ isSet (arrF Reg.Pnt.stNoSpare a) s then
      report 0x000A a 0 (setF (arrF Reg.Pnt.stNoSpare a) 1 s)
    else s
  | _ => s

/-- Evaluate the waiting requests in order of service: grant, keep waiting, or drop what no longer stands. -/
def evalReqs : List MntReq → State → State
  | [], s => s
  | r :: l, s =>
    if ¬ actLive r.act s then
      evalReqs l { s with mnt := { s.mnt with waiting := s.mnt.waiting.filter fun x => ¬ x.act = r.act } }
    else
      match grantable r s with
      | some res =>
        evalReqs l (giveGrant r.act res { s with mnt := { s.mnt with waiting := s.mnt.waiting.filter fun x => ¬ x.act = r.act } })
      | none =>
        let s := noSpare r.act s
        if r.waited then evalReqs l s
        else
          let mark := fun (x : MntReq) => if x.act = r.act then { x with waited := true } else x
          evalReqs l (addF (Reg.Pwr.waitCnt.at pwrBase) 1 { s with mnt := { s.mnt with waiting := s.mnt.waiting.map mark } })

/-- The arbiter's evaluation (R372). -/
def arbitrate (s : State) : State := evalReqs (s.mnt.waiting.foldr insertReq []) s

/-- Ask for a grant; a request that waits or is granted already is not doubled. -/
def requestAct (m : MntAct) (s : State) : State :=
  if actLive m s ∧ s.mnt.waiting.all (fun r => r.act ≠ m) ∧ s.mnt.granted.all (fun g => g.act ≠ m) then
    arbitrate { s with mnt := { s.mnt with waiting := s.mnt.waiting ++ [⟨m, now s, false, false⟩] } }
  else s

/-- Release the grant of an activity, and evaluate again. -/
def releaseAct (m : MntAct) (s : State) : State :=
  arbitrate { s with mnt := { s.mnt with granted := s.mnt.granted.filter fun g => ¬ g.act = m } }

/-- The grant is held. -/
def holds (m : MntAct) (s : State) : Bool := s.mnt.granted.any fun g => g.act = m

/-- Release the grants of programs on an array without evaluating: its program has ended. -/
def releaseProgram (a : Nat) (s : State) : State :=
  let src := match (arrOf a s).job with | some (.spareFor x _) => x | _ => a
  let isIt := fun (m : MntAct) => match m with
    | .spareProg x => x = src
    | .touchUp x => x = src
    | .repair x => x = a
    | .install x => x = a
    | _ => false
  { s with mnt := { s.mnt with granted := s.mnt.granted.filter fun g => !(isIt g.act) } }

/-- The round that must run first after a program (R96). -/
def roundFirst (a : Nat) (s : State) : State :=
  let s := updPnt (a / 16) (fun r => { r with first := true }) s
  -- A waiting ordinary round becomes the one that runs first.
  let s := { s with mnt := { s.mnt with waiting := s.mnt.waiting.filter fun r => ¬ r.act = .round (a / 16) false } }
  requestAct (.round (a / 16) true) s

/-- ARRAY_QUEUED: fault 0x000A at every entry into QUEUED, and a request for a stand-in grant (R65). -/
def enterQueued (a : Nat) (s : State) : State :=
  requestAct (.spareProg a) (report 0x000A a 0 (setArrState a 3 s))

/-! ### Touch-up choice (R251) -/

/-- Arrays that hold a block and are due: age at least 1.0, serving and not queued nor in STANDIN, with a spare in the
hoist. -/
def dueArrays (s : State) : List (Nat × Nat) :=
  s.arrs.filterMap fun e =>
    if Config.ageUnit ≤ e.2.age ∧ (arrState e.1 s = 1 ∨ arrState e.1 s = 2) ∧ (chooseSpare e.1 s).isSome ∧
        s.mnt.waiting.all (fun r => r.act ≠ .touchUp e.1) then some (e.2.age, e.1) else none

/-- TOUCH_UP_START: the due array with the greatest age asks for its grant. -/
def touchUpStart (s : State) : State :=
  if isSet (Reg.Wgt.touchEn.at wgtBase) s then
    match dueArrays s with
    | [] => s
    | d :: l => requestAct (.touchUp (l.foldl (fun b x => if b.1 < x.1 then x else b) d).2) s
  else s

/-! ### Commands of the arbiter -/

/-- MAINT_REQUEST. -/
def maintRequest (m : MntAct) (s : State) : State :=
  match m with
  | .move l q b .cxl =>
    match blockOf l q b s with
    | some x =>
      -- A full CXL tier: the block stays where it is, and KV_TIER_FULL is sent once (R220, Table 8-7).
      if x.demote ∧ x.state = .hot ∧ (cxlFit l x.fmt s).isNone then
        if s.kv.fullCxl then s else tierFull 2 { s with kv := { s.kv with fullCxl := true } }
      else requestAct m s
    | none => s
  | _ => requestAct m s

def execMaintRequest (m : MntAct) (s : State) : Host.Outcome State Fault Refusal := .next (maintRequest m s)

/-- MAINT_AGE: a request that has waited longer than MNT_CTL.AGE takes rank 0 and sends MNT_AGED once (R373). -/
def ageReq (m : MntAct) (s : State) : State :=
  match s.mnt.waiting.find? (fun r => r.act = m) with
  | some r =>
    if ¬ r.aged ∧ r.arrival + ticksS (getF (Reg.Pwr.mntAge.at pwrBase) s) < now s then
      let mark := fun (x : MntReq) => if x.act = m then { x with aged := true } else x
      let s := { s with mnt := { s.mnt with waiting := s.mnt.waiting.map mark } }
      arbitrate (emitPart 0x0604 (actRank m).1 (addF (Reg.Pwr.agedCnt.at pwrBase) 1 s))
    else s
  | none => s

def execMaintAge (m : MntAct) (s : State) : Host.Outcome State Fault Refusal := .next (ageReq m s)

/-- Queue an array with SUSPECT_CNT := SUSPECT_LIMIT (R85, Table 12-4). -/
def queueArray (a : Nat) (s : State) : State :=
  enterQueued a (setF (arrF Reg.Pnt.stSuspCnt a) (getF (pntF Reg.Pnt.suspLimit (a / 16)) s) s)

/-- ARRAY_QUEUE is a command of the ring (Table 12-4): an array in SERVICE or SUSPECT enters QUEUED, status 1 in any
other state; an index above 8,191 is out of range (status 3, R323). -/
def arrayQueue (a : Nat) (s : State) : Option Nat × State :=
  if 8191 < a then (some 3, s)
  else if arrState a s = 1 ∨ arrState a s = 2 then (some 0, queueArray a s) else (some 1, s)

end Sys2Proof.Machine
end

