-- ==== Sys2Proof/Machine/Reads.lean ====
section
/-! DEFINITION. From a vector to the accumulators: the pennant quantiser, array reads with clip-split, the confidence
check, retries, suspect events, the check converter, and promotion (chapters 02 to 05). -/

namespace Sys2Proof.Machine
open Sys2Proof

/-! ### Elements of vectors (R100 to R108) -/

/-- A two's complement integer of `w` bits. -/
def sInt (w v : Nat) : Int := if v % 2 ^ w < 2 ^ (w - 1) then (v % 2 ^ w : Nat) else ((v % 2 ^ w : Nat) : Int) - 2 ^ w

/-- Multiply a value by 2^k. -/
def shiftV (k : Int) : FVal → FVal
  | .fin n m e => .fin n m (e + k)
  | v => v

/-- The floating format of a format code of Table 5-4. -/
def codeFmt (c : Nat) : Fmt :=
  if c = 2 ∨ c = 10 then e4m3 else if c = 3 ∨ c = 11 then e5m2 else if c = 4 then bf16 else if c = 5 then fp16
  else if c = 7 then e2m1 else if c = 8 then e2m3 else if c = 9 then e3m2 else fp32

/-- Formats with a block scale (R107). -/
def isBlock (c : Nat) : Bool := decide (7 ≤ c)

/-- The value of an element; X is its block's scale, 255 a NaN block (R106, R109). -/
def elemVal (c x v : Nat) : FVal :=
  if c = 0 then ofIntF (sInt 8 v) 0
  else if c = 1 then ofIntF ((v % 256 : Nat) : Int) 0
  else if isBlock c then (if x = 255 then .nan false else shiftV ((x : Int) - 127) (decodeF (codeFmt c) v))
  else decodeF (codeFmt c) v

/-- The values of a segment, in element order. -/
def segVals (g : Segment) : List FVal :=
  (List.range g.elems.length).map fun i => elemVal g.fmt ((g.scales[i / 32]?).getD 127) ((g.elems[i]?).getD 0)

/-! ### The quantiser (R110, R129, R130) -/

/-- Largest integer magnitude of a width code (Table 2-1). -/
def widthQ (w : Nat) : Nat := if w = 0 then 1 else if w = 1 then 7 else 127

/-- Slices of a width code. -/
def widthSlices (w : Nat) : Nat := if w = 0 then 1 else if w = 1 then 2 else 4

/-- Fraction bits f of the ACC-N unit (R111). -/
def widthF (w : Nat) : Nat := if w = 0 then 4 else if w = 1 then 2 else 0

/-- The input exponent E = ⌈log2(a ÷ Q)⌉, 0 for a = 0 (R110). -/
def inputExp (q : Nat) : FVal → Int
  | .fin _ m e => if m = 0 then 0 else ceilLog2 m q + e
  | _ => 0

/-- x = RNE(u × 2^−E), held within ±Q. -/
def quantise (q : Nat) (e : Int) (v : FVal) : Int :=
  max (-(q : Int)) (min (q : Int) (rneInt (shiftV (-e) v)))

/-- The epoch slot of a number that is INSTALLED here. -/
def slotOfEpoch (n : Nat) (s : State) : Option Nat :=
  (s.wgt.slots.find? fun x => x.2.state = .installed ∧ x.2.num = n).map fun x => x.1

/-- Arrays of a pennant that hold blocks of the vector's matrix, in array order. -/
def chainArrays (p : Nat) (t : VecTag) (s : State) : List Nat :=
  match slotOfEpoch t.epoch s with
  | none => []
  | some sl => ((List.range 16).map fun i => p * 16 + i).filter fun a =>
      serves a s && (match (arrOf a s).hold with
        | some b => b.slot = sl && b.layer = t.layer && b.matrix = t.matrix
        | none => false)

/-- The promotion plan of a pennant's part of a chain (R115). -/
def chainPlan (p : Nat) (l : List Nat) (s : State) : List ChainItem :=
  let w := getF (pntF Reg.Pnt.width p) s
  let req := 2 ^ getF (pntF Reg.Pnt.accPromote p) s
  let pmax := if w = 2 then 2 else 4
  let fsOf := fun a => getF (arrF Reg.Pnt.fs a) s
  let roleOf := fun a => match (arrOf a s).hold with | some b => b.role | none => 0
  (List.range l.length).map fun i =>
    let a := (l[i]?).getD 0
    let grp := (l.drop (i / req * req)).take req
    let mixed := grp.any fun x => fsOf x ≠ fsOf a || roleOf x ≠ roleOf a
    let eff := if mixed then 1 else min req pmax
    ⟨a, fsOf a, roleOf a, (i % req + 1) % eff = 0 || i + 1 = l.length || i % req + 1 = req, eff⟩

/-- The rows of the vector that drive an array (R128). -/
def spanOf (a : Nat) (xs : List Int) (s : State) : List Int :=
  match (arrOf a s).hold with | some b => (xs.drop b.row0).take 1024 | none => []

/-- Promote ACC-N into ACC-W (R113). -/
def promote (f : Nat) (it : ChainItem) (v : VecAcc) : VecAcc :=
  let c : Int := if it.role = 1 then 15 else 1
  { v with accN := [], accW := v.accN.foldl (fun m e => SMap.upd dfltInt m e.1 (fun w => w + e.2 * it.fs * 2 ^ (4 - f) * c)) v.accW }

/-- Take results that are next in chain order into ACC-N, promoting at the end of each group. Answers the accumulation
and the effective interval of the last promotion. -/
def absorb : Nat → VecAcc → Option Nat → VecAcc × Option Nat
  | 0, v, e => (v, e)
  | n + 1, v, e =>
    match v.todo with
    | [] => (v, e)
    | it :: l =>
      match v.got.find? (fun g => g.1 = it.arr) with
      | none => (v, e)
      | some g =>
        let accN := g.2.foldl (fun m x => SMap.upd dfltInt m x.1 (fun w => w + x.2)) v.accN
        let v := { v with todo := l, got := v.got.filter (fun x => ¬ x.1 = it.arr), accN := accN }
        if it.ends then absorb n (promote (widthF v.width) it v) (some it.eff) else absorb n v e

/-- Deliver an array's result for a vector to its pennant's accumulators. -/
def deliver (a vid : Nat) (cols : List (Nat × Int)) (skip : Bool) (s : State) : State :=
  let p := a / 16
  match (pntOf p s).accs.find? (fun v => v.tag.vid = vid) with
  | none => s
  | some v =>
    let r := absorb 16 { v with got := v.got ++ [(a, cols)], skipped := v.skipped && skip } none
    let s := updPnt p (fun q => { q with
      accs := q.accs.map (fun x => if x.tag.vid = vid then r.1 else x)
      lastN := r.1.accN, lastW := r.1.accW, lastF := widthF r.1.width }) s
    match r.2 with
    | some e => setF (pntF Reg.Pnt.accEff p) (if e = 1 then 0 else if e = 2 then 1 else 2) s
    | none => s

/-- ZERO_VECTOR_SKIP: vectors at the front of the buffer that are all zero, or bad, are not read (R57, R130); they wait
behind reads that are not yet delivered. -/
def skipZeros (a : Nat) : Nat → State → State
  | 0, s => s
  | n + 1, s =>
    let r := arrOf a s
    match r.buf with
    | [] => s
    | v :: l =>
      if r.reads.isEmpty ∧ (v.bad ∨ (v.xs.all (fun x => x = 0) ∧ isSet (pntF Reg.Pnt.zeroVecEn (a / 16)) s)) then
        let s := if v.bad then s else addF (pntF Reg.Pnt.zeroVecCnt (a / 16)) 1 s
        skipZeros a n (deliver a v.vid [] true (setArr a { r with buf := l } s))
      else s

/-- QUANTISE_VECTOR. -/
def quantiseVector (p : Nat) (t : VecTag) (segs : List Segment) (s : State) : State :=
  let arrs := chainArrays p t s
  let maxes := segs.map fun g => g.max
  if arrs.isEmpty ∨ s.pwr.held.any (fun x => decide (x.1 = t.step)) ∨ maxes.any (fun m => m.isNone) ∨ arrs.any (fun a => decide (8 ≤ (arrOf a s).buf.length)) then s
  else
    let a := (maxes.map fun m => m.getD 0).foldl maxNanF32 0
    let w := getF (pntF Reg.Pnt.width p) s
    let bad := nonFinite (f32 a)
    let e := inputExp (widthQ w) (f32 a)
    let xs := if bad then [] else (segs.flatMap segVals).map (quantise (widthQ w) e)
    let s := if bad then addF (pntF Reg.Pnt.nanVecCnt p) 1 s else s
    let acc : VecAcc := ⟨t, e, bad, w, chainPlan p arrs s, [], true, [], []⟩
    let s := updPnt p (fun r => { r with accs := r.accs ++ [acc] }) s
    let s := arrs.foldl (fun s b => updArr b (fun r => { r with buf := r.buf ++ [⟨t.vid, t.step, t.ten, e, spanOf b xs s, bad⟩] }) s) s
    arrs.foldl (fun s b => skipZeros b 8 s) s

def execQuantiseVector (p : PntIx) (t : VecTag) (segs : List Segment) (s : State) : Host.Outcome State Fault Refusal :=
  .next (quantiseVector p.toNat t segs s)

/-! ### Conversions (R44, R45, R76, R78) -/

/-- Level of an integer's slice: low slices unsigned, the top slice signed (Table 2-1). -/
def sliceLevel (slices i : Nat) (x : Int) : Int :=
  let u := (x % (2 ^ (2 * slices) : Int)).toNat / 4 ^ i % 4
  if i + 1 = slices ∧ 2 ≤ u then (u : Int) - 4 else u

/-- Σ over the window's rows of level × slice level, in product units. -/
def columnSum (lv : SMap Int) (xs : List Int) (col lo n : Nat) : Int :=
  ((List.range n).map fun i => SMap.get dfltInt lv ((lo + i) * 1024 + col) * (xs[lo + i]?).getD 0).sum

/-- Exact quotient of a sum by the converter's LSB, rounded to nearest: L = FS ÷ 16 for data, L ÷ 8 for the others. -/
def idealCode (col fs : Nat) (q : Int) : Int :=
  let k : Int := if col < 512 then 16 else 128
  (2 * k * q + fs) / (2 * (fs : Int))

/-- A raw code within its range. -/
def clampCode (c : Int) : Int := max (-128) (min 127 c)

/-- A raw code that clips (R44). -/
def clips (c : Int) : Bool := c = -128 || c = 127

/-- The converter that serves a column, the check converter where it stands in (R74, R84). -/
def convOf (col : Nat) (standin : Option Nat) : Nat :=
  if col < 512 then col / 4 else if standin = some ((col - 512) / 4) then 132 else 128 + (col - 512) / 4

/-- A calibrated quantity in force: 0 O_c, 1 G_c, 2 O_col, 3 G_col, 4 A. -/
def calVal (a q i : Nat) (m : SMap (Option Int)) : Int :=
  (SMap.get (fun _ => none) m (q * 1024 + i)).getD (Config.factoryTrim a q i)

/-- O_j of a column (R76), in 1/64 LSB, as the signed 12-bit store holds it. -/
def calO (a col conv : Nat) (m : SMap (Option Int)) : Int := calVal a 0 conv m + calVal a 2 col m

/-- G_j = 1 ÷ (G_c × G_col × A) with 0x4000 = 1.0, to the nearest unit, within 16 bits. -/
def calG (a col conv : Nat) (m : SMap (Option Int)) : Int :=
  let d := calVal a 1 conv m * calVal a 3 col m * calVal a 4 0 m
  if d ≤ 0 then 65535 else max 0 (min 65535 ((2 * 16384 * 1000000000000000000 + d) / (2 * d)))

/-- A corrected code (R76), with 6 fractional bits, truncated towards −∞. -/
def correct (a col conv : Nat) (m : SMap (Option Int)) (raw : Int) : Int := (64 * raw - calO a col conv m) * calG a col conv m / 16384

/-- What a window read gives: composed code and conversions by column, columns saturated, whether it split, and the
windows converted, each 4 slots: first row and rows. -/
structure WinRes where
  codes : List (Nat × Int × Nat)
  sat : List Nat
  split : Bool
  wins : List (Nat × Nat)

/-- Composed code of a column in a result. -/
def winCode (r : WinRes) (col : Nat) : Int × Nat := match r.codes.find? (fun c => c.1 = col) with | some c => c.2 | none => (0, 0)

/-- Read a window of 64 × 2^k rows from row `lo`: a column that clips is read again over the two halves, down to 64 rows,
where its end-of-range code stands and the column is saturated (R53 to R55). -/
def winRead (raw : Nat → Nat → Nat → Int) (corr : Nat → Int → Int) : Nat → Nat → List Nat → WinRes
  | 0, lo, cols => ⟨cols.map fun c => (c, corr c (raw lo 64 c), 1), cols.filter fun c => clips (raw lo 64 c), false, [(lo, 64)]⟩
  | k + 1, lo, cols =>
    let n := 64 * 2 ^ (k + 1)
    let clip := cols.filter fun c => clips (raw lo n c)
    if clip.isEmpty then ⟨cols.map fun c => (c, corr c (raw lo n c), 1), [], false, [(lo, n)]⟩
    else
      let l := winRead raw corr k lo clip
      let u := winRead raw corr k (lo + n / 2) clip
      ⟨cols.map fun c => if c ∈ clip then
          let x := winCode l c
          let y := winCode u c
          (c, x.1 + y.1, x.2 + y.2)
        else (c, corr c (raw lo n c), 1),
        l.sat ++ u.sat, true, (lo, n) :: l.wins ++ u.wins⟩

/-- Sum window results of one slice. -/
def addWins : List WinRes → WinRes
  | [] => ⟨[], [], false, []⟩
  | [r] => r
  | r :: l =>
    let t := addWins l
    ⟨r.codes.map fun c => let x := winCode t c.1; (c.1, c.2.1 + x.1, c.2.2 + x.2), r.sat ++ t.sat, r.split || t.split, r.wins ++ t.wins⟩

/-- Data and checksum columns. -/
def readCols : List Nat := List.range 528

/-- The depth of a row window: ROWS = 64 × 2^k. -/
def rowsDepth (rows : Nat) : Nat := Nat.log2 (rows / 64)

/-- One read of one slice, and the windows it converted. `d` is the fresh number of the read; a late code's value is open
(R75). -/
def sampleSlice (a d : Nat) (par : ReadPar) (lv : SMap Int) (sl : Nat) (xs : List Int) (lates : List (Nat × Nat)) :
    Sample × List (Nat × Nat) :=
  let raw := fun lo n c => clampCode (if (sl, c) ∈ lates then Config.lateCode d sl c
    else idealCode c par.fs (columnSum lv xs c lo n) + Config.codeDeviation d sl lo n c)
  let corr := fun c v => correct a c (convOf c par.standin) par.cal v
  let k := rowsDepth par.rows
  let r := addWins ((List.range (1024 / par.rows)).map fun i => winRead raw corr k (i * par.rows) readCols)
  (⟨r.codes, r.sat.eraseDups, lates.any (fun x => x.1 = sl), r.split⟩, r.wins)

/-! ### Confidence check (R59 to R61) -/

/-- Samples that carry no late code, or all where each does (R61). -/
def inForce (l : List Sample) : List Sample :=
  let t := l.filter fun x => !x.late
  if t.isEmpty then l else t

/-- Composed code of a column in a sample. -/
def sampCode (x : Sample) (col : Nat) : Int × Nat := match x.codes.find? (fun c => c.1 = col) with | some c => c.2 | none => (0, 0)

/-- Sum of a column's codes over samples. -/
def sumCode (l : List Sample) (col : Nat) : Int := (l.map fun x => (sampCode x col).1).sum

/-- m = ⌈√k⌉ for k window conversions (R60). -/
def sqrtCeil (k : Nat) : Nat := if k ≤ 1 then 1 else if k ≤ 4 then 2 else if k ≤ 9 then 3 else 4

/-- The residue term E_{s,g}, in product units. -/
def residueTerm (res : SMap Int) (xs : List Int) (g : Nat) : Int :=
  ((List.range 1024).map fun r => SMap.get dfltInt res (r * 16 + g) * (xs[r]?).getD 0).sum

/-- A group passes, fails or is exempt: |Δ| ≤ THRESH × m, all multiplied by 256 × N × FS, with N the reads averaged. -/
def groupCheck (par : ReadPar) (res : SMap Int) (xs : List Int) (l : List Sample) (g : Nat) : Option Bool :=
  let cols := (512 + g) :: (List.range 32).map (fun j => 32 * g + j)
  if (g / 4) ∈ par.open_ ∨ l.any (fun x => x.sat.any fun c => c ∈ cols) then none
  else
    let n : Int := l.length
    let k := (l.map fun x => (cols.map fun c => (sampCode x c).2).foldl max 1).foldl max 1
    let sd : Int := ((List.range 32).map fun j => sumCode l (32 * g + j)).sum
    let delta := sd * par.fs - 1024 * n * residueTerm res xs g - 4 * sumCode l (512 + g) * par.fs
    some (decide ((delta.natAbs : Int) ≤ par.thresh * sqrtCeil k * 32 * n * par.fs))

/-- Evaluate a slice: whether it passes, and how many groups were exempt. -/
def evalSlice (par : ReadPar) (res : SMap Int) (resBad : Bool) (xs : List Int) (l : List Sample) (newLate : Bool) : Bool × Nat :=
  let t := inForce l
  let gs := (List.range 16).map (groupCheck par res xs t)
  (!resBad && !par.calBad && !newLate && l.any (fun x => !x.late) && gs.all (fun g => g ≠ some false), (gs.filter fun g => g.isNone).length)

/-! ### Check converter (R81 to R85) -/

/-- Flagged checksum converters of an array. -/
def cflts (a : Nat) (s : State) : List Nat := (List.range 4).filter fun m => (getF (arrF Reg.Pnt.cvCflt a) s).testBit m
def chkFlt (a : Nat) (s : State) : Bool := isSet (arrF Reg.Pnt.cvChkFlt a) s
/-- The stand-in in force. -/
def standinOf (a : Nat) (s : State) : Option Nat :=
  if isSet (arrF Reg.Pnt.cvStandin a) s then some (getF (arrF Reg.Pnt.cvStandinM a) s) else none

/-- Flagged converters that nothing covers. -/
def uncovered (a : Nat) (s : State) : List Nat := (cflts a s).filter fun m => standinOf a s ≠ some m

/-- UNCHECKED_ARRAY (R85): the array sets UNCHECKED and is queued. -/
def unchecked (a : Nat) (s : State) : State :=
  let s := setF (arrF Reg.Pnt.cvUnchecked a) 1 s
  if arrState a s = 1 ∨ arrState a s = 2 then queueArray a s else s

/-- End a stand-in whose converter is no longer flagged, or whose check converter is. -/
def standinEnd (a : Nat) (s : State) : State :=
  match standinOf a s with
  | some m => if m ∈ cflts a s ∧ ¬ chkFlt a s then s else setF (arrF Reg.Pnt.cvStandin a) 0 s
  | none => s

/-- Start a stand-in for the lowest flagged checksum converter (R84): the rotation stops, and a dwell in progress with it.
What stays uncovered leaves the array unchecked. -/
def standinStart (a : Nat) (s : State) : State :=
  match standinOf a s, cflts a s, chkFlt a s with
  | none, m :: l, false =>
    let s := setF (arrF Reg.Pnt.cvStandinM a) m (setF (arrF Reg.Pnt.cvStandin a) 1 s)
    let s := if (arrOf a s).dwell.isSome then setF (arrF Reg.Pnt.cvDwellOn a) 0 (updArr a (fun r => { r with dwell := none }) s) else s
    if l.isEmpty then s else unchecked a s
  | _, _, _ => s

/-- CONVERTER_FLAG on checksum converter m (R83, R85). -/
def flagChecksum (a m : Nat) (s : State) : State :=
  let f := arrF Reg.Pnt.cvCflt a
  if (getF f s).testBit m then s
  else
    let others := !(cflts a s).isEmpty || chkFlt a s
    let s := setF f (getF f s + 2 ^ m) (addF (pntF Reg.Pnt.flagCnt (a / 16)) 1 s)
    let s := report 0x000B a m s
    if others then unchecked a s else s

/-- CONVERTER_FLAG on the check converter. -/
def flagCheck (a : Nat) (s : State) : State :=
  if chkFlt a s then s
  else
    let s := setF (arrF Reg.Pnt.cvChkFlt a) 1 (addF (pntF Reg.Pnt.flagCnt (a / 16)) 1 s)
    let s := standinEnd a (report 0x000B a 132 s)
    if (cflts a s).isEmpty then s else unchecked a s

/-- CHECK_STANDIN_START and CHECK_STANDIN_END. -/
def execCheckStandinStart (a : ArrayIx) (s : State) : Host.Outcome State Fault Refusal := .next (standinStart a.toNat s)
def execCheckStandinEnd (a : ArrayIx) (s : State) : Host.Outcome State Fault Refusal := .next (standinEnd a.toNat s)

/-- The checksum column, 0 to 15, that the check converter compares now: the rotation's where nothing is flagged (R81), or
one of the replaced converter's while a flag waits for its clearing dwell (R83). -/
def compareCol (a : Nat) (s : State) : Option Nat :=
  let r := arrOf a s
  if chkFlt a s then none
  else match standinOf a s with
    | some m => if m ∈ r.cal.recheck then some (4 * m + r.rot % 4) else none
    | none => if (cflts a s).isEmpty then some r.rot else none

/-- CHECK_COMPARISON (R82): one pair of conversions of a column. A dwell keeps the values of CNV_CHK it began with. -/
def compareOne (a col : Nat) (diff : Int) (s : State) : State :=
  let rec0 := arrOf a s
  let d := rec0.dwell.getD ⟨0, 0, col, getF (pntF Reg.Pnt.chkDwell (a / 16)) s, getF (pntF Reg.Pnt.chkConfirm (a / 16)) s,
    getF (pntF Reg.Pnt.chkLimit (a / 16)) s⟩
  let wrong := decide (8 * d.limit < diff.natAbs)
  if d.need ≤ d.made ∨ (rec0.dwell.isNone ∧ ¬ wrong ∧ (cflts a s).isEmpty) then s
  else
    let s := if wrong then addF (pntF Reg.Pnt.disagreeCnt (a / 16)) 1 s else s
    setF (arrF Reg.Pnt.cvDwellOn a) 1
      (setArr a { rec0 with dwell := some { d with made := d.made + 1, wrong := d.wrong + (if wrong then 1 else 0) } } s)

/-- The comparisons of the windows that a read, its averaging reads and splits, or a retry converts: fresh number, slice,
row levels and the windows (R81, R82). -/
def compareRead (a d : Nat) (par : ReadPar) (lv : SMap Int) (pts : List (Nat × Nat × List Int × List (Nat × Nat)))
    (lates : List (Nat × Nat)) (s : State) : State :=
  match compareCol a s with
  | none => s
  | some c0 =>
    let col := 512 + c0
    pts.foldl (fun s x => x.2.2.2.foldl (fun s w =>
      let q := idealCode col par.fs (columnSum lv x.2.2.1 col w.1 w.2)
      let c := clampCode (if x.1 = d ∧ (x.2.1, col) ∈ lates then Config.lateCode d x.2.1 col
        else q + Config.codeDeviation x.1 x.2.1 w.1 w.2 col)
      let k := clampCode (q + Config.codeDeviation x.1 x.2.1 w.1 w.2 (1024 + col))
      compareOne a c0 (correct a col 132 par.cal k - correct a col (128 + c0 / 4) par.cal c) s) s) s

/-- DWELL_END (R82, R83). -/
def dwellEnd (a : Nat) (s : State) : State :=
  let r := arrOf a s
  match r.dwell with
  | none => s
  | some d =>
    if d.made < d.need then s
    else
      let conf := decide (d.confirm ≤ d.wrong)
      let m := d.col / 4
      let s := setF (arrF Reg.Pnt.cvDwellOn a) 0 s
      if m ∈ cflts a s then
        -- A flagged converter's clearing dwell.
        let s := setArr a { r with dwell := none, cal := { r.cal with recheck := r.cal.recheck.filter fun x => ¬ x = m } } s
        if conf then s
        else setF (arrF Reg.Pnt.cvCflt a) (getF (arrF Reg.Pnt.cvCflt a) s - 2 ^ m) (addF (pntF Reg.Pnt.dwellCnt (a / 16)) 1 s)
      else if conf then
        let s := setArr a { r with dwell := none } s
        if r.cal.chkFailed then flagCheck a s else flagChecksum a m s
      else
        addF (pntF Reg.Pnt.dwellCnt (a / 16)) 1 (setArr a { r with dwell := none, rot := (r.rot + 1) % 16 } s)

def execDwellEnd (a : ArrayIx) (s : State) : Host.Outcome State Fault Refusal := .next (dwellEnd a.toNat s)

/-! ### Suspect events (R61, R65) -/

/-- SUSPECT_EVENT. -/
def suspectEvent (a : Nat) (s : State) : State :=
  let p := a / 16
  let lim := getF (pntF Reg.Pnt.suspLimit p) s
  let f := arrF Reg.Pnt.stSuspCnt a
  let s := setF (arrF Reg.Pnt.stChkFail a) 1 (domUncorrected 10 1 (addF (pntF Reg.Pnt.suspCnt p) 1 s))
  let st := arrState a s
  if st = 1 then
    let s := updArr a (fun r => { r with winReads := 0 }) (setF f 1 s)
    if lim ≤ 1 then enterQueued a s else setArrState a 2 s
  else if st = 2 then
    if getF f s + 1 < lim then satF f 1 s else enterQueued a (setF f lim s)
  else satF f 1 s

/-- SUSPECT_WINDOW_END. -/
def suspectWindowEnd (a : Nat) (s : State) : State :=
  if arrState a s = 2 ∧ 2 ^ (getF (pntF Reg.Pnt.confWindow (a / 16)) s + 10) ≤ (arrOf a s).winReads then
    arbitrate (setArrState a 1 (setF (arrF Reg.Pnt.stSuspCnt a) 0 s))
  else s

def execSuspectWindowEnd (a : ArrayIx) (s : State) : Host.Outcome State Fault Refusal := .next (suspectWindowEnd a.toNat s)

/-! ### Reads -/

/-- The result of a read by data column, in ACC-N units: RNE of V × 2^f, V the shift-add of the averaged codes (R47,
R111). -/
def readResult (rd : ReadRec) : List (Nat × Int) :=
  let f := widthF rd.par.width
  (List.range 512).filterMap fun c =>
    let parts := rd.slices.filterMap fun sl =>
      let l := inForce sl.samples
      if l.isEmpty then none else some ((4 ^ sl.slice : Int) * sumCode l c, l.length)
    let den := (parts.map fun x => x.2).foldl Nat.lcm 1
    let num : Int := (parts.map fun x => x.1 * ((den / x.2 : Nat) : Int)).sum
    let v := num * 2 ^ f
    let q := roundInt .rne v.natAbs (64 * den)
    if q = 0 then none else some (c, if v < 0 then -(q : Int) else q)

/-- Throttle level in force for an array's region: the larger of L_r and L_p (R365). -/
def throttle (a : Nat) (s : State) : Nat := max (getF (Reg.Pwr.regLth.at (pwrBase + 4 * regionOf (a / 256))) s) (lp s)

/-- THROTTLE_PAUSE: p = ⌈s × L ÷ (16 − L)⌉ idle slots after a read of s slots. -/
def pauseSlots (slots l : Nat) : Nat := (slots * l + (15 - l)) / (16 - l)

/-- Count the slots of a read or retry: the meter's kind 0, the step's busy slots, the pause that follows. -/
def countSlots (a ten slots : Nat) (s : State) : State :=
  let p := pauseSlots slots (throttle a s)
  meterAdd ten 0 slots (updArr a (fun r => { r with stepSlots := r.stepSlots + r.pause + slots, pause := p }) s)

/-- Flags and counts of clips and saturation; each counts once per read, the clip report once per step (R54). -/
def countClips (a step : Nat) (wasSplit wasSat : Bool) (new : List Sample) (s : State) : State :=
  let p := a / 16
  let split := new.any fun x => x.split
  let sat := new.any fun x => !x.sat.isEmpty
  let s := if split then setF (arrF Reg.Pnt.stClip a) 1 s else s
  let s := if split && !wasSplit then addF (pntF Reg.Pnt.clipCnt p) 1 s else s
  let s := if sat then setF (arrF Reg.Pnt.stSat a) 1 s else s
  let s := if sat && !wasSat then addF (pntF Reg.Pnt.satCnt p) 1 s else s
  if sat && (arrOf a s).clipStep ≠ some step then
    report 0x0009 a 0 (updArr a (fun r => { r with clipStep := some step }) s)
  else s

/-- Lifetime count of a confidence outcome in the array's band: passed after 1, 2 or 3 retries, or a suspect event. -/
def outcome (a o : Nat) (s : State) : State := lifeAdd (0x200 + 32 * bandOf (regionOf (a / 256)) s + 8 * o) 8 1 s

/-- Settle a slice after its newest samples (R61): passed, out of retries, or to be read again. -/
def settleSlice (a : Nat) (par : ReadPar) (res : SMap Int) (bad : Bool) (xs : List Int) (newLate : Bool) (sl : SliceRec) (s : State) :
    SliceRec × State :=
  let e := evalSlice par res bad xs sl.samples newLate
  let s := addF (pntF Reg.Pnt.chkSkipCnt (a / 16)) e.2 s
  if e.1 then
    let s := if 0 < sl.retries then outcome a (min sl.retries 3 - 1) (domCorrected 10 1 (addF (pntF Reg.Pnt.retryCnt (a / 16)) 1 s)) else s
    ({ sl with settled := true, passed := true }, s)
  else ({ sl with settled := decide (par.retries ≤ sl.retries), passed := false }, s)

/-- Release finished reads to the accumulators, in read order (R62). -/
def releaseReads (a : Nat) : Nat → State → State
  | 0, s => s
  | n + 1, s =>
    let r := arrOf a s
    match r.reads with
    | [] => s
    | rd :: l =>
      if rd.slices.all fun x => x.settled then
        let s := deliver a rd.vec.vid (readResult rd) false (setArr a { r with reads := l } s)
        let s := if rd.slices.all fun x => x.passed then s else suspectEvent a (outcome a 3 s)
        releaseReads a n s
      else s

/-- The levels of a slice over the rows. -/
def sliceLevels (w sl : Nat) (xs : List Int) : List Int := xs.map (sliceLevel (widthSlices w) sl)

/-- Parameters of a read that begins now. -/
def readPar (a : Nat) (s : State) : ReadPar :=
  let p := a / 16
  ⟨getF (pntF Reg.Pnt.width p) s, getF (arrF Reg.Pnt.rows a) s, getF (arrF Reg.Pnt.fs a) s, getF (pntF Reg.Pnt.thresh p) s,
   getF (pntF Reg.Pnt.retries p) s, (arrOf a s).cal.vals, uncovered a s, standinOf a s, (arrOf a s).cal.bad⟩

/-- One slice of a new read: nothing for a zero slice, else AVG reads of it. Answers the slice and, for each read of it,
its fresh number, the slice, its levels and its windows. -/
def readSlice (a d avg : Nat) (par : ReadPar) (lv : SMap Int) (skip : Bool) (xs : List Int) (lates : List (Nat × Nat)) (sl : Nat) :
    SliceRec × List (Nat × Nat × List Int × List (Nat × Nat)) :=
  let lvl := sliceLevels par.width sl xs
  if skip ∧ lvl.all (fun x => x = 0) then (⟨sl, [], 0, true, true⟩, [])
  else
    let l := (List.range avg).map fun i => sampleSlice a (d + i) par lv sl lvl (if i = 0 then lates else [])
    (⟨sl, l.map fun x => x.1, 0, false, false⟩, (List.range avg).zip l |>.map fun x => (d + x.1, sl, lvl, x.2.2))

/-- Slots of the windows converted: four each. -/
def winSlots (pts : List (Nat × Nat × List Int × List (Nat × Nat))) : Nat := 4 * (pts.map fun x => x.2.2.2.length).sum

/-- What the pennant's residue and calibration stores show when the read uses them (R59, R409, R413): an uncorrectable
calibration word asks for a round with the array's step limits waived. -/
def storeCheck (a : Nat) (res cal : Ecc) (s : State) : State :=
  let s := match res with
    | .clean => s
    | .corrected => domCorrected 4 1 s
    | .uncorrectable => report 0x0005 (a / 16) a (updArr a (fun r => { r with resBad := true }) (domUncorrected 4 1 s))
  match cal with
  | .clean => s
  | .corrected => domCorrected 5 1 s
  | .uncorrectable =>
    let s := updArr a (fun r => { r with cal := { r.cal with bad := true, waiveAll := true } }) (domUncorrected 5 1 s)
    requestAct (.round (a / 16) false) (report 0x0006 (a / 16) a s)

/-- A read of the vector at the front of the buffer (R48). `idle`: a slot was idle since the last read (R86). -/
def arrayRead (a : Nat) (idle : Bool) (lates : List (Nat × Nat)) (res cal : Ecc) (s : State) : State :=
  let s := storeCheck a res cal s
  let s := standinStart a (standinEnd a (skipZeros a 8 s))
  let r := arrOf a s
  let p := a / 16
  match r.buf with
  | [] => s
  | v :: l =>
    -- A vector taken in before the block moved away is still read here (R67).
    if ¬ convOn (a / 256) s ∨ ¬ (serves a s ∨ arrState a s = 5) then s
    else
      let par := readPar a s
      let avg := 2 ^ getF (pntF Reg.Pnt.avg p) s
      let skip := isSet (pntF Reg.Pnt.zeroSliceEn p) s
      let d := s.fresh
      let s := { s with fresh := d + avg }
      let rs := (List.range (widthSlices par.width)).map (readSlice a d avg par r.levels skip v.xs lates)
      let sls := rs.map fun x => x.1
      let pts := rs.flatMap fun x => x.2
      let zeros := (sls.filter fun x => x.samples.isEmpty).length
      let s := addF (pntF Reg.Pnt.zeroSliceCnt p) zeros (addF (pntF Reg.Pnt.lateCnt p) lates.length s)
      let s := countClips a v.step false false (sls.flatMap fun x => x.samples) s
      let done := sls.foldl (fun (acc : List SliceRec × State) x =>
        if x.settled then (acc.1 ++ [x], acc.2)
        else
          let y := settleSlice a par r.residues r.resBad (sliceLevels par.width x.slice v.xs) (x.samples.any fun z => z.late) x acc.2
          (acc.1 ++ [y.1], y.2)) ([], s)
      let s := countSlots a v.ten (winSlots pts) (compareRead a d par r.levels pts lates done.2)
      let noIdle := !idle && (arrOf a s).pause == 0
      -- CALIBRATION_SLOT_INSERT: after 255 reads with no idle slot one read period goes to calibration (R86).
      let s := updArr a (fun q => { q with
        buf := l, reads := q.reads ++ [⟨v, par, done.1⟩], winReads := q.winReads + 1
        rot := if q.dwell.isNone && (cflts a s).isEmpty && !(chkFlt a s) then (q.rot + 1) % 16 else q.rot
        refNext := if par.standin.isSome then q.refNext else 528 + (q.refNext - 528 + 3 * (winSlots pts / 4)) % 8
        busyReads := if noIdle then (if q.busyReads + 1 = 255 then 0 else q.busyReads + 1) else 0
        stepSlots := if noIdle && q.busyReads + 1 = 255 then q.stepSlots + 4 * widthSlices par.width * (1024 / par.rows) else q.stepSlots }) s
      skipZeros a 8 (releaseReads a 16 s)

def execArrayRead (a : ArrayIx) (idle : Bool) (lates : List (Nat × Nat)) (res cal : Ecc) (s : State) :
    Host.Outcome State Fault Refusal := .next (arrayRead a.toNat idle lates res cal s)

/-- Retry the first slice of a read that asks for it: one more sample, averaged with those so far (R61, R62). -/
def retryFirst (a d : Nat) (lates : List (Nat × Nat)) (r : ArrRec) :
    List ReadRec → Option (List ReadRec × SliceRec × ReadRec × List (Nat × Nat))
  | [] => none
  | rd :: l =>
    match rd.slices.find? (fun x => !x.settled) with
    | none => (retryFirst a d lates r l).map fun x => (rd :: x.1, x.2)
    | some sl =>
      let xs := sliceLevels rd.par.width sl.slice rd.vec.xs
      let smp := sampleSlice a d rd.par r.levels sl.slice xs lates
      some (rd :: l, { sl with samples := sl.samples ++ [smp.1], retries := sl.retries + 1 }, rd, smp.2)

/-- SLICE_RETRY. -/
def sliceRetry (a : Nat) (lates : List (Nat × Nat)) (s : State) : State :=
  let r := arrOf a s
  match retryFirst a s.fresh lates r r.reads with
  | none => s
  | some (_, sl, rd, wins) =>
    let pts := [(s.fresh, sl.slice, sliceLevels rd.par.width sl.slice rd.vec.xs, wins)]
    let d := s.fresh
    let s := { s with fresh := s.fresh + 1 }
    let old := rd.slices.flatMap fun x => x.samples
    let newest := (sl.samples.drop (sl.samples.length - 1))
    let s := addF (pntF Reg.Pnt.lateCnt (a / 16)) lates.length s
    let s := countClips a rd.vec.step (old.any fun x => x.split) (old.any fun x => !x.sat.isEmpty) newest s
    let y := settleSlice a rd.par r.residues r.resBad (sliceLevels rd.par.width sl.slice rd.vec.xs) (newest.any fun x => x.late) sl s
    let put := fun (x : ReadRec) => if x = rd then { x with slices := x.slices.map fun z => if z.slice = sl.slice then y.1 else z } else x
    let s := countSlots a rd.vec.ten (winSlots pts) (compareRead a d rd.par r.levels pts lates y.2)
    skipZeros a 8 (releaseReads a 16 (updArr a (fun q => { q with reads := q.reads.map put }) s))

def execSliceRetry (a : ArrayIx) (lates : List (Nat × Nat)) (s : State) : Host.Outcome State Fault Refusal :=
  .next (sliceRetry a.toNat lates s)

end Sys2Proof.Machine
end

