-- ==== Sys2Proof/Machine/Calib.lean ====
section
/-! DEFINITION. Converters: their reference and power, the calibration of arrays and its rounds, staleness and age
(chapter 03; R358, Table 19-10). -/

namespace Sys2Proof.Machine
open Sys2Proof

/-! ### Hoists and their gates (R77 to R80, R358) -/

def hoistF (f : Field) (h : Nat) : Field := f.at (hoistBase h)
def hoistOf (h : Nat) (s : State) : HoistRec := SMap.get dfltHoist s.hoists h
def setHoist (h : Nat) (r : HoistRec) (s : State) : State := { s with hoists := SMap.set dfltHoist s.hoists h r }

/-- Ask a gate to switch; at most four switch at once (R358). -/
def switchGate (h : Nat) (vana opening : Bool) (s : State) : State :=
  { s with pwr := { s.pwr with ramping := (s.pwr.ramping.filter fun x => ¬ (x.1 = h ∧ x.2.1 = vana)) ++ [(h, vana, opening)] } }

/-- Hoists that the image in force uses: those with a mapped array or an output pennant. -/
def usedHoists (s : State) : List Nat :=
  match s.ens.image with
  | none => []
  | some i =>
    let fromArrays := i.placements.flatMap fun p => (p.entries.filter fun e => e.2.state ≠ 0).map fun e => e.1 / 256
    let fromPnts := match i.pennants with | some l => (l.filter fun (e : PennantEntry) => e.outEn).map fun (e : PennantEntry) => e.pnt / 16 | none => []
    (List.range 32).filter fun h => h ∈ fromArrays ∨ h ∈ fromPnts

/-- POWERUP ends when every used hoist has CONV_EN = 1 and its VANA gate open (Tables 19-9 and 19-10). -/
def powerupCheck (s : State) : State :=
  if getF Reg.Glb.state s = 3 ∧ (usedHoists s).all (fun h => convOn h s && s.pwr.vana.contains h) then setF Reg.Glb.state 4 s else s

/-- DATA_RUN: an image is active and every hoist it uses is powered (Table 1-6). -/
def dataCheck (s : State) : State :=
  let on := isSet Reg.Glb.imageActive s && (usedHoists s).all fun h => s.pwr.core.contains h
  setF Reg.Glb.dataRun (if on then 1 else 0) s

/-- The array takes part in what its pennant runs: a round as Table 3-5's text says, the initial calibration also while it
is UNMAPPED (R95). -/
def takesPart (a : Nat) (s : State) : Bool :=
  calibrates a s || ((pntOf (a / 16) s).initial && arrState a s == 0)

/-- The pennant's cycles begin anew. -/
def beginCycles (p : Nat) (s : State) : State :=
  (List.range 16).foldl (fun s i => updArr (p * 16 + i) (fun r => { r with cal := { r.cal with done := false } }) s) s

/-- A round of a pennant of the hoist. -/
def isHoistRound (h : Nat) (m : MntAct) : Bool := match m with | .round p _ => p / 16 == h | _ => false

/-- Converters off: what runs on the hoist's pennants ends, with its grants. -/
def convOff (h : Nat) (s : State) : State :=
  let s := setF (hoistF Reg.Hoist.convEn h) 0 s
  let s := switchGate h true false s
  let s := (List.range 16).foldl (fun s i =>
    updPnt (h * 16 + i) (fun r => { r with round := false, initial := false, first := false }) s) s
  arbitrate { s with mnt := { s.mnt with granted := s.mnt.granted.filter fun g => !(isHoistRound h g.act) } }

/-- CONV_ENABLE (R79). -/
def convEnable (h : Nat) (en : Bool) (s : State) : State :=
  if en then
    if ¬ isSet (hoistF Reg.Hoist.refSettled h) s then countIgnored (hoistBase h + 0x100) s
    else if convOn h s then s
    else
      let s := switchGate h true true (setF (hoistF Reg.Hoist.convEn h) 1 s)
      powerupCheck ((List.range 16).foldl (fun s i =>
        beginCycles (h * 16 + i) (updPnt (h * 16 + i) (fun r => { r with initial := true }) s)) s)
  else if (List.range 256).any (fun i => serves (h * 256 + i) s) then countIgnored (hoistBase h + 0x100) s
  else if convOn h s then convOff h s
  else s

def execConvEnable (h : HoistIx) (en : Bool) (s : State) : Host.Outcome State Fault Refusal := .next (convEnable h.toNat en s)

/-- HOIST_GATE_RAMP_DONE: one of the gates that switch completes its ramp. A VCORE gate that opens powers the hoist, and
SETTLED clears (R78). -/
def gateRampDone (h : Nat) (vana : Bool) (s : State) : State :=
  match (s.pwr.ramping.take 4).find? (fun x => x.1 = h ∧ x.2.1 = vana) with
  | none => s
  | some g =>
    let s := { s with pwr := { s.pwr with ramping := s.pwr.ramping.filter fun x => ¬ x = g } }
    if vana then
      powerupCheck { s with pwr := { s.pwr with vana := (s.pwr.vana.filter fun x => ¬ x = h) ++ (if g.2.2 then [h] else []) } }
    else
      let s := { s with pwr := { s.pwr with core := (s.pwr.core.filter fun x => ¬ x = h) ++ (if g.2.2 then [h] else []) } }
      dataCheck (setHoist h ⟨[], 0⟩ (setF (hoistF Reg.Hoist.refSettled h) 0 s))

def execHoistGateRampDone (h : HoistIx) (vana : Bool) (s : State) : Host.Outcome State Fault Refusal :=
  .next (gateRampDone h.toNat vana s)

/-- The accepted window of a source (R78), in µV; the supply-derived one is 0.667 × the analogue rail ± 2 %. -/
def refWindow (src uv vana : Nat) : Bool :=
  if src = 0 then decide (1188000 ≤ uv ∧ uv ≤ 1212000)
  else if src = 1 then decide (1150000 ≤ uv ∧ uv ≤ 1250000)
  else decide (667 * vana * 98 ≤ uv * 100000 ∧ uv * 100000 ≤ 667 * vana * 102)

/-- The last 8 readings differ from one another by less than 0.05 %. -/
def steady (l : List Nat) : Bool :=
  let hi := l.foldl max 0
  let lo := l.foldl min hi
  decide (8 ≤ l.length) && decide ((hi - lo) * 2000 < hi)

/-- The arrays of a hoist owe the gain waivers (R80, R83). -/
def waiveHoist (h : Nat) (s : State) : State :=
  (List.range 256).foldl (fun s i => updArr (h * 256 + i) (fun r => { r with cal := { r.cal with waiveBand := true } }) s) s

/-- REFERENCE_READING (R78, R80): the monitor reads the selected reference. -/
def referenceReading (h uv vana : Nat) (s : State) : State :=
  if h ∉ s.pwr.core then s
  else
    let src := getF (hoistF Reg.Hoist.refSrc h) s
    let r := hoistOf h s
    let inWin := refWindow src uv vana
    let l := if inWin then (uv :: r.readings).take 8 else []
    if isSet (hoistF Reg.Hoist.refSettled h) s then
      let off := (max uv r.settledAt - min uv r.settledAt) * 200
      if convOn h s ∧ (¬ inWin ∨ r.settledAt < off) then
        report 0x000B h 0 (setF (hoistF Reg.Hoist.refLost h) 1 (setF (hoistF Reg.Hoist.refSettled h) 0 (setHoist h ⟨[], r.settledAt⟩ s)))
      else setHoist h ⟨l, r.settledAt⟩ s
    else if steady l then
      let s := setF (hoistF Reg.Hoist.refSettled h) 1 (setHoist h ⟨l, uv⟩ s)
      if convOn h s then waiveHoist h s else s
    else setHoist h ⟨l, r.settledAt⟩ s

def execReferenceReading (h : HoistIx) (uv vana : Nat) (s : State) : Host.Outcome State Fault Refusal :=
  .next (referenceReading h.toNat uv vana s)

/-! ### Limits (Table 3-6) -/

/-- Absolute limits of a quantity: offsets in 1/64 LSB, gains in parts per million, t_u in fs. -/
def absLimits (q : Nat) : Int × Int :=
  if q = 0 then (-512, 512) else if q = 1 then (900000, 1100000) else if q = 2 then (-256, 256)
  else if q = 3 then (950000, 1050000) else if q = 4 then (900000, 1100000) else (15000, 25000)

/-- A step within the largest step from the previous value. -/
def stepOk (q : Nat) (old new : Int) : Bool :=
  let d := (new - old).natAbs
  if q = 0 then decide (d ≤ 32) else if q = 1 then decide (d * 1000 ≤ 5 * old.natAbs) else if q = 2 then decide (d ≤ 16)
  else if q = 3 then decide (d * 10000 ≤ 25 * old.natAbs) else if q = 4 then decide (d * 1000 ≤ 2 * old.natAbs)
  else decide (d * 100 ≤ 2 * old.natAbs)

/-- The converter that a quantity's index belongs to: of a column the one that serves it; of A none. -/
def quantityConv (q i : Nat) : Option Nat :=
  if q = 2 ∨ q = 3 then (if i < 528 then some (convOf i none) else some 132) else if q = 4 then none else some i

/-- The converter is flagged. -/
def convFlagged (a c : Nat) (s : State) : Bool :=
  if c < 128 then (arrOf a s).cal.dflags.contains c
  else if c < 132 then (getF (arrF Reg.Pnt.cvCflt a) s).testBit (c - 128) else chkFlt a s

/-- The step limit of a quantity is waived: initial calibration, a forced round, the cycle before a diagnostic read, a
flagged converter, or the union of what a band or reference change and a program owe (R83, R85, R95, R96). -/
def waived (a q i : Nat) (s : State) : Bool :=
  let c := (arrOf a s).cal
  (pntOf (a / 16) s).initial || c.waiveAll || arrState a s == 5 ||
    (match quantityConv q i with | some k => convFlagged a k s | none => false) ||
    (c.waiveBand && (q == 1 || q == 3 || q == 4)) || (c.waiveStale && (q == 2 || q == 3 || q == 4))

/-! ### Cycles and rounds (R86 to R97) -/

/-- A flag on a data converter (R85, R91). -/
def flagData (a c : Nat) (s : State) : State :=
  if convFlagged a c s then s
  else
    let s := updArr a (fun r => { r with cal := { r.cal with dflags := c :: r.cal.dflags } }) s
    report 0x000B a c (addF (pntF Reg.Pnt.flagCnt (a / 16)) 1 s)

/-- `CNV_STAT.DFLT_CNT` and `DFLT_IDX` follow the flagged data converters. -/
def dataFlagStat (a : Nat) (s : State) : State :=
  let l := (arrOf a s).cal.dflags
  setF (arrF Reg.Pnt.cvDfltIdx a) (l.foldl min (l.headD 0)) (setF (arrF Reg.Pnt.cvDfltCnt a) (min l.length 255) s)

/-- Flag the converter of a quantity. -/
def flagConv (a c : Nat) (s : State) : State :=
  if c < 128 then flagData a c s else if c < 132 then flagChecksum a (c - 128) s else flagCheck a s

/-- CALIBRATION_FAIL (R91): the value in force stays, and FAIL_LIMIT failures in a row flag the converter. -/
def calFail (a q i kind : Nat) (s : State) : State :=
  let p := a / 16
  let key := q * 1024 + i
  let s := setF (pntF Reg.Pnt.calLfArray p) (a % 16) (setF (pntF Reg.Pnt.calLfQty p) q
    (setF (pntF Reg.Pnt.calLfKind p) kind (setF (pntF Reg.Pnt.calLfIndex p) i s)))
  let s := updPnt p (fun r => { r with roundFailed := true }) (lifeAdd 0x610 8 1 s)
  let n := SMap.get dfltZero (arrOf a s).cal.fails key + 1
  let s := updArr a (fun r => { r with cal := { r.cal with fails := SMap.set dfltZero r.cal.fails key n } }) s
  if getF (pntF Reg.Pnt.calFailLimit p) s ≤ n then
    match quantityConv q i with | some c => flagConv a c s | none => s
  else s

/-- One measured value: used where it meets its limits (R91). -/
def calValue (a : Nat) (s : State) (m : Nat × Nat × Int) : State :=
  let q := m.1
  let i := m.2.1
  let v := m.2.2
  let lim := absLimits q
  let key := q * 1024 + i
  if v < lim.1 ∨ lim.2 < v then calFail a q i 0 s
  else if ¬ waived a q i s ∧ ¬ stepOk q (calVal a q i (arrOf a s).cal.vals) v then calFail a q i 1 s
  else
    let put := fun (c : CalRec) => { c with
      vals := SMap.set dfltNone' c.vals key (some v), fails := SMap.set dfltZero c.fails key 0 }
    updArr a (fun r => { r with cal := put r.cal }) s
where dfltNone' (_ : Nat) : Option Int := none

/-- The quantities of a converter that failed in the cycle just measured. -/
def failedIn (a c : Nat) (meas : List (Nat × Nat × Int)) (s : State) : Bool :=
  meas.any fun m => quantityConv m.1 m.2.1 = some c && decide (0 < SMap.get dfltZero (arrOf a s).cal.fails (m.1 * 1024 + m.2.1))

/-- The cycle measured the converter. -/
def measuredIn (c : Nat) (meas : List (Nat × Nat × Int)) : Bool := meas.any fun m => quantityConv m.1 m.2.1 = some c

/-- Flags that a passing cycle clears or moves towards clearing (R83, R85). -/
def clearFlags (a : Nat) (meas : List (Nat × Nat × Int)) (s : State) : State :=
  let okC := fun c => measuredIn c meas && !(failedIn a c meas s)
  let s1 := updArr a (fun r => { r with cal := { r.cal with
    dflags := r.cal.dflags.filter fun c => !(okC c)
    chkFailed := if measuredIn 132 meas then failedIn a 132 meas s else r.cal.chkFailed
    recheck := (cflts a s).filter fun m => okC (128 + m) || r.cal.recheck.contains m } }) s
  let s1 := dataFlagStat a s1
  if chkFlt a s1 ∧ okC 132 then setF (arrF Reg.Pnt.cvChkFlt a) 0 s1 else s1

/-- The cycle passed: age and staleness end (R96, R97). -/
def cyclePassed (a : Nat) (s : State) : State :=
  let bit := fun (f : Field) (s : State) => if (getF f s).testBit (a % 16) then setF f (getF f s - 2 ^ (a % 16)) s else s
  let s := bit (pntF Reg.Pnt.calOld (a / 16)) (bit (pntF Reg.Pnt.calStale (a / 16)) s)
  updArr a (fun r => { r with cal := { r.cal with waiveBand := false, waiveStale := false, waiveAll := false, bad := false, lastPass := now s } }) s

/-- A round ends when every array that takes part has done its cycle (R88, R95). -/
def roundEnd (p : Nat) (s : State) : State :=
  if (List.range 16).all (fun i => !(takesPart (p * 16 + i) s) || (arrOf (p * 16 + i) s).cal.done) then
    let r := pntOf p s
    let s := if r.roundFailed then addF (pntF Reg.Pnt.calFailCnt p) 1 s
      else if r.roundSkipped then s
      else setF (pntF Reg.Pnt.calLast p) (now s) (addF (pntF Reg.Pnt.calCount p) 1 s)
    let s := updPnt p (fun r => { r with round := false, initial := false, roundFailed := false, roundSkipped := false }) s
    let isRound := fun (m : MntAct) => match m with | .round q _ => q = p | _ => false
    arbitrate { s with mnt := { s.mnt with granted := s.mnt.granted.filter fun g => !(isRound g.act) } }
  else s

/-- What a cycle's values do: each is used where it meets its limits, flags clear, a scale more than 3 % from 1.0 asks for
an early touch-up by raising the age to 1.0 (R91, R92, R250), and a cycle without a failure passes. -/
def cycleValues (a : Nat) (meas : List (Nat × Nat × Int)) (s : State) : State :=
  let s := meas.foldl (calValue a) s
  let s := clearFlags a meas s
  let failed := meas.any fun m => decide (0 < SMap.get dfltZero (arrOf a s).cal.fails (m.1 * 1024 + m.2.1))
  let sc := calVal a 4 0 (arrOf a s).cal.vals
  -- EARLY_TOUCH_UP_REQUEST.
  let s := if (sc < 970000 ∨ 1030000 < sc) ∧ (arrOf a s).hold.isSome ∧ meas.any (fun m => m.1 = 4) then
      updArr a (fun r => { r with age := max r.age Config.ageUnit }) s
    else s
  if failed then s else cyclePassed a s

/-- The calibration cycle that an array runs before the diagnostic read of its REVERIFY, under the grant of that read
(R85): it is no round of its pennant. -/
def reverifyCycle (a : Nat) (meas : List (Nat × Nat × Int)) (s : State) : State :=
  let failed := (pntOf (a / 16) s).roundFailed
  updPnt (a / 16) (fun r => { r with roundFailed := failed }) (cycleValues a meas s)

/-- CALIBRATION_CYCLE_END: the measured values of an array's cycle, by quantity, index and value; `lates` late codes were
discarded. A cycle that ends while SETTLED is 0 is discarded, as are the values of an array that takes no part (R80, R89,
R91). -/
def calibrationCycleEnd (a : Nat) (meas : List (Nat × Nat × Int)) (lates : Nat) (s : State) : State :=
  let p := a / 16
  let r := pntOf p s
  let settled := isSet (hoistF Reg.Hoist.refSettled (a / 256)) s
  if convOn (a / 256) s ∧ arrState a s = 5 ∧ holds (.diag a) s then
    let s := addF (pntF Reg.Pnt.lateCnt p) lates s
    if settled then reverifyCycle a meas s else addF (pntF Reg.Pnt.calSkipCnt p) 1 s
  else if ¬ convOn (a / 256) s ∨ ¬ (r.round ∨ r.initial) then s
  else if ¬ takesPart a s ∨ (arrOf a s).cal.done then roundEnd p s
  else
    let s := addF (pntF Reg.Pnt.lateCnt p) lates s
    let s :=
      if settled then cycleValues a meas s
      else updPnt p (fun r => { r with roundSkipped := true }) (addF (pntF Reg.Pnt.calSkipCnt p) 1 s)
    roundEnd p (updArr a (fun r => { r with cal := { r.cal with done := true } }) s)

def execCalibrationCycleEnd (a : ArrayIx) (meas : List (Nat × Nat × Int)) (lates : Nat) (s : State) :
    Host.Outcome State Fault Refusal := .next (calibrationCycleEnd a.toNat meas lates s)

/-- T_int of a band in fs (Table 3-7). -/
def tInt (b : Nat) : Nat := if b ≤ 1 then 3100000 else if b = 2 then 2950000 else if b = 3 then 2800000 else 2600000

/-- DELAY_LINE_COUNT (R90): the unit delay of a converter's delay line from its ring count over 65,536 crystal clocks,
in fs, and the integration count T_int ÷ t_u to the nearest unit. -/
def delayLineCount (a c count : Nat) (s : State) : State :=
  if count = 0 then calFail a 5 c 0 s
  else
    let tu : Int := ((65536 * 1000000000000000 / 47000000 + count / 2) / count : Nat)
    let lim := absLimits 5
    if tu < lim.1 ∨ lim.2 < tu then calFail a 5 c 0 s
    else if ¬ waived a 5 c s ∧ ¬ stepOk 5 (calVal a 5 c (arrOf a s).cal.vals) tu then calFail a 5 c 1 s
    else
      let n : Int := (2 * (tInt (bandOf (regionOf (a / 256)) s) : Int) + tu) / (2 * tu)
      let put := fun (k : CalRec) => { k with
        vals := SMap.set calValue.dfltNone' (SMap.set calValue.dfltNone' k.vals (5 * 1024 + c) (some tu)) (6 * 1024 + c) (some n)
        fails := SMap.set dfltZero k.fails (5 * 1024 + c) 0 }
      updArr a (fun r => { r with cal := put r.cal }) s

def execDelayLineCount (a : ArrayIx) (c count : Nat) (s : State) : Host.Outcome State Fault Refusal :=
  if 132 < c then .fault .noSuchUnit else .next (delayLineCount a.toNat c count s)

/-- CAL_FORCE: a round at once, with step limits waived for every array of the pennant. -/
def calForce (p : Nat) (s : State) : State :=
  let s := (List.range 16).foldl (fun s i => updArr (p * 16 + i) (fun r => { r with cal := { r.cal with waiveAll := true } }) s) s
  requestAct (.round p false) s

def execCalForce (p : PntIx) (s : State) : Host.Outcome State Fault Refusal := .next (calForce p.toNat s)

/-- CALIBRATION_AGE_LIMIT (R97). -/
def calibrationAgeLimit (a : Nat) (s : State) : State :=
  let f := pntF Reg.Pnt.calOld (a / 16)
  if convOn (a / 256) s ∧ calibrates a s ∧ ¬ (getF f s).testBit (a % 16) ∧
      (arrOf a s).cal.lastPass + 2 ^ (getF (pntF Reg.Pnt.calAge (a / 16)) s + 20) < now s then
    report 0x0019 a 0 (setF f (getF f s + 2 ^ (a % 16)) s)
  else s

def execCalibrationAgeLimit (a : ArrayIx) (s : State) : Host.Outcome State Fault Refusal := .next (calibrationAgeLimit a.toNat s)

/-- A band change discards the cycles in progress in the region, and the next rounds waive the gain limits (R94). -/
def bandDiscard (r : Nat) (s : State) : State :=
  ((List.range 4).map fun i => 4 * r + i).foldl (fun s h =>
    if convOn h s then
      waiveHoist h ((List.range 256).foldl (fun s i =>
        let a := h * 256 + i
        let p := pntOf (a / 16) s
        if (p.round ∨ p.initial) ∧ takesPart a s ∧ ¬ (arrOf a s).cal.done then
          updPnt (a / 16) (fun q => { q with roundSkipped := true }) (addF (pntF Reg.Pnt.calSkipCnt (a / 16)) 1 s)
        else s) s)
    else s) s

end Sys2Proof.Machine
end

