-- ==== Sys2Proof/Machine/Reset.lean ====
section
/-! DEFINITION. What a conventional reset clears and what it leaves (R434, R444): RESET_N low, and the loss of the rails. -/

namespace Sys2Proof.Machine
open Sys2Proof

/-- An epoch slot after a reset: INSTALLED reads DORMANT until it is attached, INSTALLING and FAILED read EMPTY. -/
def slotAfterReset (r : EpSlot) : EpSlot :=
  match r.state with
  | .installed => { r with state := .dormant, readBack := 0, attachEnded := false }
  | .dormant => { r with readBack := 0, attachEnded := false }
  | _ => dfltSlot 0

/-- The epoch slot has a persistent record (R246). -/
def slotKept (n : Nat) (s : State) : Bool :=
  match (SMap.get dfltSlot s.wgt.slots n).state with
  | .installed => true
  | .dormant => true
  | _ => false

/-- An array after a reset: its cells, the block that its slot's record says it holds, and its drift age. -/
def arrAfterReset (s : State) (r : ArrRec) : ArrRec :=
  let keep := match r.hold with | some b => slotKept b.slot s | none => false
  let was := if r.hold.isSome then r.hold else r.past
  { dfltArr 0 with
    levels := r.levels, hold := if keep then r.hold else none, past := if keep then none else was, age := r.age
    overdue := r.overdue }

/-- Retirement nibbles and program cycles stay counted (R444). -/
def lifeAfterReset (m : SMap Nat) : SMap Nat := m.filter fun e => decide (0x1000 ≤ e.1)

/-- The meter's collector loses its open interval; the metering domain runs on (R383, R444). -/
def mtrAfterReset (m : MeterState) : MeterState := { m with acts := [], interval := 0, win := [], held := none }

/-- CONVENTIONAL_RESET: everything takes its reset value but the pins' other levels, the meter, the identity region, the
counter area, the lifetime store, the epoch slot records, the weights in the arrays, and what the power stage keeps. -/
def conventionalReset (s : State) : State :=
  { State.reset with
    pins := { s.pins with resetN := false }
    flt := { fltReset with copies := s.flt.copies, snapshots := s.flt.snapshots, life := lifeAfterReset s.flt.life }
    host := { hostReset with mem := s.host.mem }
    kv := { kvReset with reserved := s.kv.reserved }
    sec := { secReset with
      factory := s.sec.factory, cfgKeys := s.sec.cfgKeys, floor := s.sec.floor, key0Revoked := s.sec.key0Revoked }
    wgt := { wgtReset with slots := SMap.mapV dfltSlot slotAfterReset s.wgt.slots }
    arrs := SMap.mapV dfltArr (arrAfterReset s) s.arrs
    pwr := { pwrReset with pg := s.pwr.pg, on := s.pwr.on, vin10mV := s.pwr.vin10mV, latch := s.pwr.latch, armed := s.pwr.armed }
    mtr := mtrAfterReset s.mtr
    fresh := s.fresh
    pending := s.pending }

/-- Every die rail shuts down in reverse order; the die is held in reset (R356, R357). -/
def dieOff (s : State) : State :=
  let s := conventionalReset s
  { s with pwr := { s.pwr with pg := [], on := false } }

/-- PWR_GOOD: all six rails report power-good (R356). -/
def pwrGood (s : State) : Bool := (List.range 6).all fun n => s.pwr.pg.contains n

end Sys2Proof.Machine
end

