-- ==== Sys2Proof/Machine/Sync.lean ====
section
/-! DEFINITION. SRAM accesses, BAR2, flag words and credits, waits, streamer queues, clocks, crossings and the deadlock
detector (chapters 01, 12, 13, 17). -/

namespace Sys2Proof.Machine
open Sys2Proof

/-! ### SRAM (R22, R23, R26, R27, R39, R40, R411, R412) -/

/-- The slice of an address: A[13:8] (R22). -/
def sliceOf (a : Nat) : Nat := a / 256 % 64

/-- An address fault: counted in the lifetime record each time, recorded and reported once per setting of VALID. -/
def addressFault (port addr : Nat) (write : Bool) (s : State) : State :=
  let s := lifeAdd 0x618 8 1 s
  if isSet Reg.Glb.halValid s then setF Reg.Glb.halMore 1 s
  else
    let s := setF Reg.Glb.halValid 1 (setF Reg.Glb.halWrite (if write then 1 else 0) s)
    report 0x0004 port addr (setF Reg.Glb.halPort port (setF Reg.Glb.halAddrHi (addr / 512) s))

/-- The line of an address is poisoned. -/
def isPoisoned (a : Nat) (s : State) : Bool := s.flt.poisoned.contains (a / 256)

/-- The partition of an address, by its number in Table 1-3. -/
def partitionOf (a : Nat) (s : State) : Nat :=
  if a < partBase 1 s then 0 else if a < partBase 2 s then 1 else if a < partBase 3 s then 2
  else if a < partBase 4 s then 3 else if a < partBase 5 s then 4 else 5

/-- Kill a hot block (R411): the steps naming it fail with cause 4; in mirrored operation it is restored from the
partner (R415), otherwise its sequence ends with DETAIL 4 and the block is freed. -/
def killBlock (b : Block) (s : State) : State :=
  let steps := (s.sched.steps.filter fun r => r.plan.entries.any fun e => e.seq.toNat = b.seq ∧ (b.lslot, b.blk) ∈ e.blocks).map
    fun r => r.plan.step
  if isMirrored s ∧ ¬ isSet (Reg.Lnk.pairLost.at lnkBase) s ∧ ¬ isSet (Reg.Lnk.pairResync.at lnkBase) s then
    let s := steps.foldl (fun s n => failHere n 4 s) s
    let s := sendOn 15 ⟨0x05, false, true, getF (Reg.Lnk.pairPod.at lnkBase) s, myPod s, b.lslot, 0, 0, 1, .block b.lslot b.seq b.blk⟩ s
    { s with flt := { s.flt with restoring := (b.lslot, b.seq, b.blk) :: s.flt.restoring } }
  else
    let s := steps.foldl (fun s n => if headFor n s then failStep n 4 [b.seq] s else failHere n 4 s) s
    freeBlock b (endFrom b.seq 4 s)

/-- A block whose move has failed: it stays where it was (Table 8-5). -/
def unmoved (b : Block) : Block := { b with state := b.src, copied := false, demote := false, promote := false }

/-- The copy of a moving block fails over an uncorrectable word: the source stays, the destination is freed, its grant
ends and KVC_MOVEFAILCNT counts (Table 8-5). -/
def copyFails (b : Block) (s : State) : State :=
  let s := if b.dest = .hot then clearLines b.destLoc (slotLines b.lslot b.fmt s) s else s
  let s := { s with mnt := { s.mnt with granted := s.mnt.granted.filter fun g => ¬ g.act = .move b.lslot b.seq b.blk b.dest } }
  addF (Reg.Kvc.moveFailCnt.at kvcBase) 1 (mapBlocks (fun x => if x = b then unmoved b else x) s)

/-- A poisoned line lies in a block of the hot tier: a copy in progress fails, and the block is killed where the line is
not the destination's alone (R411, Table 17-5). -/
def hotPoison (b : Block) (s : State) : State :=
  if b.state = .moving then
    if b.src = .hot then (if b.copied then killBlock b s else killBlock (unmoved b) (copyFails b s)) else copyFails b s
  else killBlock b s

/-- Words of a poisoned flag-word line that are layer or tenant watch words are rewritten as 0 (Table 17-2): the line's
bytes at the watch addresses of the pennants. -/
def zeroWatch (line : Nat) (s : State) : State :=
  (List.range 512).foldl (fun s p =>
    let a := getF (Reg.Pnt.watchLayer.at (pntBase p)) s * 8
    if a / 256 = line ∧ a ≠ 0 then sramPutWord a 0 s else s) s

/-- The response to a poisoned line by the partition that holds it (Table 17-2). -/
def poisonResponse (addr : Nat) (holds : LineHolds) (issuer : Option Nat) (s : State) : State :=
  match partitionOf addr s with
  | 0 =>
    match s.kv.dir.find? (fun b => match blockHotLoc b with
        | some l => l ≤ addr / 256 ∧ addr / 256 < l + slotLines b.lslot b.fmt s | none => false) with
    | some b => hotPoison b s
    | none => failIssuer issuer 4 s
  | 1 => match holds with | .vector n => failHere n 4 s | _ => failIssuer issuer 4 s
  | 2 => failIssuer issuer 4 { s with flt := { s.flt with badStage := (addr / 256) :: s.flt.badStage } }
  | 3 =>
    match holds with
    | .plan n => failHere n 4 s
    | .dirEntry l q b =>
      match s.kv.dir.find? (fun x => x.lslot = l ∧ x.seq = q ∧ x.blk = b) with
      | some x => killBlock x s
      | none => s
    | .seqRecord q => if isMirrored s ∨ ¬ isHead s then s else endFrom q 4 s
    | _ => failIssuer issuer 4 s
  | 4 =>
    let hit := (s.sched.steps.filter fun r => r.plan.flags.any fun f => f.1 / 256 = addr / 256).map fun r => r.plan.step
    zeroWatch (addr / 256) (hit.foldl (fun s n => failHere n 4 s) s)
  | _ =>
    match holds with
    | .slotKey k true => report 0x0018 0 k.toNat { s with sec := { s.sec with slotKeys := s.sec.slotKeys.filter (fun x => ¬ x = k.toNat) } }
    | .tenantSecret t true =>
      emit 0x0703 t.toNat 0xFFFF (lastStep s) (t.toNat + 2 ^ 31)
        (report 0x0018 1 t.toNat { s with sec := { s.sec with secrets := s.sec.secrets.filter (fun x => ¬ x.1 = t.toNat) } })
    | _ => s

/-- A slice cannot correct a word: the line is poisoned, fault 0x0001 names the slice with the line's address, and the
part acts by partition (R411). -/
def poisonLine (addr : Nat) (holds : LineHolds) (issuer : Option Nat) (s : State) : State :=
  let s := { s with flt := { s.flt with
    poisoned := if isPoisoned addr s then s.flt.poisoned else (addr / 256) :: s.flt.poisoned } }
  poisonResponse addr holds issuer (report 0x0001 (sliceOf addr) (addr / 256 * 256) (domUncorrected 0 1 s))

/-- A corrected word: counted in domain 0 and for its slice; above CORRLIM in one hour of LTIME fault 0x0002 is reported
once for that hour (R417). -/
def correctedWord (slice n : Nat) (s : State) : State :=
  let hour := now s / ticksS 3600
  let c := SMap.get dfltCorr s.flt.sliceCorr slice
  let cnt := (if c.2.1 = hour then c.1 else 0) + n
  let done := c.2.1 = hour && c.2.2
  let aboveLim := decide (getF (Reg.Pwr.scrubCorrLim.at pwrBase) s < cnt)
  let s := domCorrected 0 n { s with flt := { s.flt with
    sliceCorr := SMap.set dfltCorr s.flt.sliceCorr slice (cnt, hour, done || aboveLim) } }
  if aboveLim && !done then report 0x0002 slice cnt s else s

/-- A waited-on word changed between two states: the deadlock window restarts (R351). -/
def moved (before : State) (s : State) : State :=
  if before.sync.waiters.any (fun w => ¬ sramWord w.spec.addr before = sramWord w.spec.addr s) then
    { s with sync := { s.sync with windowStart := now s } }
  else s

/-- Store bytes; a line written whole loses its poison (R411). -/
def storeSram (a : Nat) (l : List Byte) (s : State) : State :=
  let s' := sramPut a l s
  let s' := if a % 256 = 0 ∧ l.length = 256 then
      { s' with flt := { s'.flt with poisoned := s'.flt.poisoned.filter (fun p => ¬ p = a / 256) } } else s'
  moved s s'

/-- The transfer and its repeat failed. -/
def xferFailed : Xfer → Bool
  | .failed _ => true
  | _ => false

/-- The account that activity counts against: a tenant's, or the overhead account (R382). -/
def accountOf : Option TenantId → Nat
  | some t => t.toNat
  | none => 0xFFFF

/-- The effect of a halyard request that lies in the SRAM. -/
def sramAccessIn (port addr : Nat) (op : SramOp) (ecc : Ecc) (xfer : Xfer) (holds : LineHolds) (step : Option Nat) (s : State) : State :=
  let s := match xfer with
    | .arrived => s
    | .corrected h => domCorrected (if h then 3 else 1) 1 s
    | .repeated h => domCorrected (if h then 3 else 1) 1 (domUncorrected (if h then 3 else 1) 1 s)
    | .failed h => report 0x0003 (if h then 64 + port else port) addr (domUncorrected (if h then 3 else 1) 1 s)
  match op with
  | .read n =>
    let s := match ecc with
      | .clean => s
      | .corrected => correctedWord (sliceOf addr) 1 s
      | .uncorrectable => poisonLine addr holds step s
    if isPoisoned addr s ∨ ecc = .uncorrectable ∨ xferFailed xfer then failIssuer step 4 { s with answer := .none }
    else { s with answer := .bytes (sramTake n addr s) }
  | .write l =>
    match xfer with
    | .failed _ => poisonLine addr holds step s
    | _ => storeSram addr l s

/-- SRAM_ACCESS (R26, R23, R27, R411, R412). -/
def sramAccess (port addr : Nat) (op : SramOp) (ecc : Ecc) (xfer : Xfer) (holds : LineHolds) (ten : Option TenantId)
    (step : Option Nat) (s : State) : State :=
  if Config.sramEnd ≤ addr then
    match op with
    | .read n => addressFault port addr false { s with answer := .bytes (List.replicate n 0) }
    | .write _ => addressFault port addr true s
  else sramAccessIn port addr op ecc xfer holds step (meterAdd (accountOf ten) 5 (sramOpLen op) s)

def execSramAccess (port addr : Nat) (op : SramOp) (ecc : Ecc) (xfer : Xfer) (holds : LineHolds) (ten : Option TenantId)
    (step : Option Nat) (s : State) : Host.Outcome State Fault Refusal :=
  if 56 < port then .fault .noSuchInitiator
  else if sramOpLen op = 0 ∨ 256 < addr % 256 + sramOpLen op then .fault .badLength
  else .next (sramAccess port addr op ecc xfer holds ten step s)

/-! ### BAR2 (R312, R313, R328) -/

/-- `n` bytes from `a` lie wholly in the flag-words-and-queues partition. -/
def inFlagPart (a n : Nat) (s : State) : Bool := decide (partBase 4 s ≤ a) && decide (a + n ≤ partBase 5 s)

/-- The SRAM address of a BAR2 offset. -/
def bar2Addr (off : Nat) (s : State) : Nat := getF (Reg.Cxl.bar2Base.at cxlBase) s * 16384 + off

/-- A BAR2 access is admitted to the halyard. -/
def bar2Ok (off n : Nat) (s : State) : Bool :=
  inFlagPart (bar2Addr off s) n s && decide (off % 64 + n ≤ 64) &&
    (!(isSet (Reg.Cxl.ideReq.at cxlBase) s) || isSet (Reg.Cxl.ideOn.at cxlBase) s)

/-- The host's posted writes wait: 16 writes are held behind a stopped clock (Table 13-4). -/
def hostStalled (s : State) : Bool := decide (16 ≤ ((SMap.get dfltReq s.cfg.reqs 0).queue.filter fun a => a.write).length)

/-- A BAR2 write performed or denied. -/
def bar2WriteNow (off : Nat) (l : List Byte) (s : State) : State :=
  if bar2Ok off l.length s then storeSram (bar2Addr off s) l (meterAdd 0xFFFF 5 l.length s) else addF (Reg.Cxl.bar2DenyCnt.at cxlBase) 1 s

def bar2Write (off : Nat) (l : List Byte) (s : State) : State :=
  if hostStalled s then { s with cfg := { s.cfg with posted := s.cfg.posted ++ [.bar2 off l] } } else bar2WriteNow off l s

def execBar2Write (off : Nat) (l : List Byte) (s : State) : Host.Outcome State Fault Refusal :=
  if l.length = 0 ∨ 64 < l.length then .fault .badLength else .next (bar2Write off l s)

def bar2Read (off n : Nat) (s : State) : State :=
  if bar2Ok off n s then { meterAdd 0xFFFF 5 n s with answer := .bytes (sramTake n (bar2Addr off s) s) }
  else addF (Reg.Cxl.bar2DenyCnt.at cxlBase) 1 { s with answer := .bytes (List.replicate n 0) }

def execBar2Read (off n : Nat) (s : State) : Host.Outcome State Fault Refusal :=
  if n = 0 ∨ 64 < n then .fault .badLength else .next (bar2Read off n s)

/-! ### Flag words and credits (R348, R349) -/

/-- An aligned 64-bit word of the flag-word partition. -/
def isFlagWord (a : Nat) (s : State) : Bool := decide (a % 8 = 0) && inFlagPart a 8 s

/-- An operation outside the partition: not performed, counted, reported, and its step fails with cause 14. -/
def flagFault (port addr : Nat) (step : Option Nat) (s : State) : State :=
  failIssuer step 14 (report 0x0011 port addr (addF (Reg.Flg.addrCnt.at flgBase) 1 s))

/-- Write a flag word in its slice. -/
def flagPut (addr : Nat) (v : Word64) (s : State) : State := moved s (sramPutWord addr v s)

def flagRead (port addr : Nat) (step : Option Nat) (s : State) : State :=
  if isFlagWord addr s then { s with answer := .value (sramWord addr s).toNat } else flagFault port addr step s

def flagSet (port addr : Nat) (v : Word64) (step : Option Nat) (s : State) : State :=
  if isFlagWord addr s then flagPut addr v s else flagFault port addr step s

def flagAdd (port addr : Nat) (v : Word64) (step : Option Nat) (s : State) : State :=
  if isFlagWord addr s then flagPut addr (sramWord addr s + v) s else flagFault port addr step s

/-- A credit word: capacity C in bits 63:32 and the available count A in bits 31:0. -/
def creditCap (w : Word64) : Nat := w.toNat / 2 ^ 32
def creditAvail (w : Word64) : Nat := w.toNat % 2 ^ 32
def creditWord (c a : Nat) : Word64 := BitVec.ofNat 64 (c * 2 ^ 32 + a)

/-- A credit fault: the word is unchanged, the fault is counted, the first one recorded, and the issuing step fails
with cause 14 (R349). -/
def creditFault (port addr : Nat) (isOver : Bool) (step : Option Nat) (s : State) : State :=
  let s := if isOver then addF (Reg.Flg.overCnt.at flgBase) 1 s else addF (Reg.Flg.underCnt.at flgBase) 1 s
  let s := if isSet (Reg.Flg.fltValid.at flgBase) s then s
    else setF (Reg.Flg.fltValid.at flgBase) 1 (setF (Reg.Flg.fltOver.at flgBase) (if isOver then 1 else 0)
      (setF (Reg.Flg.fltPort.at flgBase) port (setF (Reg.Flg.fltAddr.at flgBase) (addr / 8) s)))
  let d := getF (Reg.Flg.fltValid.at flgBase) s * 2 ^ 31 + getF (Reg.Flg.fltOver.at flgBase) s * 2 ^ 30 +
    getF (Reg.Flg.fltPort.at flgBase) s * 2 ^ 24 + getF (Reg.Flg.fltAddr.at flgBase) s
  failIssuer step 14 (emitPart 0x0502 d (report 0x0011 port addr s))

def cpost (port addr n : Nat) (step : Option Nat) (s : State) : State :=
  if isFlagWord addr s then
    let w := sramWord addr s
    if creditAvail w + n ≤ creditCap w then flagPut addr (creditWord (creditCap w) (creditAvail w + n)) s
    else creditFault port addr true step s
  else flagFault port addr step s

def ctake (port addr n : Nat) (step : Option Nat) (s : State) : State :=
  if isFlagWord addr s then
    let w := sramWord addr s
    if n ≤ creditAvail w then flagPut addr (creditWord (creditCap w) (creditAvail w - n)) s
    else creditFault port addr false step s
  else flagFault port addr step s

def execFlagRead (port addr : Nat) (step : Option Nat) (s : State) : Host.Outcome State Fault Refusal :=
  if 56 < port then .fault .noSuchInitiator else .next (flagRead port addr step s)
def execFlagSet (port addr : Nat) (v : Word64) (step : Option Nat) (s : State) : Host.Outcome State Fault Refusal :=
  if 56 < port then .fault .noSuchInitiator else .next (flagSet port addr v step s)
def execFlagAdd (port addr : Nat) (v : Word64) (step : Option Nat) (s : State) : Host.Outcome State Fault Refusal :=
  if 56 < port then .fault .noSuchInitiator else .next (flagAdd port addr v step s)
def execCpost (port addr : Nat) (n : BitVec 32) (step : Option Nat) (s : State) : Host.Outcome State Fault Refusal :=
  if 56 < port then .fault .noSuchInitiator else .next (cpost port addr n.toNat step s)
def execCtake (port addr : Nat) (n : BitVec 32) (step : Option Nat) (s : State) : Host.Outcome State Fault Refusal :=
  if 56 < port then .fault .noSuchInitiator else .next (ctake port addr n.toNat step s)

/-! ### Waits (R350) -/

/-- The condition of a WAIT holds of a word (Table 13-6). -/
def condHolds (c : WaitCond) (t w : Word64) : Bool :=
  match c with
  | .ge => decide (0 ≤ (w - t).toInt)
  | .ge32 => decide (t.toNat ≤ w.toNat % 2 ^ 32)
  | .eq => w = t
  | .ne => ¬ w = t

/-- Distinct lines that a slice's monitor table holds. -/
def monitorLines (slice : Nat) (s : State) : List Nat :=
  (s.sync.waiters.filter fun w => w.monitored && sliceOf w.spec.addr == slice).foldr
    (fun w l => if l.contains (w.spec.addr / 256) then l else (w.spec.addr / 256) :: l) []

/-- Register a WAIT whose condition does not hold: in the slice's monitor table of 64 lines, or polling when it is
full. Its agent was busy until then, so the deadlock window begins anew (R351). -/
def addWaiter (x : WaitSpec) (s : State) : State :=
  let l := monitorLines (sliceOf x.addr) s
  let room := l.contains (x.addr / 256) || decide (l.length < 64)
  let s := if x.monitor && !room then addF (Reg.Flg.monFullCnt.at flgBase) 1 s else s
  { s with sync := { s.sync with waiters := s.sync.waiters ++ [⟨x, x.monitor && room, sramWord x.addr s⟩], windowStart := now s } }

def waitOp (x : WaitSpec) (s : State) : State :=
  if isFlagWord x.addr s then
    if condHolds x.cond x.target (sramWord x.addr s) then s else addWaiter x s
  else flagFault x.port x.addr x.step s

def execWait (x : WaitSpec) (s : State) : Host.Outcome State Fault Refusal :=
  if 56 < x.port then .fault .noSuchInitiator else .next (waitOp x s)

/-- Re-evaluate the waiters that satisfy a test: those whose condition holds complete. -/
def reevaluate (p : Waiter → Bool) (s : State) : State :=
  { s with sync := { s.sync with
      waiters := (s.sync.waiters.filter fun w => !(p w && condHolds w.spec.cond w.spec.target (sramWord w.spec.addr s))).map
        fun w => if p w then { w with seen := sramWord w.spec.addr s } else w } }

/-- WAIT_WAKE: a write to a monitored line wakes every waiter on it. -/
def waitWake (line : Nat) (s : State) : State := reevaluate (fun w => w.monitored && w.spec.addr / 256 == line) s

/-- WAIT_POLL: a polling waiter reads its word. -/
def waitPoll (addr : Nat) (s : State) : State := reevaluate (fun w => !w.monitored && w.spec.addr == addr) s

def execWaitWake (line : Nat) (s : State) : Host.Outcome State Fault Refusal := .next (waitWake line s)
def execWaitPoll (addr : Nat) (s : State) : Host.Outcome State Fault Refusal := .next (waitPoll addr s)

/-! ### Streamer queues (R343 to R346) -/

/-- A queue's entries. -/
def sqOf (q : Nat) (s : State) : List (Word64 × Bool) := (SMap.get dfltQueue s.sync.sqs q).entries

/-- Set a queue's entries. -/
def setSq (q : Nat) (l : List (Word64 × Bool)) (s : State) : State :=
  { s with sync := { s.sync with sqs := SMap.set dfltQueue s.sync.sqs q ⟨l⟩ } }

/-- READY: the settled entries (R343). -/
def sqReady (l : List (Word64 × Bool)) : Nat := (l.filter fun e => e.2).length

/-- Set LVL and signal vector 32 + q (R345). -/
def sqLevelHit (q : Nat) (s : State) : State := signal (32 + q) (setF (Reg.Sq.lvl.at (sqBase q)) 1 s)

/-- Form a packet's entries: bit 63 set in each, bit 62 in the last alone (R343, R344). -/
def packetWords : List Nat → List (Word64 × Bool)
  | [] => []
  | [w] => [(BitVec.ofNat 64 (w % 2 ^ 62 + 2 ^ 63 + 2 ^ 62), false)]
  | w :: l => (BitVec.ofNat 64 (w % 2 ^ 62 + 2 ^ 63), false) :: packetWords l

/-- A producer's packet is written whole or dropped whole; a disabled queue discards it uncounted. -/
def sqWrite (q : Nat) (l : List Nat) (s : State) : State :=
  if ¬ isSet (Reg.Sq.en.at (sqBase q)) s then s
  else if (sqOf q s).length + l.length ≤ 32 then setSq q (sqOf q s ++ packetWords l) s
  else addF (Reg.Sq.lostCnt.at (sqBase q)) 1 (setF (Reg.Sq.lost.at (sqBase q)) 1 s)

def execSqPacketWrite (q : SqIx) (l : List Word64) (s : State) : Host.Outcome State Fault Refusal :=
  if l.length = 0 ∨ 32 < l.length then .fault .badLength else .next (sqWrite q.toNat (l.map BitVec.toNat) s)

/-- The first entry that has not settled settles. -/
def settleFirst : List (Word64 × Bool) → List (Word64 × Bool)
  | [] => []
  | e :: l => if e.2 then e :: settleFirst l else (e.1, true) :: l

/-- SQ_ENTRY_SETTLE. -/
def sqSettle (q : Nat) (s : State) : State :=
  let l := settleFirst (sqOf q s)
  let lvl := getF (Reg.Sq.level.at (sqBase q)) s
  let s' := setSq q l s
  if 0 < lvl ∧ sqReady (sqOf q s) < lvl ∧ lvl ≤ sqReady l then sqLevelHit q s' else s'

def execSqEntrySettle (q : SqIx) (s : State) : Host.Outcome State Fault Refusal := .next (sqSettle q.toNat s)

/-- SQ_DATA_READ of SQ_DATA_LO (R344, R346). -/
def sqDataRead (q : Nat) (s : State) : State :=
  match sqOf q s with
  | (w, true) :: l =>
    let s := setSq q l (setF (Reg.Sq.dataHi.at (sqBase q)) (w.toNat / 2 ^ 32) s)
    { setF (Reg.Sq.inpkt.at (sqBase q)) (if w.toNat.testBit 62 then 0 else 1) s with answer := .value (w.toNat % 2 ^ 32) }
  | _ => { setF (Reg.Sq.dataHi.at (sqBase q)) 0 s with answer := .value 0 }

def execSqDataRead (q : SqIx) (s : State) : Host.Outcome State Fault Refusal := .next (sqDataRead q.toNat s)

/-- SQ_LEVEL_WRITE: 33 to 63 clamp to 32; a level at or below READY sets LVL and signals at once (R345). -/
def sqLevelWrite (q v : Nat) (s : State) : State :=
  let s := if 32 < v then countClamp (sqBase q + 8) s else s
  let lvl := min v 32
  let s := setF (Reg.Sq.level.at (sqBase q)) lvl s
  if 0 < lvl ∧ lvl ≤ sqReady (sqOf q s) then sqLevelHit q s else s

def execSqLevelWrite (q : SqIx) (v : BitVec 6) (s : State) : Host.Outcome State Fault Refusal :=
  .next (sqLevelWrite q.toNat v.toNat s)

/-- The entries after the first whose bit 62 is 1, and how many were passed. -/
def dropPacket : List (Word64 × Bool) → Nat × List (Word64 × Bool)
  | [] => (0, [])
  | e :: l => if e.1.toNat.testBit 62 then (1, l) else ((dropPacket l).1 + 1, (dropPacket l).2)

/-- SQ_DROP (R346). -/
def sqDrop (q : Nat) (s : State) : State :=
  if isSet (Reg.Sq.inpkt.at (sqBase q)) s then
    let d := dropPacket (sqOf q s)
    setF (Reg.Sq.inpkt.at (sqBase q)) 0 (addF (Reg.Sq.dropCnt.at (sqBase q)) d.1 (setSq q d.2 s))
  else s

def execSqDrop (q : SqIx) (s : State) : Host.Outcome State Fault Refusal := .next (sqDrop q.toNat s)

/-- SQ_FLUSH: every entry is removed and counted (Table 13-11). -/
def sqFlush (q : Nat) (s : State) : State := setSq q [] (addF (Reg.Sq.dropCnt.at (sqBase q)) (sqOf q s).length s)

def execSqFlush (q : SqIx) (s : State) : Host.Outcome State Fault Refusal := .next (sqFlush q.toNat s)

/-- SQ_ENABLE_WRITE: clearing EN empties the queue. -/
def sqEnable (q : Nat) (en : Bool) (s : State) : State :=
  let s := setF (Reg.Sq.en.at (sqBase q)) (if en then 1 else 0) s
  if en then s else setSq q [] s

def execSqEnableWrite (q : SqIx) (en : Bool) (s : State) : Host.Outcome State Fault Refusal := .next (sqEnable q.toNat en s)

/-! ### Deadlock detector (R351, R352) -/

/-- Code of an agent kind and of a wait kind (Table 13-16). -/
def agentCode : AgentKind → Nat
  | .quantiser => 1 | .outputPath => 2 | .vectorUnit => 3 | .tile => 4 | .seqCore => 5 | .portSender => 6 | .ringEngine => 7
def waitCode : WaitKind → Nat
  | .wait => 1 | .queueFull => 2 | .queueEmpty => 3 | .credit => 4
def condCode : WaitCond → Nat
  | .ge => 0 | .ge32 => 1 | .eq => 2 | .ne => 3

/-- Snapshot words of a registered WAIT (Table 13-16). -/
def snapWaiter (s : State) (w : Waiter) : List Nat :=
  [agentCode w.spec.agent * 2 ^ 28 + w.spec.agentIx % 4096 * 2 ^ 16 + 1 * 2 ^ 12 + condCode w.spec.cond * 2 + (if w.spec.ext then 1 else 0),
    w.spec.addr, w.spec.target.toNat % 2 ^ 32, (sramWord w.spec.addr s).toNat % 2 ^ 32]

/-- Snapshot words of a wait on a queue or a credit. -/
def snapQueue (w : QueueWait) : List Nat :=
  [agentCode w.agent * 2 ^ 28 + w.agentIx % 4096 * 2 ^ 16 + waitCode w.kind * 2 ^ 12 + (if w.ext then 1 else 0), w.queue, 0, 0]

/-- Sort entries by their first word: kind, then agent index (agent order). -/
def insertSnap (e : List Nat) : List (List Nat) → List (List Nat)
  | [] => [e]
  | f :: l => if e.headD 0 ≤ f.headD 0 then e :: f :: l else f :: insertSnap e l

/-- The window's conditions: no agent busy, an internal wait, no external wait, and no movement for WINDOW. -/
def deadlocked (busy : Bool) (qs : List QueueWait) (s : State) : Bool :=
  isSet (Reg.Dlk.en.at dlkBase) s && !busy && !(isSet (Reg.Dlk.frozen.at dlkBase) s) &&
    (s.sync.waiters.any (fun w => !w.spec.ext) || qs.any (fun w => !w.ext)) &&
    s.sync.waiters.all (fun w => !w.spec.ext) && qs.all (fun w => !w.ext) &&
    decide (s.sync.windowStart + getF (Reg.Dlk.window.at dlkBase) s * 4700 ≤ now s)

/-- DEADLOCK_FAULT: freeze, snapshot, event, and every step in flight fails with cause 5. -/
def deadlockFault (busy : Bool) (qs : List QueueWait) (s : State) : State :=
  if deadlocked busy qs s then
    let snap := ((s.sync.waiters.map (snapWaiter s) ++ qs.map snapQueue).foldr insertSnap []).take 256
    let n := snap.length
    let s := { s with sync := { s.sync with snapshot := snap } }
    let s := setF (Reg.Dlk.frozen.at dlkBase) 1 (setF (Reg.Dlk.waits.at dlkBase) n s)
    let s := setF (Reg.Dlk.last.at dlkBase) (now s) (addF (Reg.Dlk.cnt.at dlkBase) 1 s)
    failAll 5 (emitPart 0x000C n (report 0x0012 n 0 s))
  else s

def execDeadlockFault (busy : Bool) (qs : List QueueWait) (s : State) : Host.Outcome State Fault Refusal :=
  .next (deadlockFault busy qs s)

/-- DEADLOCK_FREEZE_LIFT: once no step of the fault is in flight, the waits of aborted steps are released, the freeze is
lifted and the window restarts. -/
def freezeLift (s : State) : State :=
  if isSet (Reg.Dlk.frozen.at dlkBase) s ∧ s.sched.steps = [] then
    setF (Reg.Dlk.frozen.at dlkBase) 0 { s with sync := { s.sync with
      waiters := s.sync.waiters.filter (fun w => w.spec.step = none), windowStart := now s } }
  else s

def execDeadlockFreezeLift (s : State) : Host.Outcome State Fault Refusal := .next (freezeLift s)

end Sys2Proof.Machine
end

