-- ==== Sys2Proof/Machine/Clocks.lean ====
section
/-! DEFINITION. Clock presence, unplanned clock loss and the resynchronisation of crossings (R339, R341, R419). -/

namespace Sys2Proof.Machine
open Sys2Proof

/-- A bit of GLB_CLKPRESENT as a field of one bit (Table 13-8). -/
def clkBit (b : Nat) : Field := ⟨0x048, b, 1⟩

/-- Whether the clock of a bit of GLB_CLKPRESENT is present. -/
def clockPresent (b : Nat) (s : State) : Bool :=
  if b < 8 then (getF Reg.Glb.clkAclk s).testBit b
  else if b = 8 then isSet Reg.Glb.clkHclk s
  else if b = 9 then isSet Reg.Glb.clkCxl s
  else if b = 10 then isSet Reg.Glb.clkMtclk s
  else (getF Reg.Glb.clkPort s).testBit (b - 11)

/-- A number with one of its bits set or cleared. -/
def withBit (v b : Nat) (on : Bool) : Nat :=
  if on then (if v.testBit b then v else v + 2 ^ b) else (if v.testBit b then v - 2 ^ b else v)

/-- Set or clear a bit of GLB_CLKPRESENT. -/
def setClock (b : Nat) (on : Bool) (s : State) : State :=
  if b < 8 then setF Reg.Glb.clkAclk (withBit (getF Reg.Glb.clkAclk s) b on) s
  else if b = 8 then setF Reg.Glb.clkHclk (if on then 1 else 0) s
  else if b = 9 then setF Reg.Glb.clkCxl (if on then 1 else 0) s
  else if b = 10 then setF Reg.Glb.clkMtclk (if on then 1 else 0) s
  else setF Reg.Glb.clkPort (withBit (getF Reg.Glb.clkPort s) (b - 11) on) s

/-- A port leaves UP and trains again with its replay buffer kept (Table 11-6). -/
def leaveUp (n : Nat) (s : State) : State :=
  let fresh := fun (f : TxFlit) => { f with resent := 0 }
  let restart := fun (p : PortState) =>
    { p with attempts := 0, attemptAt := now s, resend := [], nakSince := none, replay := p.replay.map fresh }
  let s := { s with lnk := { s.lnk with ports := SMap.upd dfltPort s.lnk.ports n restart } }
  lifeAdd (0x408 + 16 * n) 4 1
    (setF (Reg.Port.state.at (portBase n)) 1 (setF (Reg.Port.locked.at (portBase n)) 0 (addF (Reg.Port.trainCnt.at (portBase n)) 1 s)))

/-- The CXL link leaves its active state (R310): LINKLOSS, the count, one report per loss, the event and vector 0; DMA
and UIO requests in flight end as failed. -/
def linkLost (s : State) : State :=
  if getF (Reg.Cxl.link.at cxlBase) s = 2 then
    let s := setF (Reg.Cxl.link.at cxlBase) 0 (setF (Reg.Cxl.linkLoss.at cxlBase) 1 (addF (Reg.Cxl.linkDownCnt.at cxlBase) 1 s))
    let s := setF (Reg.Cxl.ideOn.at cxlBase) 0 s
    signal 0 (emitPart 0x0403 0 (report Config.linkLossCode 0 0 s))
  else s

/-- A hoist is unpowered, or its VCORE gate is ordered to close. -/
def hoistOff (h : Nat) (s : State) : Bool :=
  !(s.pwr.core.contains h) || s.pwr.ramping.any fun x => x.1 == h && !x.2.1 && !x.2.2

/-- The stop of a clock was ordered: the region's hoists unpowered, a port not beyond LIGHT (R341). -/
def plannedStop (b : Nat) (s : State) : Bool :=
  if b < 8 then (List.range 4).all fun i => hoistOff (4 * b + i) s
  else if b < 11 then false
  else
    let st := getF (Reg.Port.state.at (portBase (b - 11))) s
    st = 0 || st = 1 || st = 8

/-- CLOCK_PRESENCE_WINDOW: at the end of a window of 256 MCLK, a cleared bit sets at 4 edges or more. -/
def clockWindow (b edges : Nat) (s : State) : State :=
  if ¬ clockPresent b s ∧ 4 ≤ edges then setClock b true s else s

def execClockPresenceWindow (b edges : Nat) (s : State) : Host.Outcome State Fault Refusal :=
  if 30 < b then .fault .noSuchClock else .next (clockWindow b edges s)

/-- A crossing. -/
def crossingOf (b : Nat) (s : State) : Crossing := SMap.get dfltCrossing s.cfg.crossings b

def setCrossing (b : Nat) (c : Crossing) (s : State) : State :=
  { s with cfg := { s.cfg with crossings := SMap.set dfltCrossing s.cfg.crossings b c } }

/-- CROSSING_RESET: a side's reset puts that side into HELD; the entries in the queue are discarded and counted. A side
that is not reset sees the request and stays in RUN (Table 13-3). -/
def crossingReset (b : Nat) (far : Bool) (s : State) : State :=
  let c := crossingOf b s
  let c' : Crossing := if far then ⟨c.near, .held, 0⟩ else ⟨.held, c.far, 0⟩
  setCrossing b c' (addF Reg.Glb.xrstDropCnt c.entries s)

def execCrossingReset (b : Nat) (far : Bool) (s : State) : Host.Outcome State Fault Refusal :=
  if 30 < b then .fault .noSuchClock else .next (crossingReset b far s)

/-- CROSSING_RESYNC: with both clocks running the handshake completes and both sides are in RUN, the queue empty; a
side whose partner's clock is absent stays in HELD, and so does the crossing into a region that is lost (R419). -/
def crossingResync (b : Nat) (s : State) : State := if clockPresent b s ∧ b ∉ s.cfg.lostRegions then setCrossing b ⟨.run, .run, 0⟩ s else s

def execCrossingResync (b : Nat) (s : State) : Host.Outcome State Fault Refusal :=
  if 30 < b then .fault .noSuchClock else .next (crossingResync b s)

end Sys2Proof.Machine
end

