-- ==== Sys2Proof/Machine/HostLink.lean ====
section
/-! DEFINITION. The CXL host interface: rings, doorbells, step records on ring 9, the command ring's commands, the link,
UIO and IDE (chapter 12; R200, R258, R404). -/

namespace Sys2Proof.Machine
open Sys2Proof

/-! ### Step records on ring 9 (R194, R310, R318) -/

/-- A pad block (R318). -/
def padBlock : List Byte := List.replicate 8 255 ++ List.replicate 56 0

/-- Write `n` pad blocks at ring 9's TAIL. -/
def writePads : Nat → State → State
  | 0, s => s
  | n + 1, s =>
    let t := getF (Reg.Ring.tail.at (ringBase 9)) s
    writePads n (addF (Reg.Ring.tail.at (ringBase 9)) 64
      (hostPut (getF (Reg.Ring.base.at (ringBase 9)) s + t % ringSize 9 s) padBlock s))

/-- Pad blocks needed before a record of `len` bytes. -/
def padsFor (len : Nat) (s : State) : Nat :=
  let room := ringSize 9 s - getF (Reg.Ring.tail.at (ringBase 9)) s % ringSize 9 s
  if room < len then room / 64 else 0

/-- Write one record to ring 9: pads, bytes, writeback, signal. -/
def writeRecord (l : List Byte) (s : State) : State :=
  let s := writePads (padsFor l.length s) s
  let t := getF (Reg.Ring.tail.at (ringBase 9)) s
  ringAdvance 9 l.length (hostPut (getF (Reg.Ring.base.at (ringBase 9)) s + t % ringSize 9 s) l s)

/-- Write the held records in order while ring 9 operates and has space. -/
def writeHeld : List (Nat × List Byte) → State → State
  | [], s => { s with host := { s.host with held := [] } }
  | r :: l, s =>
    if ringOn 9 s ∧ (r.2.length + 64 * padsFor r.2.length s) ≤ ringFree 9 s then writeHeld l (writeRecord r.2 s)
    else { s with host := { s.host with held := r :: l } }

/-- Emit a committed step's record: written now, or held behind earlier ones (R310, R320). -/
def recordOut (n : Nat) (l : List Byte) (s : State) : State :=
  writeHeld (s.host.held ++ [(n, l)]) s

/-! ### Doorbells and enables -/

/-- A consumer ring: 0 to 8 (Table 12-2). -/
def isConsumer (n : Nat) : Bool := decide (n ≤ 8)

/-- Difference of two free-running counts, modulo 2^32. -/
def cntDiff (a b : Nat) : Nat := (a + 2 ^ 32 - b % 2 ^ 32) % 2 ^ 32

/-- The host reaches a BAR0 offset outside the management window (R311, R328). -/
def hostReach (s : State) : Bool :=
  s.cfg.imageEver && (!(isSet (Reg.Cxl.ideReq.at cxlBase) s) || isSet (Reg.Cxl.ideOn.at cxlBase) s)

/-- Apply a DOORBELL value (R315). -/
def doorbellNow (n v : Nat) (s : State) : State :=
  let h := getF (Reg.Ring.head.at (ringBase n)) s
  let t := getF (Reg.Ring.tail.at (ringBase n)) s
  if isConsumer n then
    if v = t then s
    else if 0 < cntDiff v t ∧ cntDiff v h ≤ ringSize n s then setF (Reg.Ring.tail.at (ringBase n)) v s
    else countClamp (0x61000 + 0x1000 * n) s
  else
    if v = h then s
    else if 0 < cntDiff v h ∧ cntDiff v h ≤ cntDiff t h then
      let s := setF (Reg.Ring.head.at (ringBase n)) v s
      if n = 10 then drainQueue s else writeHeld s.host.held s
    else countClamp (0x61000 + 0x1000 * n) s

/-- RING_DOORBELL. -/
def ringDoorbell (n v : Nat) (s : State) : State :=
  if ¬ hostReach s then s
  else if hostStalled s then { s with cfg := { s.cfg with posted := s.cfg.posted ++ [.bell n v] } }
  else doorbellNow n v s

def execRingDoorbell (n : Nat) (v : BitVec 32) (s : State) : Host.Outcome State Fault Refusal :=
  if 10 < n then .fault .noSuchRing else .next (ringDoorbell n v.toNat s)

/-- RING_ENABLE_WRITE (R320). -/
def ringEnable (n : Nat) (en : Bool) (s : State) : State :=
  let s := setF (Reg.Ring.en.at (ringBase n)) (if en then 1 else 0) s
  if en ∧ n = 10 then drainQueue s else if en ∧ n = 9 then writeHeld s.host.held s else s

def execRingEnableWrite (n : Nat) (en : Bool) (s : State) : Host.Outcome State Fault Refusal :=
  if 10 < n then .fault .noSuchRing else .next (ringEnable n en s)

/-- EVENT_QUEUE_DRAIN (R319). -/
def execEventQueueDrain (s : State) : Host.Outcome State Fault Refusal := .next (drainQueue s)

/-- COALESCING_TIMEOUT: entries pending for COAL_TIME µs signal the ring (R325). -/
def coalesce (n : Nat) (s : State) : State :=
  let p := SMap.get dfltPair s.host.unsignalled n
  if 0 < p.1 ∧ p.2 + ticksUs (getF (Reg.Ring.coalTime.at (ringBase n)) s) ≤ now s then
    signal (getF (Reg.Ring.vec.at (ringBase n)) s)
      { s with host := { s.host with unsignalled := SMap.set dfltPair s.host.unsignalled n (0, 0) } }
  else s

def execCoalescingTimeout (n : Nat) (s : State) : Host.Outcome State Fault Refusal :=
  if 10 < n then .fault .noSuchRing else .next (coalesce n s)

/-- Advance a consumer ring's HEAD past one entry: the writeback word, and the vector where IE is 1 and the ring is
then empty (R314, R325). -/
def consume (n : Nat) (s : State) : State :=
  let s := addF (Reg.Ring.head.at (ringBase n)) 1 s
  let s := hostPut (getF (Reg.Ring.wb.at (ringBase n)) s) (leBytes 4 (getF (Reg.Ring.head.at (ringBase n)) s)) s
  if isSet (Reg.Ring.ie.at (ringBase n)) s ∧ ringUsed n s = 0 then signal (getF (Reg.Ring.vec.at (ringBase n)) s) s else s

/-! ### The command ring (R319, R321 to R323) -/

/-- The part may read the next command entry: ring 8 operates and holds one, fewer than 960 events wait and fewer than
32 commands are open (R319), and no FENCE or STAGE_COPY holds the ring (R321). -/
def canCommand (s : State) : Bool :=
  ringOn 8 s && decide (0 < ringUsed 8 s) && decide (s.host.events.length < 960) && decide (s.host.openCmds.length < 32) &&
    s.host.openCmds.all (fun c => c.1 = 3 || c.1 = 4)

/-- The command's TEN and SEQ in its CMD_DONE. -/
def cmdDone (h : CmdHead) (status : Nat) (s : State) : State :=
  if h.quiet ∧ status = 0 then s
  else emit 0x0401 h.ten.toNat h.seq.toNat (lastStep s) (h.tag.toNat * 65536 + status) s

/-- Read the next command entry and run it, where the part may. `f` answers the status with the state, or no status
where the command stays open. -/
def runCommand (op : Nat) (h : CmdHead) (f : State → Option Nat × State) (s : State) : State :=
  if canCommand s then
    let s := addF (Reg.Cxl.cmdCnt.at cxlBase) 1 (consume 8 s)
    match f s with
    | (some st, s') => cmdDone h st s'
    | (none, s') => { s' with host := { s'.host with openCmds := s'.host.openCmds ++ [(op, h)] } }
  else s

/-- Complete an open FENCE when no earlier command is open. -/
def fenceCheck (s : State) : State :=
  match s.host.openCmds with
  | (9, h) :: l => cmdDone h 0 { s with host := { s.host with openCmds := l } }
  | _ => s

/-- Complete the open commands that satisfy a test. -/
def completeCmds (p : Nat × CmdHead → Bool) (status : Nat) (s : State) : State :=
  let l := s.host.openCmds.filter p
  fenceCheck (l.foldl (fun s c => cmdDone c.2 status s)
    { s with host := { s.host with openCmds := s.host.openCmds.filter (fun c => !p c) } })

/-- Adapter versions of a tenant that live sequences hold. -/
def liveVersions (t : Nat) (s : State) : List Nat :=
  s.sched.seqs.foldr (fun e l => match e.2.adapter with
    | some v => if e.2.ten = t ∧ e.2.state ≠ .free ∧ v ∉ l then v :: l else l
    | none => l) []

/-- The adapter versions and staging ranges that a tenant's entry knows: the one in force, then the earlier ones. -/
def adapterRanges (x : Tenant) : List (Nat × Nat × Nat) := x.adapter.toList ++ x.older

/-- The earlier versions that live sequences still hold once version `v` is in force (R258). -/
def keptVersions (t : Nat) (v : Option Nat) (s : State) : List (Nat × Nat × Nat) :=
  (adapterRanges (tenantOf t s)).filter fun x => x.1 ∈ liveVersions t s ∧ ¬ v = some x.1

/-- Store a tenant-table entry. -/
def setTenant (t : Nat) (x : Tenant) (s : State) : State :=
  { s with sched := { s.sched with tenants := SMap.set dfltTenant s.sched.tenants t x } }

/-- One clamp of a command field where a test holds. -/
def clampIf (b : Bool) (s : State) : State := if b then countClamp 0 s else s

/-- TENANT_SET (Table 12-4, R258). -/
def tenantSet (h : CmdHead) (a : TenantArgs) (s : State) : State :=
  runCommand 1 h (fun s =>
    let v := if a.present then some a.version.toNat else none
    if ¬ isHead s then (some 7, s)
    else if s.sched.tenantCount ≤ h.ten.toNat then (some 3, s)
    else if a.present ∧ a.version.toNat ∉ liveVersions h.ten.toNat s ∧ 2 ≤ (liveVersions h.ten.toNat s).length then (some 5, s)
    else
      let s := clampIf (decide (7 < a.cls.toNat)) s
      let s := clampIf (decide (a.weight.toNat = 0)) s
      let s := clampIf (decide (32768 < a.maxSeq.toNat)) s
      let s := clampIf (decide (32768 < a.quota.toNat)) s
      (some 0, setTenant h.ten.toNat
        ⟨a.valid, min a.cls.toNat 7, max a.weight.toNat 1, min a.maxSeq.toNat 32768, min a.quota.toNat 32768, a.accept,
          (a.stop.map BitVec.toNat).filter (fun w => w ≠ 0xFFFFFFFF),
          v.map (fun x => (x, a.staging.toNat * 64, a.length.toNat)), keptVersions h.ten.toNat v s⟩ s)) s

def execTenantSet (h : CmdHead) (a : TenantArgs) (s : State) : Host.Outcome State Fault Refusal := .next (tenantSet h a s)

/-- CLASS_SET (Table 12-4). -/
def classSet (h : CmdHead) (cls prio : BitVec 8) (target : BitVec 32) (s : State) : State :=
  runCommand 2 h (fun s =>
    if ¬ isHead s then (some 7, s)
    else if 7 < cls.toNat then (some 3, s)
    else
      let s := clampIf (decide (7 < prio.toNat)) s
      (some 0, { s with sched := { s.sched with
        classes := SMap.set dfltClass s.sched.classes cls.toNat ⟨min prio.toNat 7, target.toNat⟩ } })) s

def execClassSet (h : CmdHead) (cls prio : BitVec 8) (target : BitVec 32) (s : State) : Host.Outcome State Fault Refusal :=
  .next (classSet h cls prio target s)

/-- RELEASE: at the next step boundary, or when the sequence's step resolves (Table 7-2). A pause waiting for the
sequence is cancelled and completes with status 1. -/
def release (h : CmdHead) (s : State) : State :=
  runCommand 3 h (fun s =>
    let q := h.seq.toNat
    let r := seqOf q s
    if ¬ isHead s then (some 7, s)
    else if r.state = .free then (some 1, s)
    else if r.ten ≠ h.ten.toNat then (some 2, s)
    else
      let s := if r.pausing.isSome then completeCmds (fun c => c.1 = 4 && c.2.seq.toNat = q) 1 s else s
      (none, setSeq q { seqOf q s with releasing := true, pausing := none } s)) s

def execRelease (h : CmdHead) (s : State) : Host.Outcome State Fault Refusal := .next (release h s)

/-- A TTL in seconds as R218 uses it: 0 is KVC_TTL, the rest is limited to 1 to 86,400. -/
def ttlOf (ttl : Nat) (s : State) : Nat := if ttl = 0 then getF (Reg.Kvc.ttl.at kvcBase) s else min ttl 86400

/-- Pause a WAITING sequence (R218): PAUSED, SEQ_PAUSED, and on every part its open blocks are sealed and all its blocks
chosen for demotion to the CXL tier. -/
def pauseSeq (q cause ttl : Nat) (s : State) : State :=
  let r := seqOf q s
  let s := setSeq q { r with state := .paused, pausing := none, expiry := now s + ticksS ttl } s
  let s := emit 0x0009 r.ten (seqNo q) (lastStep s) cause s
  let s := sendAll 0x16 (lastStep s) 1 (.event ⟨0x0009, myPos s, r.ten, seqNo q, now s, lastStep s, cause⟩) s
  mapBlocks (fun b => if b.seq = q then { b with demote := true, promote := false } else b) (sealSeq q s)

/-- PAUSE (Table 12-4, R218): status 1 where a RELEASE came before it (Table 12-6); else at once on a WAITING sequence, held until then on one in PREFILL or GENERATE; refused
with status 8 for a tenant without a secret (R403). -/
def pause (h : CmdHead) (ttl : BitVec 32) (s : State) : State :=
  runCommand 4 h (fun s =>
    let q := h.seq.toNat
    let r := seqOf q s
    if ¬ isHead s then (some 7, s)
    else if r.state = .free ∨ r.state = .paused then (some 1, s)
    else if r.ten ≠ h.ten.toNat then (some 2, s)
    else if r.releasing then (some 1, s)
    else if ¬ hasSecret r.ten s then (some 8, s)
    else
      let s := clampIf (decide (86400 < ttl.toNat)) s
      let t := ttlOf ttl.toNat s
      if r.state = .waiting ∧ r.inStep = none then (some 0, pauseSeq q 1 t s)
      else (none, setSeq q { seqOf q s with pausing := some t } s)) s

def execPause (h : CmdHead) (ttl : BitVec 32) (s : State) : Host.Outcome State Fault Refusal := .next (pause h ttl s)

/-- RESUME (R219): before expiry a PAUSED sequence returns to WAITING and its blocks are promoted; otherwise the command
is refused with PROMPT_REFUSED, DETAIL 8. -/
def resume (h : CmdHead) (s : State) : State :=
  runCommand 5 h (fun s =>
    let q := h.seq.toNat
    let r := seqOf q s
    if ¬ isHead s then (some 7, s)
    else if r.state ≠ .free ∧ r.ten ≠ h.ten.toNat then (some 2, s)
    else if r.state = .paused ∧ now s < r.expiry then
      let s := setSeq q { r with state := .waiting, waitSince := now s } s
      let s := emit 0x000A r.ten q (lastStep s) 0 s
      let s := sendAll 0x16 (lastStep s) 1 (.event ⟨0x000A, myPos s, r.ten, q, now s, lastStep s, 0⟩) s
      (some 0, mapBlocks (fun b => if b.seq = q then { b with demote := false, promote := true } else b) s)
    else (some 1, emit 0x0003 h.ten.toNat q (lastStep s) 8 s)) s

def execResume (h : CmdHead) (s : State) : Host.Outcome State Fault Refusal := .next (resume h s)

/-- The staging range of a live adapter version of any tenant overlaps `lo` to `lo + len − 1`. -/
def overlapsLive (lo len : Nat) (s : State) : Bool :=
  s.sched.tenants.any fun e => (adapterRanges e.2).any fun x =>
    (liveVersions e.1 s).contains x.1 && decide (lo < x.2.1 + x.2.2) && decide (x.2.1 < lo + len)

/-- STAGE_COPY starts reading an adapter container (R404, Table 12-4); `readable` says whether the source can be read. -/
def stageCopy (h : CmdHead) (off len : BitVec 32) (readable : Bool) (s : State) : State :=
  runCommand 7 h (fun s =>
    let lo := off.toNat * 64
    if partSize 2 s < lo + len.toNat then (some 3, s)
    else if overlapsLive lo len.toNat s then (some 4, s)
    else if ¬ readable then (some 6, s)
    else (none, { s with host := { s.host with staging := some (h, lo, len.toNat) } })) s

def execStageCopy (h : CmdHead) (off len : BitVec 32) (readable : Bool) (s : State) : Host.Outcome State Fault Refusal :=
  .next (stageCopy h off len readable s)

/-- A staging range written whole is valid again (Table 17-2). -/
def clearBadStage (lo len : Nat) (s : State) : State :=
  { s with flt := { s.flt with
      badStage := s.flt.badStage.filter (fun l => ¬ (lo / 256 ≤ l ∧ l ≤ (lo + len) / 256))
      poisoned := s.flt.poisoned.filter (fun l => ¬ (lo / 256 ≤ l ∧ (l + 1) * 256 ≤ lo + len)) } }

/-- STAGE_COPY_DONE (R404): the container's tag, tenant and version agree and the plaintext is in staging, or the range
is zeroed and the command completes with status 10. -/
def stageCopyDone (tagOk : Bool) (ten : TenantId) (version : BitVec 16) (plain : List Byte) (s : State) : State :=
  match s.host.staging with
  | none => s
  | some (h, lo, len) =>
    let s := { s with host := { s.host with staging := none } }
    let a := partBase 2 s + lo
    let key := s.sec.secrets.any (fun x => x.1 = h.ten.toNat)
    let want := (tenantOf h.ten.toNat s).adapter.map (fun x => x.1)
    let ok := tagOk && key && ten = h.ten && want == some version.toNat
    let s := if ok then sramPut a (plain.take len) s else sramPut a (List.replicate len 0) s
    completeCmds (fun c => c.1 = 7) (if ok then 0 else 10) (clearBadStage a len s)

def execStageCopyDone (tagOk : Bool) (ten : TenantId) (version : BitVec 16) (plain : List Byte) (s : State) :
    Host.Outcome State Fault Refusal := .next (stageCopyDone tagOk ten version plain s)

/-- FENCE (Table 12-4). -/
def fence (h : CmdHead) (s : State) : State :=
  runCommand 9 h (fun s => if s.host.openCmds = [] then (some 0, s) else (none, s)) s

def execFence (h : CmdHead) (s : State) : Host.Outcome State Fault Refusal := .next (fence h s)

/-- UNDEFINED_COMMAND: status 9 (R323). An OP that Table 12-4 defines is not one. -/
def undefinedCommand (op : Nat) (h : CmdHead) (s : State) : State :=
  if 1 ≤ op ∧ op ≤ 9 then s else runCommand op h (fun s => (some 9, s)) s

def execUndefinedCommand (op : BitVec 8) (h : CmdHead) (s : State) : Host.Outcome State Fault Refusal :=
  .next (undefinedCommand op.toNat h s)

/-! ### Link, IDE and UIO (R310, R327, R328) -/

/-- The link can carry traffic again: held records first, then events. -/
def linkBack (s : State) : State := if linkReady s then drainQueue (writeHeld s.host.held s) else s

def execCxlLinkLoss (s : State) : Host.Outcome State Fault Refusal := .next (linkLost s)

/-- CXL_LINK_RETURN: the link is active again at the trained width and rate. -/
def linkReturn (width : Nat) (fast : Bool) (s : State) : State :=
  if getF (Reg.Cxl.link.at cxlBase) s = 2 then s
  else
    let s := setF (Reg.Cxl.width.at cxlBase) width (setF (Reg.Cxl.rate.at cxlBase) (if fast then 1 else 0) s)
    let s := linkBack (setF (Reg.Cxl.link.at cxlBase) 2 s)
    signal 0 (emitPart 0x0403 1 s)

def execCxlLinkReturn (width : Nat) (fast : Bool) (s : State) : Host.Outcome State Fault Refusal :=
  if width = 4 ∨ width = 8 ∨ width = 16 then .next (linkReturn width fast s) else .fault .badLength

/-- IDE_INTEGRITY_FAILURE: the link stops, IDE_FAIL sets, fault 0x0013 with source 1 (R328). -/
def ideFailure (s : State) : State := linkLost (report 0x0013 1 0 (setF (Reg.Cxl.ideFail.at cxlBase) 1 s))

def execIdeIntegrityFailure (s : State) : Host.Outcome State Fault Refusal := .next (ideFailure s)

/-- IDE_KEY_MANAGEMENT: the link IDE streams are established on an active link. -/
def ideKeys (s : State) : State :=
  if getF (Reg.Cxl.link.at cxlBase) s = 2 then linkBack (setF (Reg.Cxl.ideOn.at cxlBase) 1 s) else s

def execIdeKeyManagement (s : State) : Host.Outcome State Fault Refusal := .next (ideKeys s)

/-- A UIO request in flight, with the attempts made. -/
def uioAttempts (u : UioUse) (s : State) : Option Nat := (s.host.uio.find? (fun x => x.1 = u)).map (fun x => x.2)

def setUio (u : UioUse) (n : Option Nat) (s : State) : State :=
  let l := s.host.uio.filter (fun x => ¬ x.1 = u)
  { s with host := { s.host with uio := match n with | some k => l ++ [(u, k)] | none => l } }

/-- TIER_UNREACHABLE, once per second while failures continue (R327). -/
def tierUnreachable (lslot : Nat) (s : State) : State :=
  match s.host.unreachAt with
  | some t => if now s < t + ticksS 1 then s else emitPart 0x0404 lslot { s with host := { s.host with unreachAt := some (now s) } }
  | none => emitPart 0x0404 lslot { s with host := { s.host with unreachAt := some (now s) } }

/-- A move that fails (Table 8-5): the source stays, the destination is freed, KVC_MOVEFAILCNT counts. -/
def moveFail (lslot seq blk : Nat) (s : State) : State :=
  if s.kv.dir.any (fun b => b.lslot = lslot && b.seq = seq && b.blk = blk && b.state = .moving) then
    addF (Reg.Kvc.moveFailCnt.at kvcBase) 1 (mapBlocks (fun b =>
      if b.lslot = lslot ∧ b.seq = seq ∧ b.blk = blk ∧ b.state = .moving then { b with state := b.src, copied := false, demote := false, promote := false }
      else b) s)
  else s

/-- Steps in flight that name a block. -/
def stepsNaming (lslot seq blk : Nat) (s : State) : List Nat :=
  (s.sched.steps.filter fun r => r.plan.entries.any fun e => e.seq.toNat = seq ∧ (lslot, blk) ∈ e.blocks).map fun r => r.plan.step

/-- A move abandoned over the CXL path gives its grant back (R327, Table 8-5). -/
def moveUnreachable (l q b : Nat) (s : State) : State :=
  match blockOf l q b s with
  | some x => if x.state = .moving then releaseAct (.move l q b x.dest) (moveFail l q b s) else s
  | none => s

/-- A mirror record of a tenant and step that its write has not left standing. -/
def isRecord (t n : Nat) (e : MirrorEntry) : Bool := e.item.ten.toNat == t && e.step == n && e.nonce.isSome && !e.whole

/-- The layer slot of the first entry of a mirror record. -/
def mirrorSlot (t n : Nat) (s : State) : Nat := ((s.lnk.mirror.find? (isRecord t n)).map fun e => e.item.lslot.toNat).getD 0

/-- A mirror write is abandoned: its entries stay in the mirror buffer without a record (R327, Table 8-5). -/
def mirrorUnwritten (t n : Nat) (s : State) : State :=
  { s with lnk := { s.lnk with mirror := s.lnk.mirror.map fun e => if isRecord t n e then { e with nonce := none } else e } }

/-- The second attempt of a UIO request failed (R327). -/
def uioFailed (u : UioUse) (s : State) : State :=
  let s := report 0x0013 0 0 s
  match u with
  | .fetch n l q b =>
    let s := tierUnreachable l { s with kv := { s.kv with fetching := s.kv.fetching.filter (fun x => ¬ x = (n, l, q, b)) } }
    (stepsNaming l q b s).foldl (fun s n => failHere n 13 s) s
  | .move l q b => moveUnreachable l q b (tierUnreachable l s)
  | .mirror t n => mirrorUnwritten t n (tierUnreachable (mirrorSlot t n s) s)

/-- A failed attempt: issued once more, and the second failure acts. -/
def uioRetry (u : UioUse) (s : State) : State :=
  match uioAttempts u s with
  | some 0 => setUio u (some 1) s
  | some _ => uioFailed u (setUio u none s)
  | none => s

/-- UIO_COMPLETION: well, or with an error. -/
def uioCompletion (u : UioUse) (ok : Bool) (s : State) : State :=
  if (uioAttempts u s).isNone then s
  else if ok then setUio u none s
  else uioRetry u (addF (Reg.Cxl.uioErrCnt.at cxlBase) 1 s)

/-- UIO_TIMEOUT: no completion within CXL_UIOCFG.TIMEOUT. -/
def uioTimeout (u : UioUse) (s : State) : State :=
  if (uioAttempts u s).isNone then s else uioRetry u (addF (Reg.Cxl.uioTmoCnt.at cxlBase) 1 s)

def execUioCompletion (u : UioUse) (ok : Bool) (s : State) : Host.Outcome State Fault Refusal := .next (uioCompletion u ok s)
def execUioTimeout (u : UioUse) (s : State) : Host.Outcome State Fault Refusal := .next (uioTimeout u s)

end Sys2Proof.Machine
end

