-- ==== Sys2Proof/Machine/Sched.lean ====
section
/-! DEFINITION. Step scheduling on the head part and plan execution on every part: prompt entries, composition, plans,
commit and failure, acceptance, headroom messages and the depth controller (chapters 07 and 08). -/

namespace Sys2Proof.Machine
open Sys2Proof

/-! ### Prompt entries (R179) -/

/-- FP16 magnitude bits of a value above 1.0 or a NaN. -/
def toppHigh (b : Nat) : Bool := b < 0x8000 && decide (0x3C00 < b) || b ≥ 0x8000 && decide (0xFC00 < b)

/-- TEMP after its clamp (Table 7-3): a negative value or a NaN becomes 0. -/
def clampTemp (b : BitVec 16) : BitVec 16 :=
  if (0x8000 < b.toNat) ∨ (0x7C00 < b.toNat ∧ b.toNat < 0x8000) then 0 else b

/-- TOPP after its clamp: above 1.0 or NaN becomes 1.0, 0 or below becomes 2^−24. -/
def clampTopp (b : BitVec 16) : BitVec 16 :=
  if toppHigh b.toNat then 0x3C00 else if b.toNat = 0 ∨ 0x8000 ≤ b.toNat then 0x0001 else b

/-- A clamped prompt field: counted, and a CLAMPED event with its byte offset. -/
def clampPrompt (changed : Bool) (off : Nat) (h : PromptHeader) (s : State) : State :=
  if changed then emit 0x000B h.ten.toNat h.seq.toNat (lastStep s) off (countClamp 0 s) else s

/-- The rule of R179 that refuses an entry, in the order of its checks; none where the header is accepted. -/
def promptRule (h : PromptHeader) (s : State) : Option Nat :=
  let r := seqOf h.seq.toNat s
  let t := tenantOf h.ten.toNat s
  let isNew := h.op = 0
  if h.op ≠ 0 ∧ h.op ≠ 1 then some 10
  else if ¬ t.valid then some 1
  else if isNew ∧ r.state ≠ .free then some 2
  else if ¬ isNew ∧ r.state ≠ .free ∧ r.ten ≠ h.ten.toNat then some 11
  else if ¬ isNew ∧ r.state ≠ .waiting then some 3
  else if isNew ∧ t.maxSeq < liveCount h.ten.toNat s + 1 then some 4
  else if h.ntok = 0 then some 5
  else if Config.maxPositions < (if isNew then 0 else r.len) + h.ntok.toNat then some 6
  else if isNew ∧ getF (Reg.Wgt.epoch.at wgtBase) s = 0 then some 9
  else none

/-- The prompt's sampling fields after their clamps. -/
def promptSampling (h : PromptHeader) : Sampling :=
  ⟨clampTemp h.temp, clampTopp h.topp, min h.topk.toNat 4096, h.flags.toNat.testBit 0⟩

/-- The sequence record that an accepted entry leaves (Table 7-2, R229). -/
def acceptRec (h : PromptHeader) (tokens : List Nat) (s : State) : SeqRec :=
  let old := seqOf h.seq.toNat s
  let r : SeqRec :=
    if h.op = 0 then
      { dfltSeq 0 with
        ten := h.ten.toNat, epoch := getF (Reg.Wgt.epoch.at wgtBase) s
        adapter := (tenantOf h.ten.toNat s).adapter.map (fun a => a.1)
        rate := BitVec.ofNat 16 (encodeFrac fp16 (getF (Reg.Sch.spcR0.at schBase) s) 256 0), lastCommit := now s }
    else old
  { r with state := .prefill, undo := some old.state, prompt := tokens.take h.ntok.toNat, promptIx := 0
           samp := promptSampling h, kmax := min h.kmax.toNat 8, maxNew := h.maxnew.toNat, newCount := 0
           order := s.sched.orderNext }

/-- PROMPT_ENTRY: the head part reads a header from a prompt ring and accepts or refuses it. -/
def promptEntry (ring : Nat) (h : PromptHeader) (tokens : List Nat) (s : State) : State :=
  if isHead s ∧ ringOn ring s ∧ 0 < ringUsed ring s then
    let s := consume ring s
    match promptRule h s with
    | some d => emit 0x0003 h.ten.toNat h.seq.toNat (lastStep s) d s
    | none =>
      let r := acceptRec h tokens s
      let s := setSeq h.seq.toNat r { s with sched := { s.sched with orderNext := s.sched.orderNext + 1 } }
      let s := clampPrompt (decide (8 < h.kmax.toNat)) 6 h s
      let s := clampPrompt (clampTemp h.temp ≠ h.temp) 16 h s
      let s := clampPrompt (clampTopp h.topp ≠ h.topp) 18 h s
      clampPrompt (decide (4096 < h.topk.toNat)) 20 h s
  else s

def execPromptEntry (ring : Nat) (h : PromptHeader) (tokens : List (BitVec 18)) (s : State) : Host.Outcome State Fault Refusal :=
  if 7 < ring then .fault .noSuchRing else .next (promptEntry ring h (tokens.map BitVec.toNat) s)

/-! ### Depth controller (R229) -/

/-- kmax of a sequence: the smaller of SPC_DEPTH.KMAX and its own. -/
def seqKmax (r : SeqRec) (s : State) : Nat := min (getF (Reg.Sch.spcKmax.at schBase) s) r.kmax

/-- r^k ≥ PMIN ÷ 256 for an FP16 rate. -/
def rateReaches (rate : BitVec 16) (k pmin : Nat) : Bool :=
  match decodeF fp16 rate.toNat with
  | .fin _ m e =>
    let p := scaleFrac (m ^ k) 1 (e * k)
    decide (pmin * p.2 ≤ 256 * p.1)
  | _ => false

/-- depth(r): the largest k from 1 to kmax with r^k ≥ PMIN ÷ 256, or 1. -/
def depthOf (rate : BitVec 16) (kmax pmin : Nat) : Nat :=
  (List.range kmax).foldl (fun b i => if rateReaches rate (i + 1) pmin then max b (i + 1) else b) 1

/-- The depth proposed for a sequence's next step (Table 8-6). -/
def nextDepth (r : SeqRec) (s : State) : Nat :=
  if ¬ isSet (Reg.Sch.spcEn.at schBase) s ∨ seqKmax r s = 0 then 0
  else if r.off then (if getF (Reg.Sch.spcProbe.at schBase) s ≤ r.probe then 1 else 0)
  else depthOf r.rate (seqKmax r s) (getF (Reg.Sch.spcPmin.at schBase) s)

/-- r + 2^−SHIFT × (a ÷ k − r), rounded to FP16. -/
def rateUpdate (rate : BitVec 16) (sh a k : Nat) : BitVec 16 :=
  match decodeF fp16 rate.toNat with
  | .fin _ m e =>
    let q := scaleFrac m 1 e
    BitVec.ofNat 16 (encodeFrac fp16 (q.1 * (2 ^ sh - 1) * k + a * q.2) (2 ^ sh * k * q.2) 0)
  | _ => rate

/-- The depth controller at a commit of `k` composed and `a` accepted drafts (Table 8-6). -/
def depthUpdate (r : SeqRec) (k a : Nat) (s : State) : SeqRec × State :=
  let sh := getF (Reg.Sch.spcShift.at schBase) s
  let probes := getF (Reg.Sch.spcProbe.at schBase) s
  if ¬ isSet (Reg.Sch.spcEn.at schBase) s ∨ seqKmax r s = 0 then (r, s)
  else if r.off then
    if r.probe < probes then
      if r.probe + 1 = probes then ({ r with probe := r.probe + 1 }, addF (Reg.Sch.spcProbeCnt.at schBase) 1 s)
      else ({ r with probe := r.probe + 1 }, s)
    else if k = 0 then (r, s)
    else if a = 0 then ({ r with probe := 0 }, s)
    else
      let rp := BitVec.ofNat 16 (encodeFrac fp16 (getF (Reg.Sch.spcRprobe.at schBase) s) 256 0)
      ({ r with off := false, zeros := 0, probe := 0, rate := rp }, s)
  else if k = 0 then (r, s)
  else
    let r := { r with rate := rateUpdate r.rate sh a k }
    if 0 < a then ({ r with zeros := 0 }, s)
    else if r.zeros + 1 = getF (Reg.Sch.spcZeroAfter.at schBase) s then
      ({ r with zeros := 0, off := true, probe := 0 }, addF (Reg.Sch.spcZeroCnt.at schBase) 1 s)
    else ({ r with zeros := r.zeros + 1 }, s)

/-! ### Predictions and the budget (R189 to R192) -/

/-- Energy of operation counts in fJ (Table 7-5). -/
def opsFj (c : OpCounts) : Nat :=
  c.slotPj * 1000 + c.slots * 94000 + c.bunting * 115 + c.denseBf * 120 + c.denseF8 * 60 + c.element * 400 +
    c.func * 1000 + c.sramB * 14000 + c.lenrikB * 9000 + c.idleSlots * 120000

/-- T_bnt ≤ T_L for one tile (R172), in ACLK scaled by the reserved rate. -/
def tileOk (t : TileWork) : Bool :=
  match t.loads with
  | [] => true
  | (b1, c1) :: l =>
    let tot := (l.foldl (fun (a : Nat × Nat) x => (a.1 + max (a.2 * t.rate) x.1, x.2)) (b1, c1))
    decide (0 < t.rate) && decide (tot.1 + tot.2 * t.rate ≤ t.tl * t.rate)

/-- T_bnt of a tile in ns, at 1.064 ns an ACLK. -/
def tileNs (t : TileWork) : Nat :=
  match t.loads with
  | [] => 0
  | (b1, c1) :: l =>
    let tot := (l.foldl (fun (a : Nat × Nat) x => (a.1 + max (a.2 * t.rate) x.1, x.2)) (b1, c1))
    (tot.1 + tot.2 * t.rate) * 1064 / (1000 * max t.rate 1)

/-- Predicted time of a part in ns: T_fix plus the largest of T_arr, T_attn, T_bnd and T_bnt (R192). -/
def predTime (c : PartCost) (positions : Nat) : Nat :=
  let arr := positions * c.milliSlots * 8511 / 1000000
  let attn := c.kvBytes * 1064 / 64000
  let bnd := positions * c.boundary * 10 / (569 * max c.paths 1)
  let bnt := (c.tiles.map tileNs).foldl max 0
  c.tFix + max (max arr attn) (max bnd bnt)

/-- Predicted energy of a part in nJ: the operations of Table 7-5 and the static 103 W over the step's time. -/
def predEnergy (c : PartCost) (g p : Nat) : Nat :=
  (opsFj c.base + g * opsFj c.perGen + p * opsFj c.perPre) / 1000000 + 103 * predTime c (g + p)

/-- κ × 10^9 of a part as the head part knows it. -/
def kappaOf (pos : Nat) (s : State) : Nat :=
  if pos = myPos s then
    match f32 (getF (Reg.Sch.kappa.at schBase) s) with
    | .fin _ m e => let q := scaleFrac (m * 1000000000) 1 e; q.1 / q.2
    | _ => 1000000000
  else
    let k := (SMap.get dfltHead s.sched.headroom pos).kappa
    if k = 0 then 1000000000 else k

/-- P = κ × 1.09 × E ÷ T in µW (R189). -/
def predPower (pos energy time : Nat) (s : State) : Int := (kappaOf pos s * 109 * energy / (max time 1 * 100000) : Nat)

/-- Predictions of a composition on every part. -/
def predsOf (costs : List PartCost) (g p : Nat) (s : State) : List PartPred :=
  costs.map fun c =>
    let e := predEnergy c g p
    let t := predTime c (g + p)
    ⟨c.pos, e, t, predPower c.pos e t s⟩

/-- The allowance A of a part in µW: min(H, (θ − GUARD) ÷ R_th) (R190). -/
def allowance (pos : Nat) (s : State) : Int :=
  let h := SMap.get dfltHead s.sched.headroom pos
  let g : Int := getF (Reg.Sch.budGuard.at schBase) s * 62500
  if h.rth = 0 then h.watts else min h.watts ((h.theta - g) * 1000000000 / (h.rth : Int))

/-- ΔP ≤ A − C for one part (R190). -/
def fitsBudget (p : PartPred) (s : State) : Bool :=
  decide (p.power - (SMap.get dfltPred s.sched.refPred p.pos).1 ≤
    allowance p.pos s - (SMap.get dfltHead s.sched.headroom p.pos).claimed)

/-- While headroom is stale no part's predicted energy exceeds that of the last committed step (R35). -/
def fitsStale (p : PartPred) (s : State) : Bool :=
  !(isSet Reg.Glb.hdrmStale s) || decide (p.energy ≤ (SMap.get dfltPred s.sched.refPred p.pos).2)

/-- A composition being shaped: generation sequences with their k, prefill sequences with their chunks. -/
structure Shape where
  gens : List (CompGen × Nat)
  pres : List (CompPre × Nat)
  deriving DecidableEq, Repr

def shapeGenPos (c : Shape) : Nat := (c.gens.map fun g => g.2 + 1).sum
def shapePrePos (c : Shape) : Nat := (c.pres.map fun p => p.2).sum
def shapePos (c : Shape) : Nat := shapeGenPos c + shapePrePos c

/-- The growth limit of R191. -/
def fitsGrowth (c : Shape) (s : State) : Bool :=
  decide (shapePos c ≤ s.sched.prevPositions +
    max (getF (Reg.Sch.budGrowMin.at schBase) s) (s.sched.prevPositions * getF (Reg.Sch.budGrow.at schBase) s / 64))

/-- The composition fits every part's budget, the stale cap and the growth limit. -/
def fits (costs : List PartCost) (c : Shape) (s : State) : Bool :=
  let ps := predsOf costs (shapeGenPos c) (shapePrePos c) s
  fitsGrowth c s && ps.all (fun p => fitsBudget p s && fitsStale p s)

/-- One reduction of R191: halve chunks down to 64, then lower every k by 1, then remove the last generation sequence
(the lowest in priority), never the only one. What still does not fit sheds its prefill chunks, the last first. -/
def reduceOnce (c : Shape) : Shape :=
  if c.pres.any (fun p => decide (64 < p.2)) then { c with pres := c.pres.map fun p => (p.1, if 64 < p.2 then max 64 (p.2 / 2) else p.2) }
  else if c.gens.any (fun g => decide (0 < g.2)) then { c with gens := c.gens.map fun g => (g.1, g.2 - 1) }
  else if 1 < c.gens.length then { c with gens := c.gens.dropLast }
  else { c with pres := c.pres.dropLast }

/-- Reduce until it fits; at the floor the composition stands as it is. -/
def reduce (costs : List PartCost) (s : State) : Nat → Shape → Shape
  | 0, c => c
  | n + 1, c => if fits costs c s then c else reduce costs s n (reduceOnce c)

/-! ### Share (R187, R188) -/

/-- Tokens of prompts that wait to be prefilled. -/
def backlog (s : State) : Nat := (s.sched.seqs.map fun e => if e.2.state = .prefill then e.2.prompt.length else 0).sum

/-- Latency excess of the classes with generating sequences: the largest lat ÷ target, as lat and target (R188). -/
def worstLatency (s : State) : Nat × Nat :=
  (List.range 8).foldl (fun b c =>
    if s.sched.seqs.any (fun e => e.2.state = .generate && (tenantOf e.2.ten s).cls == c) then
      let l := SMap.get dfltZero s.sched.lat c
      let t := max (SMap.get dfltClass s.sched.classes c).target 1
      if b.1 * t < l * b.2 then (l, t) else b
    else b) (0, 1)

/-- Round an exact quotient of integers to the nearest integer, ties away from zero. -/
def roundQuot (n : Int) (d : Nat) : Int :=
  if 0 ≤ n then (2 * n + d) / (2 * (d : Int)) else -((2 * (-n) + d) / (2 * (d : Int)))

/-- The share after one composition in auto mode: u = kb (b − 1) − kl max(0, l − 1) over the common denominator of b
and l (R188). -/
def shareNext (allow : Int) (s : State) : Nat :=
  let sh := getF (Reg.Sch.ratioCur.at schBase) s
  if ¬ isSet (Reg.Sch.ratioMode.at schBase) s then getF (Reg.Sch.ratioShare.at schBase) s
  else
    let br := getF (Reg.Sch.bklRef.at schBase) s
    let bn := min (backlog s) (4 * br)
    let l := worstLatency s
    let d := br * l.2
    let excessLat : Int := max 0 ((l.1 : Int) - l.2)
    let u : Int := getF (Reg.Sch.rctlKb.at schBase) s * ((bn : Int) - br) * l.2 - getF (Reg.Sch.rctlKl.at schBase) s * excessLat * br
    let m : Int := getF (Reg.Sch.rctlStepMax.at schBase) s
    let r := if u.natAbs < getF (Reg.Sch.rctlDeadband.at schBase) s * d then 0 else max (-m) (min m (roundQuot u d))
    let r := if 0 < r ∧ (allow ≤ 0 ∨ isSet Reg.Glb.hdrmStale s) then 0 else r
    clampRange (getF (Reg.Sch.ratioMin.at schBase) s) (getF (Reg.Sch.ratioMax.at schBase) s) ((sh : Int) + r).toNat

/-- The least allowance over the parts. -/
def leastAllowance (costs : List PartCost) (s : State) : Int :=
  match costs.map (fun c => allowance c.pos s) with
  | [] => 0
  | a :: l => l.foldl min a

/-! ### Composition (R184) -/

/-- A sequence may be in the next step. -/
def ready (r : SeqRec) : Bool :=
  (r.state = .generate || (r.state = .prefill && !r.prompt.isEmpty)) && r.inStep.isNone && !r.releasing

/-- A resumed sequence waits until its blocks are hot again, a killed block until it is restored (R219, R415). -/
def blocksReady (q : Nat) (s : State) : Bool :=
  !(s.kv.dir.any fun b => b.seq = q && b.promote) && !(s.flt.restoring.any fun x => x.2.1 = q)

/-- Class priority of a sequence. -/
def prioOf (q : Nat) (s : State) : Nat :=
  (SMap.get dfltClass s.sched.classes (tenantOf (seqOf q s).ten s).cls).prio

/-- Generation sequences are offered by class priority and, within a tenant, the one stepped least recently first. -/
def genOrderOk (s : State) : List Nat → Bool
  | [] => true
  | [_] => true
  | a :: b :: l =>
    (decide (prioOf b s < prioOf a s) || (prioOf a s == prioOf b s &&
      ((seqOf a s).ten ≠ (seqOf b s).ten || decide ((seqOf a s).stepped ≤ (seqOf b s).stepped)))) && genOrderOk s (b :: l)

/-- Prefill chunks come from the oldest prompt first within the same class order. -/
def preOrderOk (s : State) : List Nat → Bool
  | [] => true
  | [_] => true
  | a :: b :: l =>
    (decide (prioOf b s < prioOf a s) || (prioOf a s == prioOf b s && decide ((seqOf a s).order ≤ (seqOf b s).order))) &&
      preOrderOk s (b :: l)

/-- Positions of each tenant stay within its QUOTA. -/
def quotaOk (c : Shape) (s : State) : Bool :=
  let per := fun t => (c.gens.map fun g => if (seqOf g.1.seq.toNat s).ten = t then g.2 + 1 else 0).sum +
    (c.pres.map fun p => if (seqOf p.1.seq.toNat s).ten = t then p.2 else 0).sum
  let ts := c.gens.map (fun g => (seqOf g.1.seq.toNat s).ten) ++ c.pres.map (fun p => (seqOf p.1.seq.toNat s).ten)
  ts.all fun t => (tenantOf t s).quota = 0 || decide (per t ≤ (tenantOf t s).quota)

/-- Prefill and generation positions satisfy the share, which is work-conserving (R187). -/
def shareOk (c : Shape) (share : Nat) (s : State) : Bool :=
  let pmax := getF (Reg.Sch.limMaxPos.at schBase) s
  let pre := share * pmax / 256
  let gDem := (s.sched.seqs.map fun e => if e.2.state = .generate && ready e.2 then nextDepth e.2 s + 1 else 0).sum
  let pDem := (s.sched.seqs.map fun e => if e.2.state = .prefill && ready e.2 then e.2.prompt.length else 0).sum
  decide (shapePrePos c ≤ max pre (pmax - gDem)) && decide (shapeGenPos c ≤ max (pmax - pre) (pmax - pDem))

/-- Bytes that ring 9 must keep for a step: 32 + 16 E + 8, rounded up to 64 (R318). -/
def reserveOf (c : Shape) : Nat := (32 + 16 * (shapeGenPos c + c.pres.length) + 8 + 63) / 64 * 64

/-- Ring 9's free space is at least twice every reservation, the new one included. -/
def ringRoom (c : Shape) (s : State) : Bool :=
  ringOn 9 s && decide (2 * (reserveOf c + (s.sched.steps.map fun r => r.reserve).sum) ≤ ringFree 9 s)

/-- The part composes at all: head part, serving, link up with no held records, sequencer cores and clock running, no
freeze, a wave slot free, the instance whole (R177, R181, R310, R302, R36, R352). -/
def mayCompose (lost : Bool) (wave : Nat) (s : State) : Bool :=
  (if lost then s.lnk.lostHead else isHead s) && getF Reg.Glb.state s == 7 && linkReady s && s.host.held.isEmpty && isSet Reg.Glb.ctrlRun s &&
    isSet Reg.Glb.clkHclk s && !(isSet (Reg.Dlk.frozen.at dlkBase) s) && s.lnk.lostPods.isEmpty && s.cfg.lostRegions.isEmpty &&
    decide (wave ≤ getF (Reg.Sch.limWaves.at schBase) s) && !(s.sched.steps.any fun r => r.plan.wave == wave)

/-- A step carries a generation sequence while one is ready (R191). -/
def carriesGen (lost : Bool) (x : Shape) (s : State) : Bool :=
  decide (0 < x.gens.length) || !(s.sched.seqs.any fun e => e.2.state = .generate && ready e.2 && blocksReady e.1 s &&
    decide (lostSeqs ≤ e.1) == lost)

/-- The admission conditions of R184 for a shape, beside the budget. -/
def admissible (c : Composition) (x : Shape) (share : Nat) (s : State) : Bool :=
  decide (0 < x.gens.length + x.pres.length) && carriesGen c.lost x s &&
    decide (x.gens.length + x.pres.length ≤ getF (Reg.Sch.limMaxSeq.at schBase) s) &&
    decide (shapePos x ≤ getF (Reg.Sch.limMaxPos.at schBase) s) &&
    x.gens.all (fun g => let r := seqOf g.1.seq.toNat s; r.state = .generate && ready r && blocksReady g.1.seq.toNat s &&
      decide (r.len + g.2 + 1 ≤ Config.maxPositions)) &&
    x.pres.all (fun p => let r := seqOf p.1.seq.toNat s; r.state = .prefill && ready r && blocksReady p.1.seq.toNat s && decide (0 < p.2)) &&
    (x.gens.map (fun g => g.1.seq) ++ x.pres.map (fun p => p.1.seq)).Nodup &&
    (x.gens.map (fun g => g.1.seq) ++ x.pres.map (fun p => p.1.seq)).all (fun q => decide (lostSeqs ≤ q.toNat) == c.lost) &&
    genOrderOk s (x.gens.map fun g => g.1.seq.toNat) && preOrderOk s (x.pres.map fun p => p.1.seq.toNat) &&
    quotaOk x s && shareOk x share s && ringRoom x s && c.costs.all (fun k => k.hotOk && k.tiles.all tileOk)

/-- A token of the chunk is not below the vocabulary size: its index in the chunk (R179). -/
def badToken (r : SeqRec) (chunk : Nat) : Option Nat :=
  (r.prompt.take chunk).findIdx? (fun t => decide (Config.vocabSize r.epoch ≤ t))

/-- A prompt whose chunk holds a bad token: its first chunk undoes the entry with PROMPT_REFUSED, DETAIL 7; a later one
ends the entry with PROMPT_TOKEN_BAD (Table 7-2). -/
def dropBadPrompt (q ix : Nat) (s : State) : State :=
  let r := seqOf q s
  match r.undo with
  | some .free => freeSeq q (emit 0x0003 r.ten (seqNo q) (lastStep s) 7 s)
  | some _ => emit 0x0003 r.ten (seqNo q) (lastStep s) 7 (setSeq q { r with state := .waiting, prompt := [], undo := none, waitSince := now s } s)
  | none =>
    let s := emit 0x000E r.ten (seqNo q) (lastStep s) (r.promptIx + ix) s
    if 0 < r.len then setSeq q { r with state := .waiting, prompt := [], waitSince := now s } s else freeSeq q s

/-- The positions of a prefill sequence's chunk: what the sequencer offers, at most SCH_CHUNK and the tokens left. -/
def chunkLen (chunk : Nat) (p : CompPre) (s : State) : Nat := min (min chunk p.chunk) (seqOf p.seq.toNat s).prompt.length

/-- Check the tokens of the offered prefill chunks and leave out the sequences whose entry ends. -/
def screenPrompts (chunk : Nat) (l : List CompPre) (s : State) : List CompPre × State :=
  l.foldl (fun a p =>
    let q := p.seq.toNat
    match badToken (seqOf q a.2) (min chunk p.chunk) with
    | some ix => (a.1, if (seqOf q a.2).state = .prefill then dropBadPrompt q ix a.2 else a.2)
    | none => (a.1 ++ [p], a.2)) ([], s)

/-- The plan entry of a sequence. -/
def planEntry (q : SeqKey) (gen : Bool) (k chunk : Nat) (blocks : List (Nat × Nat)) (s : State) : PlanEntry :=
  let r := seqOf q.toNat s
  ⟨BitVec.ofNat 12 r.ten, q, gen, r.len, k, chunk, r.epoch, r.adapter, r.samp, (tenantOf r.ten s).accept, blocks⟩

/-- Claim a composed step's positive increase from every part's allowance (R190). -/
def claimPower (ps : List PartPred) (s : State) : State :=
  ps.foldl (fun s p =>
    let d := p.power - (SMap.get dfltPred s.sched.refPred p.pos).1
    let add := fun (h : Headroom) => { h with claimed := h.claimed + d }
    if 0 < d then { s with sched := { s.sched with headroom := SMap.upd dfltHead s.sched.headroom p.pos add } } else s) s

/-- Mark the sequences of a step. -/
def markStep (n : Nat) (qs : List Nat) (s : State) : State :=
  qs.foldl (fun s q => setSeq q { seqOf q s with inStep := some n, stepped := n, undo := none } s) s

/-- Start the bunting loads that a plan orders (R168): a referenced bank refuses, and the step fails with cause 2. -/
def startLoad (n : Nat) (l : BankLoad) (s : State) : State :=
  let key := l.tile.toNat * 2 + (if l.bank then 1 else 0)
  let b := SMap.get dfltBank s.banks key
  if b.state = .loading ∨ (b.state = .ready ∧ 0 < bankRefs l.tile.toNat l.bank s) then
    failHere n 2 (addF (Reg.Bnt.refuseCnt.at (bntBase l.tile.toNat)) 1 (setF (Reg.Bnt.refused.at (bntBase l.tile.toNat)) 1 s))
  else
    let nb : Bank := ⟨.loading, l.tenant.toNat, l.kind.toNat, l.version.toNat, l.src, l.len, n, []⟩
    { s with banks := SMap.set dfltBank s.banks key nb }

/-- The epoch is INSTALLED in a slot of this part. -/
def installedHere (e : Nat) (s : State) : Bool := s.wgt.slots.any fun x => x.2.state = .installed && x.2.num == e

/-- New steps are mirrored: the partner is there, or pair resynchronisation runs (R303, R306). -/
def mirroring (n : Nat) (s : State) : Bool :=
  decide (n < lostBase) && isMirrored s && (!(isSet (Reg.Lnk.pairLost.at lnkBase) s) || isSet (Reg.Lnk.pairResync.at lnkBase) s)

/-- At wave level L_w the first input of a new wave is held for T × L_w ÷ (16 − L_w), T the busy time of the previous
wave (R368). -/
def holdWave (n : Nat) (s : State) : State :=
  let l := getF (Reg.Pwr.waveLevel.at pwrBase) s
  if l = 0 then s
  else { s with pwr := { s.pwr with held := s.pwr.held ++ [(n, now s + s.pwr.busy * l / (16 - l))] } }

/-- A part takes a plan (R181): an epoch not INSTALLED here rejects it with cause 8 (R257); otherwise its flag words are
set, its blocks opened, its loads and fetches started. -/
def takePlan (p : Plan) (composed reserve : Nat) (s : State) : State :=
  let pos := (p.entries.map entryPositions).sum
  let acks := if mirroring p.step s then (if isHead s then 2 else 1) else 0
  let r : StepRec := ⟨p, composed, false, false, [], [], none, acks, false, false, [], none, reserve, 0, pos⟩
  let s := { s with sched := { s.sched with steps := s.sched.steps ++ [r] } }
  if p.entries.all (fun e => installedHere e.epoch s) then
    let s := { s with wgt := { s.wgt with live := (p.entries.map fun e => e.epoch).foldl (fun l e => if e ∈ l then l else e :: l) s.wgt.live } }
    let s := p.flags.foldl (fun s f => if isFlagWord f.1 s then flagPut f.1 f.2 s else flagFault 55 f.1 (some p.step) s) s
    let s := holdWave p.step (openPlan p s)
    let s := p.loads.foldl (fun s l => if (stepOf p.step s).isSome then startLoad p.step l s else s) s
    let s := freeBanks s
    fetchMore s
  else failHere p.step 8 s

/-- The composed plan. -/
def planOf (c : Composition) (x : Shape) (n : Nat) (s : State) : Plan :=
  { step := n, wave := c.wave
    entries := x.gens.map (fun g => planEntry g.1.seq true g.2 0 g.1.blocks s) ++
      x.pres.map (fun p => planEntry p.1.seq false 0 p.2 p.1.blocks s)
    recipes := c.recipes, preds := predsOf c.costs (shapeGenPos x) (shapePrePos x) s
    loads := c.loads, uses := c.uses, frees := c.frees, fetches := c.fetches, flags := c.flags }

/-- Length of a plan message in 64-byte units: 32 bytes a sequence and a header (Table 7-4). -/
def planLen (p : Plan) : Nat := (p.entries.length * 32 + 64 + 63) / 64

/-- STEP_COMPOSE. -/
def stepCompose (c : Composition) (s : State) : State :=
  if ¬ mayCompose c.lost c.wave s then s
  else
    let chunk := min (getF (Reg.Sch.chunk.at schBase) s) (getF (Reg.Sch.limMaxPos.at schBase) s)
    let share := shareNext (leastAllowance c.costs s) s
    let s := setF (Reg.Sch.ratioCur.at schBase) share s
    let sp := screenPrompts chunk c.pres s
    let s := sp.2
    let x0 : Shape := ⟨c.gens.map (fun g => (g, min g.drawn (nextDepth (seqOf g.seq.toNat s) s))),
      sp.1.map (fun p => (p, chunkLen chunk p s))⟩
    let x := reduce c.costs s (32 + x0.gens.length + x0.pres.length) x0
    let floor := decide (x.gens.length ≤ 1) && x.gens.all (fun g => g.2 == 0) && x.pres.isEmpty
    let ok := fits c.costs x s || (floor && (predsOf c.costs (shapeGenPos x) (shapePrePos x) s).all (fun p => fitsStale p s))
    if admissible c x share s && ok then
      let s := if x = x0 then s else addF (Reg.Sch.budgetCut.at schBase) 1 s
      let n := if c.lost then s.lnk.lostNext else s.sched.nextStep
      let p := planOf c x n s
      let s := { s with sched := { s.sched with prevPositions := shapePos x } }
      let s := if c.lost then { s with lnk := { s.lnk with lostNext := n + 1 } } else { s with sched := { s.sched with nextStep := n + 1 } }
      let s := claimPower p.preds (markStep n (p.entries.map fun e => e.seq.toNat) s)
      let s := if x.gens.any (fun g => decide (0 < g.2)) then sendTo (podOf ((routes s).length - 1 + (if c.lost then 4096 else 0)) s) 0x03 0 n 1 (.drafts (shapeGenPos x)) s else s
      takePlan p (now s) (reserveOf x) (sendAll 0x10 n (planLen p) (.plan p) s)
    else s

/-- STEP_PLAN: a part other than the head part receives a plan. -/
def stepPlan (src : Nat) (p : Plan) (s : State) : State :=
  if headFor p.step s ∨ (stepOf p.step s).isSome then s
  else if lostBase ≤ p.step then takePlan p (now s) 0 { s with lnk := { s.lnk with lostHeadPod := some src } }
  else takePlan p (now s) 0 { s with sched := { s.sched with headPod := some src } }

/-! ### Commit-ready and acceptance (R181) -/

/-- Positions that an acceptance commits: the tokens of a generation sequence, the chunk of a prefill one. -/
def acceptedPositions (r : StepRec) : Nat :=
  (r.plan.entries.map fun e =>
    if e.gen then ((((r.accepted.getD []).find? fun a => a.seq = e.seq).map fun a => a.tokens.length).getD 0) else e.chunk).sum

/-- Send the accepted positions' entries, and from the head part the changed sequence records, to the partner (R303). A
tenant without a secret cannot be mirrored: the step fails with cause 15 (R403). -/
def mirrorStep (n : Nat) (r : StepRec) (s : State) : State :=
  if r.plan.entries.any (fun e => !(hasSecret e.ten.toNat s)) then failHere n 15 s
  else
    let s := updStep n (fun r => { r with mirrorSent := true }) s
    let pod := getF (Reg.Lnk.pairPod.at lnkBase) s
    let qs := r.plan.entries.map fun e => e.seq.toNat
    let bytes := acceptedPositions r * ((mySlots s).map fun l => slotLines l (getF (Reg.Kvc.lfmt.at (kvcBase + 4 * l)) s) s).sum
    let s := sendTo pod 0x06 0 n (max 1 ((bytes + 63) / 64)) (.seqs qs) s
    if isHead s then sendTo pod 0x07 0 n (max 1 (qs.length * 2)) (.seqs qs) s else s

/-- A part becomes commit-ready: every key/value entry written, the acceptance held, and in mirrored operation the
partner's acknowledgement. It tells the head part. -/
def checkReady (n : Nat) (s : State) : State :=
  match stepOf n s with
  | none => s
  | some r =>
    if r.kvDone ∧ r.accepted.isSome ∧ r.unacked = 0 ∧ ¬ r.readySent then
      let s := updStep n (fun r => { r with readySent := true }) s
      let me := posFor n s
      if headFor n s then updStep n (fun r => { r with ready := if me ∈ r.ready then r.ready else me :: r.ready }) s
      else sendTo (headPodFor n s) 0x11 0 n 1 (.ready me) s
    else if r.kvDone ∧ r.accepted.isSome ∧ 0 < r.unacked ∧ ¬ r.mirrorSent then mirrorStep n r s
    else s

/-- All parts of the instance have sent commit-ready. -/
def allReady (r : StepRec) (s : State) : Bool := (List.range (max (routes s).length 1)).all fun p => r.ready.contains (if lostBase ≤ r.plan.step then p + 4096 else p)

/-- Note the time at which a step became ready everywhere. -/
def noteReady (n : Nat) (s : State) : State :=
  updStep n (fun r => { r with readyAt := if r.readyAt.isNone && allReady r s then some (now s) else r.readyAt }) s

/-- COMMIT_READY: the head part receives a part's commit-ready. -/
def commitReady (n pos : Nat) (s : State) : State :=
  if headFor n s then noteReady n (updStep n (fun r => { r with ready := if pos ∈ r.ready then r.ready else pos :: r.ready }) s) else s

def execCommitReady (n pos : Nat) (s : State) : Host.Outcome State Fault Refusal := .next (commitReady n pos (hear (podOf pos s) s))

/-- ACCEPTANCE: the output part's accepted counts and tokens arrive. -/
def acceptance (n : Nat) (l : List Accepted) (s : State) : State :=
  noteReady n (checkReady n (updStep n (fun r => { r with accepted := if r.accepted.isNone then some l else r.accepted }) s))

def execAcceptance (n : Nat) (l : List Accepted) (s : State) : Host.Outcome State Fault Refusal := .next (acceptance n l (hear (podOf ((routes s).length - 1 + (if lostBase ≤ n then 4096 else 0)) s) s))

/-! ### Commit (R185, R194 to R196) -/

/-- Bits of a step record entry (Table 7-7). -/
def entryBytes (ten seq tok acc : Nat) (fin lpv cont pre : Bool) (cause pos lp : Nat) : List Byte :=
  let b := fun (x : Bool) (k : Nat) => if x then 2 ^ k else 0
  leBytes 8 (ten + seq * 2 ^ 12 + tok * 2 ^ 27 + acc * 2 ^ 45 + b fin 49 + b lpv 50 + b cont 51 + b pre 52 + cause * 2 ^ 53) ++
    leBytes 8 (pos + lp * 2 ^ 32)

/-- Tokens that a generation entry commits: up to a stop token, MAXNEW or the length limit, with the cause of the end
(R223): 1 stop token, 2 new-token limit, 3 length limit. -/
def cutTokens (stop : List Nat) (maxNew newCount len : Nat) : List Nat → List Nat × Nat
  | [] => ([], 0)
  | t :: l =>
    if t ∈ stop then ([t], 1)
    else if maxNew ≠ 0 ∧ maxNew ≤ newCount + 1 then ([t], 2)
    else if Config.maxPositions ≤ len + 1 then ([t], 3)
    else
      let r := cutTokens stop maxNew (newCount + 1) (len + 1) l
      (t :: r.1, r.2)

/-- Step record entries of a sequence's tokens, the first at position `pos`: the first with ACC, the rest continuations
(R195); an END of cause 5 carries no token. -/
def genEntries (e : PlanEntry) (pos : Nat) (a : Accepted) (toks : List Nat) (cause acc : Nat) (nan : Bool) : List Byte :=
  let total := toks.length + (if nan then 1 else 0)
  (List.range total).flatMap fun i =>
    let last := i + 1 == total
    let isNan := nan && last
    entryBytes e.ten.toNat (seqNo e.seq.toNat) (if isNan then 0 else (toks[i]?).getD 0) (if i = 0 then acc else 0)
      (last && cause ≠ 0) (e.samp.logp && !isNan) (i ≠ 0) false (if last then cause else 0) (pos + i)
      (if e.samp.logp && !isNan then ((a.logps[i]?).getD 0).toNat else 0)

/-- What one sequence of a committing step contributes: its record entries, the positions it commits, the tokens it
emits and the cause of its end (0 none). The last token emitted lies at the committed length and is written by the next
step (R222, R224), so a generating step's tokens lie one position further on (R199). -/
def commitEntry (e : PlanEntry) (l : List Accepted) (s : State) : List Byte × Nat × Nat × Nat :=
  let r := seqOf e.seq.toNat s
  if e.gen then
    match l.find? (fun a => a.seq = e.seq) with
    | none => ([], 0, 0, 0)
    | some a =>
      let c := cutTokens (tenantOf r.ten s).stop r.maxNew r.newCount e.len a.tokens
      let nan := a.nan && c.2 == 0
      let cause := if nan then 5 else if r.releasing && c.2 == 0 then 4 else c.2
      let acc := min a.acc (if nan then c.1.length else c.1.length - 1)
      (genEntries e (e.len + 1) a c.1 cause acc nan, c.1.length, c.1.length, cause)
  else
    let len := e.len + e.chunk
    let last := decide (r.prompt.length ≤ e.chunk)
    let cause := if Config.maxPositions ≤ len then 3 else if r.releasing then 4 else 0
    if last then
      match l.find? (fun a => a.seq = e.seq) with
      | some a =>
        let nan := a.nan
        let c := cutTokens (tenantOf r.ten s).stop r.maxNew r.newCount (len - 1) a.tokens
        let cause := if nan then 5 else if r.releasing && c.2 == 0 then 4 else c.2
        (genEntries e len a c.1 cause 0 nan, e.chunk, c.1.length, cause)
      | none => (entryBytes e.ten.toNat (seqNo e.seq.toNat) 0 0 (cause ≠ 0) false false true cause len 0, e.chunk, 0, cause)
    else (entryBytes e.ten.toNat (seqNo e.seq.toNat) 0 0 (cause ≠ 0) false false true cause len 0, e.chunk, 0, cause)

/-- The bytes of a step record (Table 7-6), padded to a multiple of 64. -/
def recordBytes (n wave time : Nat) (entries : List Byte) : List Byte :=
  let l := leBytes 8 n ++ leBytes 8 time ++ leBytes 4 (entries.length / 16) ++ leBytes 1 wave ++ List.replicate 11 0 ++ entries
  let l := l ++ leBytes 4 (crc32c l) ++ leBytes 4 n
  l ++ List.replicate ((64 - l.length % 64) % 64) 0

/-- Averaged latency of a class after a commit of one of its generating sequences (R188), in µs. -/
def latUpdate (cls t : Nat) (s : State) : State :=
  { s with sched := { s.sched with lat := SMap.upd dfltZero s.sched.lat cls (fun l => ((l : Int) + ((t : Int) - l) / 16).toNat) } }

/-- A committed sequence's record: lengths, tokens, depth controller and next state (Table 7-2). -/
def commitSeq (e : PlanEntry) (r : List Byte × Nat × Nat × Nat) (acc : Nat) (s : State) : State :=
  let q := e.seq.toNat
  let x := seqOf q s
  let s := if e.gen then latUpdate (tenantOf x.ten s).cls ((now s - x.lastCommit) / 47) s else s
  let s := if e.gen then addF (Reg.Sch.spcDraftCnt.at schBase) e.k (addF (Reg.Sch.spcAccCnt.at schBase) acc s) else s
  let d := if e.gen then depthUpdate x e.k acc s else (x, s)
  let s := d.2
  let len := e.len + r.2.1
  let rest := if e.gen then [] else x.prompt.drop e.chunk
  let y := { d.1 with len := len, retry := 0, inStep := none, lastCommit := now s, prompt := rest
                      promptIx := if e.gen then x.promptIx else x.promptIx + e.chunk, newCount := x.newCount + r.2.2.1 }
  let cause := r.2.2.2
  if cause = 3 ∨ cause = 4 then setSeq q y s
  else if cause ≠ 0 then setSeq q { y with state := .waiting, prompt := [], waitSince := now s } s
  else if rest.isEmpty then setSeq q { y with state := .generate } s
  else setSeq q y s

/-- After the record is out: sequences at the length limit or released become FREE; a held pause applies to one that is
WAITING (R218). -/
def settleSeq (q cause : Nat) (s : State) : State :=
  let r := seqOf q s
  if cause = 3 ∨ r.releasing then completeCmds (fun c => c.1 = 3 && c.2.seq.toNat = q) 0 (endSeq q s)
  else if r.state = .waiting then
    match r.pausing with
    | some t => completeCmds (fun c => c.1 = 4 && c.2.seq.toNat = q) 0 (pauseSeq q 1 t s)
    | none => s
  else s

/-- The two-word summary of a record (R196): STEP bits 47:0; then the TAIL at which the record starts, COUNT and
CRC-32C bits 13:0. -/
def summaryWords (n tail count crc : Nat) : List Nat :=
  [n % 2 ^ 48, tail % 2 ^ 32 + min count 65535 * 2 ^ 32 + crc % 2 ^ 14 * 2 ^ 48]

/-- Demotion below LOWATER: choose victims until HIWATER is reached (R210). Blocks of PAUSED sequences first, then of
WAITING ones, longest idle first, then others, from the sequence with the most hot blocks its lowest block index first;
sealed hot blocks that no wave names. -/
def victimRank (b : Block) (s : State) : Nat :=
  let r := seqOf b.seq s
  match r.state with
  | .paused => 0
  | .waiting => 1 + r.waitSince
  | _ =>
    let n := (s.kv.dir.filter fun x => x.seq = b.seq && x.state = .hot && !x.demote).length
    2 ^ 64 + (1048576 - n) * 4096 + b.blk

/-- The best victim: the lowest rank among hot blocks not yet chosen. A block that could only go to the CXL tier is
skipped where its tenant has no secret (R403). -/
def bestVictim (s : State) : Option Block :=
  (s.kv.dir.filter fun b => b.state = .hot && !b.demote && !b.freeing && !(waveNames b.lslot b.seq b.blk s) &&
    (hasSecret b.ten s || isSet (Reg.Kvc.peerEn.at kvcBase) s)).foldl
    (fun m b => match m with | none => some b | some x => if victimRank b s < victimRank x s then some b else some x) none

/-- Hot blocks that demotions already chosen will free, in lines. -/
def demotingLines (s : State) : Nat :=
  (s.kv.dir.map fun b => if b.demote && (b.state = .hot || (b.state = .moving && b.src = .hot)) then slotLines b.lslot b.fmt s else 0).sum

def chooseVictims : Nat → State → State
  | 0, s => s
  | n + 1, s =>
    let free := if largestLines s = 0 then 0 else (hotLines s + demotingLines s - hotUsed s) / largestLines s
    if free < 16 * getF (Reg.Kvc.hiWater.at kvcBase) s then
      match bestVictim s with
      | some b => chooseVictims n (mapBlocks (fun x => if x = b then { x with demote := true } else x) s)
      | none => s
    else s

/-- BLOCK_DEMOTION: starts when free hot blocks fall below LOWATER. -/
def demoteCheck (s : State) : State :=
  if hotFree s < 16 * getF (Reg.Kvc.loWater.at kvcBase) s ∧ 0 < largestLines s then chooseVictims s.kv.dir.length s else s

/-- The commit's effect on this part's own blocks and staged copies. -/
def commitLocal (n : Nat) (lens : List (Nat × Nat)) (s : State) : State :=
  let s := lens.foldl (fun s x => commitBlocks n x.1 x.2 s) s
  demoteCheck (sweepBlocks (fetchMore (dropStep n (dropStaged n s))))

/-- Predictions of the step just committed become P(ref) (R190). -/
def setRef (ps : List PartPred) (s : State) : State :=
  { s with sched := { s.sched with
      refPred := ps.foldl (fun m p => SMap.set dfltPred m p.pos (p.power, p.energy)) s.sched.refPred } }

/-- SCH_LASTSTEP shows the part's own instance. -/
def setLast (n : Nat) (s : State) : State := if n < lostBase then setF (Reg.Sch.lastStep.at schBase) n s else s

/-- STEP_COMMIT: every part is commit-ready and every step below n has resolved. -/
def stepCommit (n : Nat) (s : State) : State :=
  match stepOf n s with
  | none => s
  | some r =>
    if headFor n s ∧ allReady r s ∧ s.sched.steps.all (fun x => decide (n ≤ x.plan.step ∨ (lostBase ≤ n ∧ x.plan.step < lostBase))) then
      let acc := r.accepted.getD []
      let rs := r.plan.entries.map fun e => (e, commitEntry e acc s, ((acc.find? (fun a => a.seq = e.seq)).map fun a => a.acc).getD 0)
      let s := rs.foldl (fun s x => commitSeq x.1 x.2.1 x.2.2 s) s
      let lens := rs.map fun x => (x.1.seq.toNat, x.1.len + x.2.1.2.1)
      let s := sendAll 0x13 n 1 (.seqs (lens.map fun x => x.2)) s
      let s := setRef r.plan.preds (addF (Reg.Sch.stepCnt.at schBase) 1 (setLast n s))
      let lat := now s - r.readyAt.getD (now s)
      let s := setF (Reg.Sch.commitLat.at schBase) (((getF (Reg.Sch.commitLat.at schBase) s : Int) + ((lat : Int) - getF (Reg.Sch.commitLat.at schBase) s) / 16).toNat) s
      let entries := rs.flatMap fun x => x.2.1.1
      let rec64 := recordBytes (n % lostBase) r.plan.wave (now s) entries
      let s := commitLocal n lens s
      let tail := getF (Reg.Ring.tail.at (ringBase 9)) s + 64 * padsFor rec64.length s
      let s := recordOut n rec64 s
      let s := if isSet (Reg.Sch.sumqEn.at schBase) s then
          sqWrite (getF (Reg.Sch.sumqQueue.at schBase) s) (summaryWords n tail (entries.length / 16) (crc32c (rec64.take (32 + entries.length)))) s
        else s
      rs.foldl (fun s x => settleSeq x.1.seq.toNat x.2.1.2.2.2 s) s
    else s

def execStepCommit (n : Nat) (s : State) : Host.Outcome State Fault Refusal := .next (stepCommit n s)

/-- STEP_FAIL: a failure report reaches the head part. -/
def execStepFail (n cause : Nat) (s : State) : Host.Outcome State Fault Refusal :=
  .next (if headFor n s then failStep n cause [] s else s)

/-- STEP_TIMEOUT: not committed within SCH_TMO.TIMEOUT of composition. -/
def stepTimeout (n : Nat) (s : State) : State :=
  match stepOf n s with
  | some r => if headFor n s ∧ r.composedAt + ticksUs (getF (Reg.Sch.tmoTimeout.at schBase) s) ≤ now s then failStep n 7 [] s else s
  | none => s

def execStepTimeout (n : Nat) (s : State) : Host.Outcome State Fault Refusal := .next (stepTimeout n s)

/-- COMMIT_MESSAGE: a part advances its committed lengths (R185). -/
def commitMessage (n : Nat) (lens : List Nat) (s : State) : State :=
  match stepOf n s with
  | some r =>
    if headFor n s then s
    else setLast n (commitLocal n ((r.plan.entries.map fun e => e.seq.toNat).zip lens) s)
  | none => s

def execCommitMessage (n : Nat) (lens : List Nat) (s : State) : Host.Outcome State Fault Refusal := .next (commitMessage n lens (hear (headPodFor n s) s))

/-- ABORT_MESSAGE: a part drops the step's vectors and releases its bank references (R186). -/
def execAbortMessage (n : Nat) (s : State) : Host.Outcome State Fault Refusal :=
  .next (if headFor n s then s else abortLocal n (hear (headPodFor n s) s))

end Sys2Proof.Machine
end

