-- ==== Sys2Proof/Machine/Power.lean ====
section
/-! DEFINITION. The 42 V stage and its rails, droop response, sensors and temperature bands, throttling, wave pauses and
the headroom publication (chapter 14). -/

namespace Sys2Proof.Machine
open Sys2Proof

def updPwr (f : PwrState → PwrState) (s : State) : State := { s with pwr := f s.pwr }
def pwrF (f : Field) : Field := f.at pwrBase

/-! ### Stage and rails (R355 to R357) -/

/-- VIN_RISE: above 36 V the stage starts, unless a latch holds it off until the input has fallen below 34 V. The start
releases THERMTRIP_N (R438). -/
def vinRise (v : Nat) (s : State) : State :=
  let s := updPwr (fun p => { p with vin10mV := v }) s
  if 3600 < v ∧ v ≤ 5800 ∧ ¬ s.pwr.on ∧ (s.pwr.latch = .none ∨ s.pwr.armed) then
    let s := updPwr (fun p => { p with on := true, armed := false }) s
    { s with pins := { s.pins with thermtripN := true } }
  else s

def execVinRise (v : BitVec 16) (s : State) : Host.Outcome State Fault Refusal := .next (vinRise v.toNat s)

/-- VIN_LOSS: below 34 V or above 58 V the stage stops. -/
def vinLoss (v : Nat) (s : State) : State :=
  let s := updPwr (fun p => { p with vin10mV := v, armed := p.armed || decide (v < 3400) }) s
  if v < 3400 ∨ 5800 < v then dieOff s else s

def execVinLoss (v : BitVec 16) (s : State) : Host.Outcome State Fault Refusal := .next (vinLoss v.toNat s)

/-- RAIL_POWER_GOOD: a rail can be good only once every rail before it is (Table 14-2). -/
def railGood (n : Nat) (s : State) : State :=
  if s.pwr.on ∧ (List.range n).all (fun k => s.pwr.pg.contains k) then
    updPwr (fun p => { p with pg := if p.pg.contains n then p.pg else p.pg ++ [n] }) s
  else s

def execRailPowerGood (n : Nat) (s : State) : Host.Outcome State Fault Refusal :=
  if 5 < n then .fault .noSuchRail else .next (railGood n s)

/-- RAIL_POWER_GOOD_LOSS: the rail has left its window and PWR_GOOD is withdrawn; nothing else happens. -/
def railGoodLoss (n : Nat) (s : State) : State := updPwr (fun p => { p with pg := p.pg.filter fun k => ¬ k = n }) s

def execRailPowerGoodLoss (n : Nat) (s : State) : Host.Outcome State Fault Refusal :=
  if 5 < n then .fault .noSuchRail else .next (railGoodLoss n s)

/-- Shut every die rail down and latch a cause: the next start needs the input below 34 V first (R357). -/
def latchOff (l : Latch) (s : State) : State :=
  let s := dieOff s
  updPwr (fun p => { p with latch := l, armed := decide (p.vin10mV < 3400) }) s

/-- RAIL_FAULT. -/
def railFault (n : Nat) (s : State) : State := if s.pwr.on then latchOff (.rail n) s else s

def execRailFault (n : Nat) (s : State) : Host.Outcome State Fault Refusal :=
  if 5 < n then .fault .noSuchRail else .next (railFault n s)

/-! ### Droop (R359, R360) -/

/-- DROOP_TRIP: each trip is counted; the region's ACLK is stretched until the release. -/
def droopTrip (r : Nat) (s : State) : State :=
  updPwr (fun p => { p with droop := if p.droop.contains r then p.droop else r :: p.droop })
    (addF (pwrF (Reg.Pwr.droopCnt.at (4 * r))) 1 s)

def execDroopTrip (r : RegionIx) (s : State) : Host.Outcome State Fault Refusal := .next (droopTrip r.toNat s)

/-- Bin of the lifetime droop histogram, for a time in ns. -/
def droopBin (ns : Nat) : Nat := if ns < 100 then 0 else if ns < 1000 then 1 else if ns < 10000 then 2 else if ns < 100000 then 3 else 4

/-- DROOP_RELEASE: stretching ends; the time from trip to release is counted in its bin. -/
def droopRelease (r ns : Nat) (s : State) : State :=
  if s.pwr.droop.contains r then
    lifeAdd (0x100 + 4 * (5 * r + droopBin ns)) 4 1 (updPwr (fun p => { p with droop := p.droop.filter fun x => ¬ x = r }) s)
  else s

def execDroopRelease (r : RegionIx) (ns : Nat) (s : State) : Host.Outcome State Fault Refusal := .next (droopRelease r.toNat ns s)

/-! ### Sensors (R361, R362, R364) -/

def senF (f : Field) (n : Nat) : Field := pwrF (f.at (4 * n))
def sensorOf (n : Nat) (s : State) : Sensor := SMap.get dfltSensor s.pwr.sensors n
def updSensor (n : Nat) (f : Sensor → Sensor) (s : State) : State :=
  updPwr (fun p => { p with sensors := SMap.upd dfltSensor p.sensors n f }) s

/-- The sensor is faulted. -/
def faulted (n : Nat) (s : State) : Bool := isSet (senF Reg.Pwr.senFault n) s

/-- The last sample, signed, in 1/16 °C. -/
def rawOf (n : Nat) (s : State) : Int := (BitVec.ofNat 16 (getF (senF Reg.Pwr.senRaw n) s)).toInt

/-- A sensor's reading in 1/16 °C: 115.0 °C while it is faulted (R361). -/
def reading (n : Nat) (s : State) : Int := if faulted n s then 1840 else rawOf n s

/-- The other sensors of a sensor's group: its region's 8 or the stage's 3; a chiplet sensor has none. -/
def groupOthers (n : Nat) : List Nat :=
  if n < 64 then ((List.range 8).map fun k => n / 8 * 8 + k).filter fun k => ¬ k = n
  else if n < 69 then []
  else [69, 70, 71].filter fun k => ¬ k = n

/-- Insert a value in order. -/
def insertInt (x : Int) : List Int → List Int
  | [] => [x]
  | y :: l => if x ≤ y then x :: y :: l else y :: insertInt x l

/-- Twice the median of a list. -/
def median2 (l : List Int) : Option Int :=
  let m := l.foldr insertInt []
  if m.isEmpty then none
  else some ((m[(m.length - 1) / 2]?).getD 0 + (m[m.length / 2]?).getD 0)

/-- Twice the median of the group's other unfaulted sensors. -/
def groupMedian (n : Nat) (s : State) : Option Int :=
  median2 (((groupOthers n).filter fun k => !(faulted k s)).map fun k => rawOf k s)

/-- A sensor enters fault: FAULT, FAULTED, its kind, SENSOR_FAULT once and a report once (R362). -/
def sensorFault (n kind : Nat) (s : State) : State :=
  if faulted n s then s
  else
    let s := setF (senF Reg.Pwr.senKind n) kind (setF (senF Reg.Pwr.senFault n) 1 (setF (senF Reg.Pwr.senFaulted n) 1 s))
    report 0x000F n 0 (emitPart 0x0601 (kind * 256 + n) s)

/-- The fault test of Table 14-4 that a sample fails, of kinds 0, 2 and 3. -/
def sampleKind (raw : Option Int) (x : Sensor) (med : Option Int) (s : State) : Option Nat :=
  match raw with
  | none => some 0
  | some v =>
    if v < -640 ∨ 2400 < v then some 0
    else
      match med, x.sameMedian with
      | some m, some m0 =>
        if x.sameSince + ticksS 1 ≤ now s ∧ 96 ≤ (m - m0).natAbs then some 2
        else if 10 ≤ x.apart then some 3 else none
      | _, _ => if 10 ≤ x.apart then some 3 else none

/-- Trip limit of a sensor in 1/16 °C. -/
def tripLimit (n : Nat) : Int := if 64 ≤ n ∧ n ≤ 68 then 1760 else 2000

/-- What a sample leaves of a sensor's history. -/
def sampled (n : Nat) (raw : Option Int) (med : Option Int) (s : State) : Sensor :=
  let x := sensorOf n s
  match raw with
  | none => { x with lastAt := now s, apart := 0, hot := 0 }
  | some v =>
    let same := decide (v = rawOf n s ∧ x.sameMedian.isSome)
    let far := match med with
      | some m => decide (getF (pwrF Reg.Pwr.thmDisagree) s * 32 < (2 * v - m).natAbs)
      | none => false
    { x with
      lastAt := now s, apart := if far then x.apart + 1 else 0, sameSince := if same then x.sameSince else now s
      sameMedian := if same then x.sameMedian else med }

/-- SENSOR_SAMPLE: the conversion of one sensor, or a conversion error. Two samples in a row of an unfaulted sensor at
its trip limit assert THERMTRIP_N and shut the rails (R364). -/
def sensorSample (n : Nat) (raw : Option Int) (s : State) : State :=
  let med := groupMedian n s
  let x := sampled n raw med s
  let kind := sampleKind raw x med s
  let s := match raw with | some v => setF (senF Reg.Pwr.senRaw n) (v % 65536).toNat s | none => s
  let s := match kind with | some k => sensorFault n k s | none => s
  let hot := match raw with
    | some v => if ¬ faulted n s ∧ tripLimit n ≤ v then x.hot + 1 else 0
    | none => 0
  let pass := match kind with | some _ => none | none => some (x.passSince.getD (now s))
  let s := updSensor n (fun _ => { x with hot := hot, passSince := pass }) s
  if 2 ≤ hot then
    let s := latchOff (.trip n) s
    { s with pins := { s.pins with thermtripN := false } }
  else s

def execSensorSample (n : Nat) (raw : Option (BitVec 16)) (s : State) : Host.Outcome State Fault Refusal :=
  if 71 < n then .fault .noSuchSensor else .next (sensorSample n (raw.map BitVec.toInt) s)

/-- SENSOR_SILENT_TIMEOUT: no new sample for 1 ms. -/
def sensorSilent (n : Nat) (s : State) : State :=
  if (sensorOf n s).lastAt + ticksMs 1 ≤ now s then
    updSensor n (fun x => { x with passSince := none }) (sensorFault n 1 s)
  else s

def execSensorSilentTimeout (n : Nat) (s : State) : Host.Outcome State Fault Refusal :=
  if 71 < n then .fault .noSuchSensor else .next (sensorSilent n s)

/-- SENSOR_FAULT_CLEAR: every test passed for 10 s without a break. -/
def sensorClear (n : Nat) (s : State) : State :=
  match (sensorOf n s).passSince with
  | some t => if t + ticksS 10 ≤ now s then setF (senF Reg.Pwr.senFault n) 0 s else s
  | none => s

def execSensorFaultClear (n : Nat) (s : State) : Host.Outcome State Fault Refusal :=
  if 71 < n then .fault .noSuchSensor else .next (sensorClear n s)

/-! ### Bands and thermal levels (R363, R366) -/

/-- Largest of some readings. -/
def maxReading (l : List Nat) (s : State) : Int :=
  match l with
  | [] => 0
  | a :: l => l.foldl (fun m k => max m (reading k s)) (reading a s)

/-- Reading of a source, by HOT code (Table 14-6): 0 to 7 region, 8 to 12 chiplet, 13 stage. -/
def sourceReading (k : Nat) (s : State) : Int :=
  if k < 8 then maxReading ((List.range 8).map fun i => 8 * k + i) s
  else if k < 13 then reading (56 + k) s
  else maxReading [69, 70, 71] s

/-- Lower limit of a band, in 1/16 °C: 45, 70, 90 and 105 °C. -/
def bandLimit (b : Nat) : Int := if b = 1 then 720 else if b = 2 then 1120 else if b = 3 then 1440 else 1680

/-- The highest band whose lower limit a temperature exceeds. -/
def bandFor (t : Int) : Nat :=
  if 1680 < t then 4 else if 1440 < t then 3 else if 1120 < t then 2 else if 720 < t then 1 else 0

def regF (f : Field) (r : Nat) : Field := pwrF (f.at (4 * r))

/-- BAND_CHANGE: the event, and the converters' cycles in progress are discarded (R94). -/
def bandChange (r b : Nat) (s : State) : State :=
  bandDiscard r (emitPart 0x0602 (r * 256 + b) (setF (regF Reg.Pwr.regBand r) b s))

/-- T_r lies below the lower limit of the band less the hysteresis. -/
def belowBand (b : Nat) (t : Int) (s : State) : Bool :=
  decide (0 < b) && decide (t < bandLimit b - 16 * getF (pwrF Reg.Pwr.thmBandHyst) s)

/-- Keep since when T_r is below the fall limit of the band in force. -/
def trackBelow (r : Nat) (t : Int) (s : State) : State :=
  let low := belowBand (bandOf r s) t s
  updPwr (fun p => { p with below := SMap.upd dfltNone p.below r (fun o => if low then some (o.getD (now s)) else none) }) s

/-- Least throttle level of a band (Table 14-5). -/
def leastLevel (b : Nat) (s : State) : Nat := if b = 4 then getF (pwrF Reg.Pwr.thmBand4L) s else 0

/-- A limit of "at most once per" has passed since the time it was last used. -/
def due (last : Option Nat) (ticks : Nat) (s : State) : Bool :=
  match last with | some t => decide (t + ticks ≤ now s) | none => true

/-- The thermal level of a region after one update (R366), and whether it rose by 1 or fell. -/
def levelUpdate (r : Nat) (t : Int) (s : State) : Nat × Bool × Bool :=
  let l := getF (regF Reg.Pwr.regLth r) s
  let least := leastLevel (bandOf r s) s
  let thr : Int := getF (pwrF Reg.Pwr.thmThrottle) s
  if thr + 80 ≤ t then (max least (min 12 (l + 2)), false, false)
  else if thr ≤ t then
    if due (SMap.get dfltNone s.pwr.lastUp r) (ticksMs 1) s then (max least (min 12 (l + 1)), true, false)
    else (max least l, false, false)
  else if t < thr - 32 ∧ least < l then
    if due (SMap.get dfltNone s.pwr.lastDown r) (ticksMs 10) s then (max least (l - 1), false, true) else (max least l, false, false)
  else (max least l, false, false)

/-- The 100 µs update of one region. -/
def regionUpdate (s : State) (r : Nat) : State :=
  let t := sourceReading r s
  let s := setF (regF Reg.Pwr.regTemp r) (t % 65536).toNat s
  let s := if bandOf r s < bandFor t then
      bandChange r (bandFor t) (updPwr (fun p => { p with below := SMap.set dfltNone p.below r none }) s) else s
  let s := trackBelow r t s
  let u := levelUpdate r t s
  let s := setF (regF Reg.Pwr.regLth r) u.1 s
  updPwr (fun p => { p with
    lastUp := if u.2.1 then SMap.set dfltNone p.lastUp r (some (now s)) else p.lastUp
    lastDown := if u.2.2 then SMap.set dfltNone p.lastDown r (some (now s)) else p.lastDown }) s

/-- Add the sources' readings to the sums of the second (R370). -/
def addReadings (s : State) : State :=
  updPwr (fun p => { p with
    tCount := p.tCount + 1
    tSum := (List.range 14).foldl (fun m k => SMap.upd dfltInt m k (fun v => v + sourceReading k s)) p.tSum }) s

/-- THERMAL_UPDATE. -/
def thermalUpdate (s : State) : State := addReadings ((List.range 8).foldl regionUpdate s)

def execThermalUpdate (s : State) : Host.Outcome State Fault Refusal := .next (thermalUpdate s)

/-- BAND_FALL: T_r has stayed below the limit for 1 s. -/
def bandFall (r : Nat) (s : State) : State :=
  let b := bandOf r s
  match SMap.get dfltNone s.pwr.below r with
  | some t =>
    if 0 < b ∧ t + ticksS 1 ≤ now s then
      let s := updPwr (fun p => { p with
        topBand := SMap.upd dfltZero p.topBand r (fun v => max v b), below := SMap.set dfltNone p.below r none }) s
      trackBelow r (BitVec.ofNat 16 (getF (regF Reg.Pwr.regTemp r) s)).toInt (bandChange r (b - 1) s)
    else s
  | none => s

def execBandFall (r : RegionIx) (s : State) : Host.Outcome State Fault Refusal := .next (bandFall r.toNat s)

/-! ### Power level (R367) -/

/-- The level changes; POWER_THROTTLE when it leaves 0 and when it returns to 0; the arbiter looks again (R374). -/
def setLp (v : Nat) (s : State) : State :=
  let old := lp s
  let s := setF (pwrF Reg.Pwr.lp) v s
  let d := if s.pwr.peak then 256 else 0
  if old = 0 ∧ 0 < v then emitPart 0x0603 (d + 1) s
  else if 0 < old ∧ v = 0 then arbitrate (emitPart 0x0603 d s)
  else s

/-- Mean of the last 100 µs in µW. -/
def meanUw (s : State) : Nat := if s.pwr.samples.isEmpty then 0 else s.pwr.samples.sum * 1000 / s.pwr.samples.length

/-- LIM in µW. -/
def limUw (s : State) : Nat := getF (pwrF Reg.Pwr.lim) s * 250000

/-- X has reached BUCKET: L_p rises by 2 at once and every 100 µs while it stays there. -/
def bucketRule (s : State) : State :=
  if getF (pwrF Reg.Pwr.limBucket) s * 1000000 ≤ s.pwr.excess then
    if due s.pwr.overAt (ticksUs 100) s then
      let s := lifeAdd 0x660 8 1 (addF (pwrF Reg.Pwr.bucketCnt) 1 s)
      setLp (min 12 (lp s + 2)) (updPwr (fun p => { p with overAt := some (now s), peak := false }) s)
    else s
  else updPwr (fun p => { p with overAt := none }) s

/-- A peak of power or of input current: L_p := 12. -/
def peakRule (mW mA : Nat) (s : State) : State :=
  if 1450000 < mW ∨ 42000 < mA then
    setLp 12 (updPwr (fun p => { p with peak := true }) (lifeAdd 0x658 8 1 (addF (pwrF Reg.Pwr.peakCnt) 1 s)))
  else s

/-- L_p falls by 1, at most once per 1 ms. -/
def easeRule (s : State) : State :=
  if 0 < lp s ∧ meanUw s + 50000000 < limUw s ∧ 2 * s.pwr.excess < getF (pwrF Reg.Pwr.limBucket) s * 1000000 ∧
      due s.pwr.easeAt (ticksMs 1) s then
    setLp (lp s - 1) (updPwr (fun p => { p with easeAt := some (now s) }) s)
  else s

/-- POWER_SAMPLE: input power in mW, current in mA and voltage in 10 mV, every 10 µs. -/
def powerSample (mW mA vin : Nat) (s : State) : State :=
  let lim := getF (pwrF Reg.Pwr.lim) s * 250
  let s := updPwr (fun p => { p with
    vin10mV := vin, samples := mW :: p.samples.take 9, pSum := p.pSum + mW, pCount := p.pCount + 1
    excess := p.excess + 10 * mW - 10 * lim }) s
  let peaks := decide (1450000 < mW ∨ 42000 < mA)
  let s := peakRule mW mA (bucketRule s)
  if peaks then s else easeRule s

def execPowerSample (mW mA : Nat) (vin : BitVec 16) (s : State) : Host.Outcome State Fault Refusal :=
  .next (powerSample mW mA vin.toNat s)

/-! ### Wave pauses (R368) -/

/-- Limit of a chiplet or stage source in 1/16 °C. -/
def sourceLimit (k : Nat) (s : State) : Int :=
  if k < 8 then getF (pwrF Reg.Pwr.thmThrottle) s
  else if k < 13 then 16 * getF (pwrF Reg.Pwr.thmChipMax) s
  else 16 * getF (pwrF Reg.Pwr.thmStageMax) s

/-- Chiplet and stage sources. -/
def waveSources : List Nat := [8, 9, 10, 11, 12, 13]

/-- A source at its limit. -/
def waveHot (s : State) : Option Nat := waveSources.find? fun k => decide (sourceLimit k s ≤ sourceReading k s)

/-- Every source is at least 2 °C below its limit. -/
def waveCool (s : State) : Bool := waveSources.all fun k => decide (sourceReading k s + 32 ≤ sourceLimit k s)

/-- The level changes and WAVE_PAUSE reports it, with the source. -/
def setWave (v src : Nat) (s : State) : State :=
  emitPart 0x0605 (src * 256 + v) (setF (pwrF Reg.Pwr.waveLevel) v s)

/-- WAVE_LEVEL_UPDATE: up by 1 per 1 ms at a limit, to at most 12; down by 1 per 10 ms once 2 °C below. -/
def waveLevelUpdate (s : State) : State :=
  let l := getF (pwrF Reg.Pwr.waveLevel) s
  match waveHot s with
  | some k =>
    if l < 12 ∧ due s.pwr.waveUp (ticksMs 1) s then
      setWave (l + 1) k (updPwr (fun p => { p with waveUp := some (now s), waveSrc := k }) s)
    else s
  | none =>
    if 0 < l ∧ waveCool s ∧ due s.pwr.waveDown (ticksMs 10) s then
      setWave (l - 1) s.pwr.waveSrc (updPwr (fun p => { p with waveDown := some (now s) }) s)
    else s

def execWaveLevelUpdate (s : State) : Host.Outcome State Fault Refusal := .next (waveLevelUpdate s)

/-- WAVE_HOLD_RELEASE: the hold on a wave's first input has expired. -/
def waveHoldRelease (n : Nat) (s : State) : State :=
  updPwr (fun p => { p with held := p.held.filter fun x => ¬ (x.1 = n ∧ x.2 ≤ now s) }) s

def execWaveHoldRelease (n : Nat) (s : State) : Host.Outcome State Fault Refusal := .next (waveHoldRelease n s)

/-! ### Headroom (R35, R189, R369, R370) -/

/-- FP32 bits of num ÷ den. -/
def ratF32 (num : Int) (den : Nat) : Nat := signed fp32 (decide (num < 0)) (encodeFrac fp32 num.natAbs den 0)

/-- H in µW: LIM − PMEAS − (ALLOW − M) − X ÷ 10 ms. -/
def headroomUw (s : State) : Int :=
  (limUw s : Int) - meanUw s - ((getF (pwrF Reg.Pwr.mntAllow) s * 250000 : Nat) - (claims s * 1000 : Nat) : Int) - (s.pwr.excess / 10 : Nat)

/-- θ in 1/16 °C and HOT: the source of least margin, the lowest code among equals. -/
def thetaHot (s : State) : Int × Nat :=
  (List.range 13).foldl (fun b i =>
    let m := sourceLimit (i + 1) s - sourceReading (i + 1) s
    if m < b.1 then (m, i + 1) else b) (sourceLimit 0 s - sourceReading 0 s, 0)

/-- R_th of a source in n°C per W. -/
def rthOf (k : Nat) (s : State) : Nat := SMap.get dfltRth s.pwr.rth k

/-- The estimate is held: PWR_COOLANT more than 10 s old, or P_mean below 200 W. -/
def rthHeld (s : State) : Bool :=
  (match s.pwr.coolantAt with | some t => decide (t + ticksS 10 < now s) | none => true) || decide (s.pwr.pMean < 200000)

/-- A wave pause, a faulted sensor, a level: FLAGS of Table 14-6. -/
def headroomFlags (s : State) : Nat :=
  (if 0 < lp s then 1 else 0) + (if (List.range 8).any (fun r => decide (0 < getF (regF Reg.Pwr.regLth r) s)) then 2 else 0) +
    (if 0 < getF (pwrF Reg.Pwr.waveLevel) s then 4 else 0) + (if (List.range 72).any (fun n => faulted n s) then 8 else 0) +
    (if rthHeld s then 16 else 0)

/-- The 32 bytes of the headroom word (Table 14-6). -/
def headroomWord (s : State) : List Byte :=
  let t := thetaHot s
  leBytes 4 (s.pwr.pub % 2 ^ 32) ++ leBytes 4 (ratF32 (headroomUw s) 1000000) ++ leBytes 4 (ratF32 t.1 16) ++
    leBytes 4 (ratF32 (rthOf t.2 s) 1000000000) ++ leBytes 4 (ratF32 (meanUw s) 1000000) ++ leBytes 1 t.2 ++
    leBytes 1 (headroomFlags s) ++ leBytes 2 0 ++ leBytes 8 (now s)

/-- κ + 2^−KSHIFT × (P_meas ÷ P_pred − κ), limited to 0.80 to 1.25 and rounded once to FP32; P_pred is the prediction
without κ, 1.09 × E ÷ T, of the oldest step in flight (R189). -/
def kappaNext (energy time : Nat) (s : State) : Nat :=
  match f32 (getF (Reg.Sch.kappa.at schBase) s) with
  | .fin _ m e =>
    let q := scaleFrac m 1 e
    let sh := 2 ^ getF (Reg.Sch.budKshift.at schBase) s
    let rn := meanUw s * time * 100
    let rd := max 1 (109 * energy * 1000000)
    let num := q.1 * (sh - 1) * rd + rn * q.2
    let den := q.2 * rd * sh
    if num * 5 < 4 * den then ratF32 4 5 else if 5 * den < 4 * num then ratF32 5 4 else ratF32 num den
  | _ => getF (Reg.Sch.kappa.at schBase) s

/-- KAPPA_UPDATE: a period without a step leaves κ as it is. -/
def kappaUpdate (s : State) : State :=
  match s.sched.steps.find? fun r => r.plan.step < lostBase with
  | some r =>
    match r.plan.preds.find? fun p => p.pos = myPos s with
    | some p => if p.energy = 0 then s else setF (Reg.Sch.kappa.at schBase) (kappaNext p.energy p.time s) s
    | none => s
  | none => s

/-- Tell the head part of an instance this part's values (type 0x15), or take them where this part is the head. -/
def tellHeadroom (n : Nat) (s : State) : State :=
  let t := thetaHot s
  let theta : Int := t.1 * 62500
  let k := kappaOf (myPos s) s
  let pos := posFor n s
  if headFor n s then
    { s with sched := { s.sched with
        headroom := SMap.set dfltHead s.sched.headroom pos ⟨headroomUw s, theta, rthOf t.2 s, k, 0⟩ } }
  else
    sendTo (headPodFor n s) 0x15 0 0 1 (.headroom pos (ratF32 (headroomUw s) 1000000) (ratF32 t.1 16) (ratF32 (rthOf t.2 s) 1000000000)
      (getF (Reg.Sch.kappa.at schBase) s)) s

/-- HEADROOM_PUBLISH: management firmware writes one headroom word; the first fresh word clears HDRM_STALE. -/
def headroomPublish (s : State) : State :=
  if isSet Reg.Glb.mgmtFwRun s then
    let s := updPwr (fun p => { p with
      pub := p.pub + 1, pubAt := some (now s), rthBits := ratF32 (rthOf (thetaHot s).2 s) 1000000000 }) s
    let s := storeSram (getF (pwrF Reg.Pwr.hdrmAddr) s * 32) (headroomWord s) (meterAdd 0xFFFF 5 32 s)
    let s := if isSet Reg.Glb.ctrlRun s then kappaUpdate s else s
    let s := if isSet Reg.Glb.imageActive s then tellHeadroom 0 s else s
    let s := if isSet (Reg.Lnk.pairPromoted.at lnkBase) s then tellHeadroom lostBase s else s
    if isSet Reg.Glb.hdrmStale s then emitPart 0x0006 0 (setF Reg.Glb.hdrmStale 0 s) else s
  else s

def execHeadroomPublish (s : State) : Host.Outcome State Fault Refusal := .next (headroomPublish s)

/-- HEADROOM_STALE_TIMEOUT: the newest word is more than 1 ms old; the sequencer sets HDRM_STALE. -/
def headroomStale (s : State) : State :=
  if isSet Reg.Glb.ctrlRun s ∧ ¬ isSet Reg.Glb.hdrmStale s ∧ s.pwr.pubAt.getD 0 + ticksMs 1 < now s then
    emitPart 0x0006 1 (setF Reg.Glb.hdrmStale 1 s)
  else s

def execHeadroomStaleTimeout (s : State) : Host.Outcome State Fault Refusal := .next (headroomStale s)

/-- The coolant temperature in n°C, where PWR_COOLANT is a finite number. -/
def coolantN (s : State) : Option Int :=
  match f32 (getF (pwrF Reg.Pwr.coolant) s) with
  | .fin neg m e =>
    let q := scaleFrac (m * 1000000000) 1 e
    some (if neg then -((q.1 / q.2 : Nat) : Int) else (q.1 / q.2 : Nat))
  | _ => none

/-- One source's estimate after a second: R_th + (R_i − R_th) ÷ 8, limited to 0.010 to 0.200 °C per W. -/
def rthNext (k : Nat) (cool : Int) (s : State) : Nat :=
  let mean := SMap.get dfltInt s.pwr.tSum k * 1000000000 / (16 * (max s.pwr.tCount 1 : Nat) : Int)
  let ri := (mean - cool) * 1000 / (max s.pwr.pMean 1 : Nat)
  let r : Int := rthOf k s
  (max 10000000 (min 200000000 (r + (ri - r) / 8))).toNat

/-- RTH_UPDATE: every second, with the seconds of the lifetime record. -/
def rthUpdate (s : State) : State :=
  let s := updPwr (fun p => { p with pMean := if p.pCount = 0 then 0 else p.pSum / p.pCount }) s
  let s := match coolantN s with
    | some c =>
      if rthHeld s ∨ s.pwr.tCount = 0 then s
      else updPwr (fun p => { p with rth := (List.range 14).foldl (fun m k => SMap.set dfltRth m k (rthNext k c s)) p.rth }) s
    | none => s
  let s := updPwr (fun p => { p with tSum := [], tCount := 0, pSum := 0, pCount := 0 }) s
  (List.range 8).foldl (fun s r => lifeAdd (0x50 + 4 * (5 * r + bandOf r s)) 4 1 s) (lifeAdd 0x10 8 1 s)

def execRthUpdate (s : State) : Host.Outcome State Fault Refusal := .next (rthUpdate s)

/-- ALERT_N is low while a region is in band 4, a sensor is faulted, L_p or L_w is above 0, or the fault-collector queue
holds an entry (R364). -/
def alertN (s : State) : Bool :=
  !((List.range 8).any (fun r => decide (bandOf r s = 4)) || (List.range 72).any (fun n => faulted n s) || decide (0 < lp s) ||
    decide (0 < getF (pwrF Reg.Pwr.waveLevel) s) || !(s.flt.queue.isEmpty))

end Sys2Proof.Machine
end

