-- ==== Sys2Proof/Machine/Weights.lean ====
section
/-! DEFINITION. Weight images and epochs: the chain of checks, programming, readback, spares, repair, retirement, drift
and the epoch slots (chapter 09; R64 to R67, R447, R448). -/

namespace Sys2Proof.Machine
open Sys2Proof

def wgtF (f : Field) : Field := f.at wgtBase

/-- SHAKE256 of the part's identity certificate, IDDIG (Table 16-1). -/
def idDigest : List Byte := Config.shake256 (Config.certificate 0)

/-- Change the install or attach in progress. -/
def updInst (f : InstRec → InstRec) (s : State) : State :=
  { s with wgt := { s.wgt with inst := s.wgt.inst.map f } }

/-- Erase a slot's model key: overwritten, its engine slot cleared (R401). -/
def eraseKey (n : Nat) (s : State) : State :=
  { s with sec := { s.sec with slotKeys := s.sec.slotKeys.filter fun x => ¬ x = n } }

/-- The array holds, or is reserved for, a block of a slot. -/
def ofSlot (n : Nat) (b : Option BlockRef) : Bool := match b with | some x => x.slot = n | none => false

/-- Arrays that hold or are reserved for a block of a slot, or program one. -/
def slotArrays (n : Nat) (s : State) : List Nat :=
  s.arrs.filterMap fun e => if ofSlot n e.2.hold ∨ ofSlot n e.2.reserved then some e.1 else none

/-- An install or attach is over. -/
def instEnd (s : State) : State :=
  match s.wgt.inst with
  | some x =>
    setF (wgtF Reg.Wgt.busy) 0 { s with wgt := { s.wgt with
      inst := none, lost := s.wgt.lost.filter fun l => ¬ l.1 = x.slot } }
  | none => s

/-- The error of a failing command: WGT_STAT.ERR, ERRSLOT and WGT_INSTALL_FAIL (R254). -/
def wgtError (slot code : Nat) (s : State) : State :=
  emitPart 0x0202 (slot * 2 ^ 24 + code) (setF (wgtF Reg.Wgt.err) code (setF (wgtF Reg.Wgt.errSlot) slot s))

/-- An array of a failed install returns to its state of an EMPTY slot: nothing held, no program (R238). A spare that
took a retired array's block is free again. -/
def dropInstall (a : Nat) (s : State) : State :=
  updArr a (fun r => { r with hold := none, job := if r.job = some .install then none else r.job,
                              reserved := if r.spareSlot.isSome then none else r.reserved }) s

/-- An install fails (R238): the slot is FAILED and its key discarded; a failed attach leaves the slot DORMANT. -/
def failInst (code : Nat) (s : State) : State :=
  match s.wgt.inst with
  | none => s
  | some x =>
    let s := wgtError x.slot code (eraseKey x.slot (instEnd s))
    if x.attach then setSlot x.slot { slotRec x.slot s with attachEnded := true } s
    else
      let s := setSlot x.slot { slotRec x.slot s with state := .failed } s
      let s := (slotArrays x.slot s).foldl (fun s a => dropInstall a s) s
      let stop := fun (m : MntAct) => match m with | .install _ => true | _ => false
      arbitrate { s with mnt := { s.mnt with granted := s.mnt.granted.filter fun g => !(stop g.act) } }

/-! ### Commands of WGT_CMD (R254, R255) -/

/-- The placement of a slot in the image in force. -/
def placementOf (n : Nat) (s : State) : Option Placement :=
  match s.ens.image with | some i => i.placements.find? fun p => p.slot = n | none => none

/-- An INSTALL or ATTACH is taken at all: none in progress and an image ACTIVE (R255). -/
def wgtOpen (s : State) : Bool := s.wgt.inst.isNone && isSet Reg.Glb.imageActive s

/-- The part refuses what needs the identity region's keys: IDFAIL, or debug unlocked (R394, R406). -/
def keysRefused (s : State) : Bool := isSet Reg.Glb.secIdFail s || isSet Reg.Glb.secDebug s

/-- Begin an install or attach. -/
def beginInst (n : Nat) (attach : Bool) (s : State) : State :=
  setF (wgtF Reg.Wgt.busy) 1 { s with wgt := { s.wgt with inst := some ⟨n, attach, .root, none, [], [], [], [], none⟩ } }

/-- The slot's arrays overlap those of another resident epoch. -/
def overlaps (n : Nat) (s : State) : Bool :=
  s.arrs.any fun e => ofSlot n e.2.reserved && (match e.2.hold with | some b => b.slot ≠ n | none => false)

/-- WGT_INSTALL. -/
def wgtInstall (n : Nat) (s : State) : State :=
  if ¬ wgtOpen s then countIgnored (wgtBase + 4) s
  else if (slotRec n s).state ≠ .empty then wgtError n 12 s
  else
    let dig := match placementOf n s with | some p => p.digest | none => []
    let r : EpSlot := { dfltSlot 0 with state := .installing, num := getF (wgtF Reg.Wgt.instEp) s, placement := dig }
    let none' : ImgTables := ⟨[], []⟩
    let s := beginInst n false (setSlot n r { s with wgt := { s.wgt with tables := SMap.set dfltTables s.wgt.tables n none' } })
    if (placementOf n s).isNone then failInst 8 s
    else if overlaps n s then failInst 8 s
    else if keysRefused s then failInst 3 s
    else s

def execWgtInstall (n : EpochSlot) (s : State) : Host.Outcome State Fault Refusal := .next (wgtInstall n.toNat s)

/-- WGT_ATTACH. -/
def wgtAttach (n : Nat) (s : State) : State :=
  if ¬ wgtOpen s ∨ (slotRec n s).state ≠ .dormant then countIgnored (wgtBase + 4) s
  else
    let s := beginInst n true s
    if keysRefused s then failInst 3 s else s

def execWgtAttach (n : EpochSlot) (s : State) : Host.Outcome State Fault Refusal := .next (wgtAttach n.toNat s)

/-- No sequence holds the epoch, as far as the part knows: the head part's live count, elsewhere its notice. -/
def epochIdle (e : Nat) (s : State) : Bool := if isHead s then epochLive e s = 0 else !(s.wgt.live.contains e)

/-- An array of a released epoch returns to SPARE or UNMAPPED; a spare being programmed for it is free again. -/
def releaseArray (a : Nat) (s : State) : State :=
  let r := arrOf a s
  let s := match r.heir with
    | some h => if (arrOf h s).job = some (.spareFor a true) ∨ (arrOf h s).job = some (.spareFor a false) then
        updArr h (fun x => { x with job := none }) s else s
    | none => s
  if r.hold.isNone then s
  else
    let s := updArr a (fun x => { x with hold := none, heir := none, heirReady := false, past := none, age := 0, overdue := false }) s
    if ¬ serves a s then s else if r.spareSlot.isSome ∧ r.reserved.isNone then toSpare a s else setArrState a 0 s

/-- Bunting banks with the epoch's tag are cleared where no wave names them (Table 9-8, R166). -/
def clearBanks (e : Nat) (s : State) : State :=
  { s with banks := s.banks.filter fun b =>
      !(b.2.kind ≠ 0 && b.2.version == e % 65536 && bankRefs (b.1 / 2) (b.1 % 2 == 1) s == 0) }

/-- WGT_RELEASE. -/
def wgtRelease (n : Nat) (s : State) : State :=
  let r := slotRec n s
  match r.state with
  | .failed => setSlot n (dfltSlot n) s
  | .empty => countIgnored (wgtBase + 4) s
  | .installing => countIgnored (wgtBase + 4) s
  | _ =>
    if ¬ epochIdle r.num s ∨ getF (wgtF Reg.Wgt.epoch) s = r.num then countIgnored (wgtBase + 4) s
    else
      let s := if (s.wgt.inst.map fun i => i.slot) = some n then instEnd s else s
      let s := (slotArrays n s).foldl (fun s a => releaseArray a s) s
      let s := { s with wgt := { s.wgt with
        tables := SMap.set dfltTables s.wgt.tables n (dfltTables n), clearing := r.num :: s.wgt.clearing
        lost := s.wgt.lost.filter fun l => ¬ l.1 = n } }
      emitPart 0x0203 r.num (arbitrate (clearBanks r.num (eraseKey n (setSlot n (dfltSlot n) s))))

def execWgtRelease (n : EpochSlot) (s : State) : Host.Outcome State Fault Refusal := .next (wgtRelease n.toNat s)

/-- WGT_ABORT. -/
def wgtAbort (n : Nat) (s : State) : State :=
  if (slotRec n s).state = .installing ∧ (s.wgt.inst.map fun i => i.slot) = some n then failInst 14 s
  else countIgnored (wgtBase + 4) s

def execWgtAbort (n : EpochSlot) (s : State) : Host.Outcome State Fault Refusal := .next (wgtAbort n.toNat s)

/-- ADD_SPARE (R253). -/
def addSpare (a : Nat) (s : State) : State :=
  let r := arrOf a s
  if arrState a s ≠ 0 ∨ r.reserved.isSome ∨ atBudget a s ∨ r.adding then countIgnored (wgtBase + 4) s
  else requestAct (.diag a) (updArr a (fun r => { r with adding := true }) s)

def execAddSpare (a : ArrayIx) (s : State) : Host.Outcome State Fault Refusal := .next (addSpare a.toNat s)

/-! ### The manifest root (Tables 9-1 and 9-2) -/

/-- Little-endian number of `n` bytes at `a`. -/
def fieldAt (l : List Byte) (a n : Nat) : Nat := ofLe ((l.drop a).take n)

/-- A section table entry at an offset of the root. -/
def sectAt (l : List Byte) (a : Nat) : SectEntry := ⟨fieldAt l a 2, fieldAt l (a + 2) 2, (l.drop (a + 24)).take 64⟩

/-- Read a manifest root from its bytes. -/
def parseRoot (l : List Byte) : ImgRoot :=
  let n := fieldAt l 128 4
  let flags := fieldAt l 6 2
  let ns := fieldAt l 132 4
  { formOk := fieldAt l 0 4 = 0x57474D52 && fieldAt l 4 2 = 1 && l.length = 256 + 96 * n + 114 && decide (1 ≤ ns) && decide (ns ≤ 64)
    tiles := flags.testBit 0, streamed := flags.testBit 1, modelId := fieldAt l 8 16, imageVer := fieldAt l 24 8
    pubkey := (l.drop 32).take 57, keyCommit := (l.drop 96).take 32
    sects := (List.range n).map fun i => sectAt l (256 + 96 * i)
    signed := l.take (256 + 96 * n), sig := (l.drop (256 + 96 * n)).take 114 }

/-- The publisher is trusted: listed by the image in force, or recorded at the factory (Table 9-5, R245). -/
def trusted (pub : List Byte) (s : State) : Bool :=
  let d := Config.shake256 pub
  (match s.ens.image with | some i => (match i.trust with | some l => l.contains d | none => false) | none => false) ||
    (match s.sec.factory with | some f => f.2.1 == d | none => false)

/-- The image's PART section permits tile sections, and the streamed configuration (Table 10-3). -/
def permits (tiles streamed : Bool) (s : State) : Bool :=
  match s.ens.image with
  | some i => match i.part with | some p => (!tiles || p.tiles) && (!streamed || p.streamed) | none => !tiles && !streamed
  | none => !tiles && !streamed

/-- The image's MODEL_ID and IMAGE_VER are those of an epoch held (R235). -/
def heldImage (n : Nat) (x : ImgRoot) (s : State) : Bool :=
  s.wgt.slots.any fun e => e.1 ≠ n && (e.2.state = .installed || e.2.state = .dormant) && e.2.modelId == x.modelId && e.2.imageVer == x.imageVer

/-- The root arrives: an attach compares its digest first (R246); then checks 1 and 2, error 13 and error 11. -/
def rootCheck (b : List Byte) (x : InstRec) (s : State) : State :=
  let r := parseRoot b
  let d := Config.shake256 b
  if x.attach ∧ d ≠ (slotRec x.slot s).root then failInst 5 s
  else if ¬ r.formOk ∨ ¬ Config.ed448Verify r.pubkey (Config.shake256 r.signed) r.sig then failInst 1 s
  else if ¬ trusted r.pubkey s then failInst 2 s
  else if ¬ x.attach ∧ heldImage x.slot r s then failInst 13 s
  else if ¬ permits r.tiles r.streamed s then failInst 11 s
  else
    let e := slotRec x.slot s
    let s := setSlot x.slot { e with root := d, modelId := r.modelId, imageVer := r.imageVer, publisher := Config.shake256 r.pubkey, tiles := r.tiles } s
    updInst (fun y => { y with root := some r, phase := .wrap }) s

/-! ### The wrap record (Table 9-4) -/

/-- The label of KEYCOMMIT, little-endian as every number of the part. -/
def commitLabel : List Byte := leBytes 8 0x544D4B434F4D4D54

/-- Checks 3 and 4: the record names this part and the root's image, its tag verifies, and the key commitment holds. -/
def wrapCheck (b : List Byte) (key : Option (List Byte)) (x : InstRec) (s : State) : State :=
  match x.root with
  | none => s
  | some r =>
    if keysRefused s ∨ b.take 64 ≠ idDigest ∨ fieldAt b 180 16 ≠ r.modelId ∨ fieldAt b 196 8 ≠ r.imageVer then failInst 3 s
    else
      match key with
      | none => failInst 3 s
      | some k =>
        if (Config.shake256 (commitLabel ++ k)).take 32 ≠ r.keyCommit then failInst 4 s
        else
          updInst (fun y => { y with phase := .sections (List.range r.sects.length) })
            { s with sec := { s.sec with slotKeys := x.slot :: s.sec.slotKeys.filter fun z => ¬ z = x.slot } }

/-! ### Sections, placement and stores (checks 5 and 6) -/

/-- The tables of a slot. -/
def tablesOf (n : Nat) (s : State) : ImgTables := SMap.get dfltTables s.wgt.tables n

/-- A block's reference, for an epoch slot. -/
def refOf (n lslot : Nat) (b : BlockEntry) : BlockRef :=
  ⟨n, lslot, b.block, b.role, b.matrix, b.row0, b.rows, b.cols, b.col0⟩

/-- The block that a reference names, in the slot's tables. -/
def entryOf (b : BlockRef) (s : State) : Option BlockEntry :=
  ((tablesOf b.slot s).blocks.find? fun e => e.1 = b.layer ∧ e.2.block = b.block).map fun e => e.2

/-- Check 6: every block has exactly one placement entry, and every entry names a block (R266). -/
def placementOk (n : Nat) (s : State) : Bool :=
  match placementOf n s with
  | none => false
  | some p =>
    let es := p.entries.filter fun e => e.2.state = 1
    let bs := (tablesOf n s).blocks
    es.all (fun e => bs.any fun b => b.1 = e.2.layer && b.2.block = e.2.block) &&
      bs.all (fun b => (es.filter fun e => b.1 = e.2.layer && b.2.block = e.2.block).length = 1)

/-- The residues of a block that the parameter sections give, as a store. -/
def residuesOf (b : BlockRef) (l : List (Nat × BlockResidues)) : SMap Int :=
  match l.find? fun e => e.1 = b.layer ∧ e.2.block = b.block with
  | some e => e.2.vals.foldl (fun m x => SMap.set dfltInt m x.1 x.2) []
  | none => []

/-- The block an array holds or is reserved for, in a slot. -/
def slotBlock (n : Nat) (r : ArrRec) : Option BlockRef :=
  if ofSlot n r.hold then r.hold else if ofSlot n r.reserved then r.reserved else none

/-- Load the column parameters of the output pennants whose chains end columns of the slot's matrices (R133). -/
def loadColumns (n : Nat) (cols : List (Nat × ColumnEntry)) (s : State) : State :=
  match s.ens.image with
  | none => s
  | some i =>
    (i.pennants.getD []).foldl (fun s e =>
      if ¬ e.outEn then s
      else
        let arrs := (e.pnt :: e.chain).flatMap fun p => (List.range 16).map fun k => p * 16 + k
        match arrs.filterMap (fun a => slotBlock n (arrOf a s)) with
        | [] => s
        | b :: _ =>
          let put := fun (m : SMap (Option ColParam)) (c : Nat × ColumnEntry) =>
            if c.1 = b.layer ∧ c.2.matrix = b.matrix ∧ b.col0 ≤ c.2.column ∧ c.2.column < b.col0 + 512 then
              SMap.set dfltParam m (c.2.column - b.col0) (some ⟨c.2.x.toNat, c.2.m.toNat, c.2.bias.toNat⟩)
            else m
          updPnt e.pnt (fun q => { q with params := cols.foldl put q.params, badCols := [] }) s) s

/-- Arrays of a slot take what the tables say of their blocks. -/
def refineBlocks (n : Nat) (s : State) : State :=
  (slotArrays n s).foldl (fun s a =>
    let fix := fun (b : Option BlockRef) => match b with
      | some x => if x.slot = n then (match entryOf x s with | some e => some (refOf n x.layer e) | none => b) else b
      | none => b
    updArr a (fun r => { r with hold := fix r.hold, reserved := fix r.reserved }) s) s

/-- A block placed on a retired array goes to a spare of its hoist; without one the install fails with error 9. -/
def placeBlocks (n : Nat) (s : State) : Option State :=
  match placementOf n s with
  | none => some s
  | some p =>
    (p.entries.filter fun e => e.2.state = 1).foldl (fun o e =>
      match o with
      | none => none
      | some s =>
        let has := s.arrs.any fun x => match x.2.reserved with
          | some b => b.slot = n && b.layer = e.2.layer && b.block = e.2.block
          | none => false
        if has then some s
        else
          match chooseSpare e.1 s with
          | some sp => some (updArr sp (fun r => { r with reserved := some ⟨n, e.2.layer, e.2.block, e.2.role, 0, 0, 0, 0, 0⟩ }) s)
          | none => none) (some s)

/-- A start-up state that has let go of checking: the arrays of an attach may be checked (R447). -/
def checksOpen (s : State) : Bool := decide (5 ≤ getF Reg.Glb.state s)

/-- INSTALL completes while the part rests, or an epoch becomes INSTALLED there: SERVING (R448, Table 19-10). -/
def restToServe (s : State) : State :=
  if getF Reg.Glb.state s = 6 ∧ getF Reg.Glb.seqRun s ≠ 0 then setF Reg.Glb.state 7 s else s

/-- The attach passed: the slot is INSTALLED. -/
def attachDone (s : State) : State :=
  match s.wgt.inst with
  | none => s
  | some x =>
    restToServe (instEnd (setSlot x.slot { slotRec x.slot s with state := .installed, attachEnded := true } s))

/-- Start the array checks of an attach that has passed its checks, once the part is in CHECKING (R243, R447). -/
def startChecks (s : State) : State :=
  match s.wgt.inst with
  | some ⟨_, true, .checks left, _, _, _, _, _, _⟩ =>
    if ¬ checksOpen s then s
    else if left.isEmpty then attachDone s
    else left.foldl (fun s a => requestAct (.startup a) s) s
  | _ => s

/-- Install completes: every array is read back and every tile section is verified (Table 9-8). -/
def installCheck (s : State) : State :=
  match s.wgt.inst with
  | some ⟨n, false, .chunks, _, _, _, _, _, _⟩ =>
    let e := slotRec n s
    if e.readBack < e.arrays then s
    else
      let s := (slotArrays n s).foldl (fun s a =>
        if ofSlot n (arrOf a s).hold ∧ (arrState a s = 0 ∨ arrState a s = 7) then setArrState a 1 s else s) s
      let s := instEnd (setSlot n { e with state := .installed } s)
      restToServe (emitPart 0x0201 (n * 2 ^ 24 + e.num % 2 ^ 24) s)
  | _ => s

/-- Every section has been read: check 6, the stores, and the arrays' requests for their programs. -/
def sectionsDone (s : State) : State :=
  match s.wgt.inst with
  | none => s
  | some x =>
    let n := x.slot
    if x.attach then
      let s := loadColumns n x.columns (refineBlocks n s)
      let arrs := (slotArrays n s).filter fun a => serves a s && ofSlot n (arrOf a s).hold
      let s := arrs.foldl (fun s a => updArr a (fun r => match r.hold with
        | some b => { r with residues := residuesOf b x.residues, resBad := false }
        | none => r) s) s
      startChecks (updInst (fun y => { y with phase := .checks arrs }) s)
    else if ¬ placementOk n s then failInst 8 s
    else
      match placeBlocks n s with
      | none => failInst 9 s
      | some s =>
        let s := loadColumns n x.columns (refineBlocks n s)
        let arrs := (slotArrays n s).filter fun a => ofSlot n (arrOf a s).reserved
        let s := setSlot n { slotRec n s with arrays := arrs.length } s
        let s := updInst (fun y => { y with phase := .chunks }) s
        let s := arrs.foldl (fun s a => requestAct (.install a)
          (updArr a (fun r => { r with job := some .install, phase := .wantChunk, failedReads := 0 }) s)) s
        installCheck s

/-- Check 5 of one section, and what it loads. -/
def sectCheck (ix : Nat) (b : List Byte) (body : SectBody) (x : InstRec) (left : List Nat) (s : State) : State :=
  match x.root.bind (fun r => r.sects[ix]?) with
  | none => s
  | some e =>
    if ix ∉ left then s
    else if Config.shake256 b ≠ e.digest then failInst 5 s
    else
      let rest := left.filter fun i => ¬ i = ix
      let next := fun (s : State) => if rest.isEmpty then sectionsDone s else s
      match body with
      | .layer cs bs =>
        let add := fun (t : ImgTables) => ⟨t.blocks ++ bs.map fun b => (e.slot, b), t.chunks ++ cs.map fun c => (e.slot, c)⟩
        let s := { s with wgt := { s.wgt with tables := SMap.upd dfltTables s.wgt.tables x.slot add } }
        next (updInst (fun y => { y with phase := .sections rest }) s)
      | .params none => failInst 6 s
      | .params (some (rs, cs)) =>
        next (updInst (fun y => { y with
          phase := .sections rest, residues := y.residues ++ rs.map fun r => (e.slot, r), columns := y.columns ++ cs.map fun c => (e.slot, c) }) s)
      | .tile => next (updInst (fun y => { y with phase := .sections rest }) s)

/-! ### Chunks (checks 7 and 8, R239, R247 to R249) -/

/-- The block whose weights an array is to be programmed with. -/
def wantedBlock (a : Nat) (s : State) : Option BlockRef :=
  let r := arrOf a s
  match r.job with
  | some .install => r.reserved
  | some (.spareFor src _) => (arrOf src s).hold
  | some .repair => r.past
  | none => none

/-- The program grant that an array's program holds. -/
def programAct (a : Nat) (s : State) : Option MntAct :=
  s.mnt.granted.findSome? fun g =>
    let src := match (arrOf a s).job with | some (.spareFor x _) => x | _ => a
    if g.act = .spareProg src ∨ g.act = .touchUp src ∨ g.act = .repair a ∨ g.act = .install a then some g.act else none

/-- Arrays that hold a program grant and wait for a chunk of a layer slot of an epoch slot. -/
def wantChunk (n lslot ix : Nat) (s : State) : List Nat :=
  s.arrs.filterMap fun e =>
    if e.2.job.isSome ∧ e.2.phase = .wantChunk ∧ (programAct e.1 s).isSome then
      match wantedBlock e.1 s with
      | some b => if b.slot = n ∧ b.layer = lslot ∧ ((entryOf b s).map fun x => x.chunk) = some ix then some e.1 else none
      | none => none
    else none

/-- A data weight of a block: S4, −8 used as −7 (R42). -/
def weightAt (b : BlockEntry) (plain : List Byte) (r c : Nat) : Int :=
  if r < b.rows then max (-7) (sInt 4 (((plain[b.pos * 256 + r * 256 + c / 2]?).getD 0).toNat / 16 ^ (c % 2))) else 0

/-- Substitutions of −8 in a block (R42). -/
def clampedWeights (b : BlockEntry) (plain : List Byte) : Nat :=
  ((List.range b.rows).map fun r => ((List.range 512).filter fun c =>
    ((plain[b.pos * 256 + r * 256 + c / 2]?).getD 0).toNat / 16 ^ (c % 2) % 16 = 8).length).sum

/-- Sum of a group's weights in a row, its checksum c[r][g] and residue e[r][g]. -/
def groupSum (b : BlockEntry) (plain : List Byte) (r g : Nat) : Int :=
  ((List.range 32).map fun j => weightAt b plain r (32 * g + j)).sum
def checkLevel (b : BlockEntry) (plain : List Byte) (r g : Nat) : Int := (groupSum b plain r g + 16) / 32
def residueOf (b : BlockEntry) (plain : List Byte) (r g : Nat) : Int := groupSum b plain r g - 32 * checkLevel b plain r g

/-- The target levels of an array for a block: data, checksum and reference columns (R239). -/
def targetLevels (b : BlockEntry) (plain : List Byte) : SMap Int :=
  (List.range 1024).flatMap fun r =>
    (List.range 536).filterMap fun c =>
      let v := if c < 512 then weightAt b plain r c else if c < 528 then (if r < b.rows then checkLevel b plain r (c - 512) else 0)
        else Config.refPattern r (c - 528)
      if v = 0 then none else some (r * 1024 + c, v)

/-- Check 8: the residues of the decrypted block are those of the parameter section. -/
def residuesMatch (b : BlockEntry) (plain : List Byte) (m : SMap Int) : Bool :=
  (List.range b.rows).all fun r => (List.range 16).all fun g => residueOf b plain r g == SMap.get dfltInt m (r * 16 + g)

/-- Give an array its block's weights: it is programmed. -/
def feedArray (plain : List Byte) (s : State) (a : Nat) : State :=
  match wantedBlock a s with
  | none => s
  | some b =>
    match entryOf b s with
    | none => s
    | some e =>
      let res := match (arrOf a s).job with
        | some .install => (match s.wgt.inst with | some x => residuesOf b x.residues | none => [])
        | some (.spareFor src _) => (arrOf src s).residues
        | _ => (arrOf a s).residues
      if (arrOf a s).job = some .install ∧ ¬ residuesMatch e plain res then failInst 7 s
      else
        updArr a (fun r => { r with target := targetLevels e plain, residues := res, resBad := false, phase := .programming
                                    relax := getF (wgtF Reg.Wgt.pgmRelax) s, repass := getF (wgtF Reg.Wgt.pgmRepass) s })
          (countClamps (clampedWeights e plain) s)

/-- A component cannot be read, or a resident epoch's chunk fails check 7: NOSRC, the event, and the grants released
(R238, R249). -/
def sourceLost (n : Nat) (c : CompId) (s : State) : State :=
  let ix := match c with | .chunk _ i => i | _ => 0
  let arrs := match c with
    | .chunk l i => wantChunk n l i s
    | _ => []
  let s := arrs.foldl (fun s a => releaseProgram a s) s
  let s := { s with wgt := { s.wgt with
    lost := (n, c, now s) :: s.wgt.lost.filter fun l => ¬ (l.1 = n ∧ l.2.1 = c) } }
  arbitrate (emitPart 0x0206 (ix % 2 ^ 32) (setF (wgtF Reg.Wgt.noSrc) 1 s))

/-- The part installs the slot and is past its sections. -/
def installing (n : Nat) (s : State) : Bool :=
  match s.wgt.inst with | some ⟨m, false, .chunks, _, _, _, _, _, _⟩ => m = n | _ => false

/-- A chunk's digest mismatch in a broadcast install: ask again, and fail at the third (R248). -/
def chunkMismatch (lslot ix : Nat) (s : State) : State :=
  match s.wgt.inst with
  | none => s
  | some x =>
    let k := ((x.bad.find? fun b => b.1 = lslot ∧ b.2.1 = ix).map fun b => b.2.2).getD 0 + 1
    let s := addF (wgtF Reg.Wgt.bcRetxCnt) 1 s
    if 3 ≤ k then failInst 5 s
    else
      let s := updInst (fun y => { y with bad := (lslot, ix, k) :: y.bad.filter fun b => ¬ (b.1 = lslot ∧ b.2.1 = ix) }) s
      sendTo (x.reader.getD (headPod s)) 0x17 lslot 0 1 (.resend lslot ix) s

/-- Blocks of the slot still to be programmed that lie in a chunk. -/
def chunkNamed (n lslot ix : Nat) (s : State) : Bool :=
  s.arrs.any fun e => e.2.job = some .install && (match e.2.reserved with
    | some b => b.slot = n && b.layer = lslot && ((entryOf b s).map fun x => x.chunk) == some ix
    | none => false)

/-- A chunk arrives, read or broadcast: check 7, then the arrays that wait for it. -/
def chunkArrive (n lslot ix : Nat) (b : List Byte) (plain : Option (List Byte)) (bcast : Bool) (s : State) : State :=
  match (tablesOf n s).chunks.find? fun c => c.1 = lslot ∧ c.2.index = ix with
  | none => s
  | some c =>
    let own := installing n s
    if Config.shake256 b ≠ c.2.digest then
      if own then (if bcast then chunkMismatch lslot ix s else failInst 5 s)
      else if (wantChunk n lslot ix s).isEmpty then s else sourceLost n (.chunk lslot ix) s
    else if ¬ (own ∧ chunkNamed n lslot ix s) ∧ (wantChunk n lslot ix s).isEmpty then s
    else
      match plain with
      | none => if own then failInst 6 s else sourceLost n (.chunk lslot ix) s
      | some p =>
        let s := if own ∧ bcast then updInst (fun y => { y with kept := y.kept ++ [(lslot, ix, p)] }) s else s
        (wantChunk n lslot ix s).foldl (feedArray p) s

/-- Which component a component is. -/
def compId : ImgComp → CompId
  | .root _ => .root
  | .wrap _ _ => .wrap
  | .sect i _ _ => .sect i
  | .chunk l i _ _ => .chunk l i

/-- A component passes through its checks. -/
def takeComp (n : Nat) (c : ImgComp) (bcast : Bool) (s : State) : State :=
  match c, s.wgt.inst with
  | .chunk l i b p, _ => chunkArrive n l i b p bcast s
  | .root b, some x => if x.slot = n ∧ x.phase = .root then rootCheck b x s else s
  | .wrap b k, some x =>
    if x.slot = n ∧ x.phase = .wrap then
      let s := wrapCheck b k x s
      if s.wgt.inst.any fun y => y.phase = .sections [] then sectionsDone s else s
    else s
  | .sect i b d, some x => if x.slot = n then (match x.phase with | .sections left => sectCheck i b d x left s | _ => s) else s
  | _, none => s

/-- The component is one that the part reads now. -/
def compWanted (n : Nat) (c : CompId) (s : State) : Bool :=
  match c with
  | .chunk l i => installing n s || !(wantChunk n l i s).isEmpty
  | .root => s.wgt.inst.any fun x => x.slot = n && x.phase = .root
  | .wrap => s.wgt.inst.any fun x => x.slot = n && x.phase = .wrap
  | .sect i => s.wgt.inst.any fun x => x.slot = n && (match x.phase with | .sections left => left.contains i | _ => false)

/-- The reader sends a component once to every port of PEERMASK, without decrypting it (R247). -/
def sendComp (c : CompId) (s : State) : State :=
  if isSet (wgtF Reg.Wgt.bcReader) s ∧ c ≠ .wrap then
    let mask := getF (wgtF Reg.Wgt.bcPeerMask) s
    ((List.range 15).filter fun p => mask.testBit p).foldl (fun s p =>
      sendOn p ⟨0x20, false, true, 0xFFFF, myPod s, 0, 0, 0, 1, .component c⟩ s) s
  else s

/-- IMAGE_COMPONENT_READ: the read of a component completes, or gives no data. -/
def componentRead (n : Nat) (c : ImgComp) (readable : Bool) (s : State) : State :=
  if ¬ compWanted n (compId c) s then s
  else if ¬ readable then sourceLost n (compId c) s
  else takeComp n c false (sendComp (compId c) s)

def execImageComponentRead (n : EpochSlot) (c : ImgComp) (readable : Bool) (s : State) : Host.Outcome State Fault Refusal :=
  .next (componentRead n.toNat c readable s)

/-- Ask again for the grants of programs that wait for a chunk whose source was lost. -/
def rewant (n lslot ix : Nat) (s : State) : State :=
  let arrs := s.arrs.filterMap fun e =>
    match e.2.job, wantedBlock e.1 s with
    | some j, some b =>
      if e.2.phase = .wantChunk ∧ b.slot = n ∧ b.layer = lslot ∧ ((entryOf b s).map fun x => x.chunk) = some ix then
        some (e.1, if j = .install then MntAct.install e.1 else .repair e.1) else none
    | _, _ => none
  arrs.foldl (fun s x => requestAct x.2 s) s

/-- SOURCE_RETRY: 10 s after the last try the component is read again (R249). -/
def sourceRetry (n : Nat) (c : ImgComp) (readable : Bool) (s : State) : State :=
  match s.wgt.lost.find? fun l => l.1 = n ∧ l.2.1 = compId c with
  | none => s
  | some l =>
    if now s < l.2.2 + ticksS 10 then s
    else if ¬ readable then sourceLost n (compId c) s
    else
      let s := { s with wgt := { s.wgt with lost := s.wgt.lost.filter fun x => ¬ (x.1 = n ∧ x.2.1 = compId c) } }
      match c with
      | .chunk lslot i _ _ => rewant n lslot i s
      | _ => takeComp n c false (sendComp (compId c) s)

def execSourceRetry (n : EpochSlot) (c : ImgComp) (readable : Bool) (s : State) : Host.Outcome State Fault Refusal :=
  .next (sourceRetry n.toNat c readable s)

/-- IMAGE_COMPONENT: a receiver takes a broadcast component of the install in progress. -/
def imageComponent (src : Nat) (c : ImgComp) (s : State) : State :=
  match s.wgt.inst with
  | some x =>
    if isSet (wgtF Reg.Wgt.bcReceive) s ∧ ¬ x.attach ∧ compId c ≠ .wrap then
      takeComp x.slot c true (updInst (fun y => { y with reader := some src }) s)
    else s
  | none => s

def execImageComponent (src : BitVec 10) (c : ImgComp) (s : State) : Host.Outcome State Fault Refusal :=
  .next (imageComponent src.toNat c s)

/-- RESEND_REQUEST: the reader sends the chunk again to the part that asked. -/
def resendRequest (pod lslot ix : Nat) (s : State) : State :=
  if isSet (wgtF Reg.Wgt.bcReader) s then sendTo pod 0x20 lslot 0 1 (.component (.chunk lslot ix)) s else s

def execResendRequest (pod : BitVec 10) (lslot ix : Nat) (s : State) : Host.Outcome State Fault Refusal :=
  .next (resendRequest pod.toNat lslot ix s)

/-! ### Programming, rest and readback (R239 to R242, Table 2-8) -/

/-- An array whose grant came after its broadcast chunk takes the chunk that was kept. -/
def takeKept (a : Nat) (s : State) : State :=
  match wantedBlock a s, s.wgt.inst with
  | some b, some x =>
    if (arrOf a s).phase = .wantChunk ∧ (programAct a s).isSome then
      match (entryOf b s).bind fun e => x.kept.find? fun k => k.1 = b.layer ∧ k.2.1 = e.chunk with
      | some k => feedArray k.2.2 s a
      | none => s
    else s
  | _, _ => s

/-- An array that cannot keep its block: it retires, and the block goes on (Table 2-8, R238, R242). -/
def retireJob (a cause : Nat) (j : Job) (s : State) : State :=
  match j with
  | .install =>
    match (arrOf a s).reserved with
    | none => retire a cause s
    | some b =>
      let s := retire a cause (updArr a (fun r => { r with reserved := none }) s)
      match chooseSpare a s with
      | some sp => requestAct (.install sp) (updArr sp (fun r => { r with
          reserved := some b, job := some .install, phase := .wantChunk, failedReads := 0 }) s)
      | none => failInst 9 s
  | .spareFor src _ =>
    let s := updArr src (fun r => { r with heir := none, heirReady := false }) (retire a cause s)
    if arrState src s = 4 then enterQueued src s else s
  | .repair => retire a (if cause = 1 then 3 else cause) s

/-- ARRAY_PROGRAM_DONE: program-and-verify completes, and the array starts its rest; or a row fails it. -/
def programDone (a : Nat) (ok : Bool) (s : State) : State :=
  let s := takeKept a s
  let r := arrOf a s
  match r.job with
  | none => s
  | some j =>
    if r.phase ≠ .programming ∨ (programAct a s).isNone then s
    else
      let s := releaseProgram a (programCycle a (lifeAdd 0x670 8 1 (addF (wgtF Reg.Wgt.pgmCnt) 1 s)))
      let s := if ok then updArr a (fun r => { r with levels := r.target, phase := .resting, restAt := now s }) s else retireJob a 1 j s
      let s := if (getF (pntF Reg.Pnt.calStale (a / 16)) s).testBit (a % 16) then roundFirst a s else s
      arbitrate s

def execArrayProgramDone (a : ArrayIx) (ok : Bool) (s : State) : Host.Outcome State Fault Refusal :=
  .next (programDone a.toNat ok s)

/-- RELAX_END. -/
def relaxEnd (a : Nat) (s : State) : State :=
  let r := arrOf a s
  if r.job.isSome ∧ r.phase = .resting ∧ r.restAt + ticksS r.relax / 8 ≤ now s then
    requestAct (.readback a) (updArr a (fun r => { r with phase := .reading }) s)
  else s

def execRelaxEnd (a : ArrayIx) (s : State) : Host.Outcome State Fault Refusal := .next (relaxEnd a.toNat s)

/-- A readback passed. -/
def readbackPass (a : Nat) (j : Job) (s : State) : State :=
  match j with
  | .install =>
    let s := updArr a (fun r => { r with job := none, hold := r.reserved, past := none, age := 0, overdue := false }) s
    match (arrOf a s).hold with
    | some b => installCheck (setSlot b.slot { slotRec b.slot s with readBack := (slotRec b.slot s).readBack + 1 } s)
    | none => s
  | .spareFor src _ => updArr src (fun r => { r with heirReady := true }) s
  | .repair =>
    toSpare a (roundFirst a (markStale a (updArr a (fun r => { r with job := none, past := none }) s)))

/-- A readback failed: the rows are programmed again, or after REPASS failures the array retires (R242, R252). -/
def readbackFail (a rows : Nat) (j : Job) (s : State) : State :=
  let k := (arrOf a s).failedReads + 1
  let s := updArr a (fun r => { r with failedReads := k }) s
  if (arrOf a s).repass ≤ k then retireJob a 1 j s
  else if atBudget a s then retireJob a 2 j s
  else
    let s := addF (wgtF Reg.Wgt.rowRepCnt) rows (updArr a (fun r => { r with phase := .wantChunk }) s)
    requestAct (if j = .install then .install a else .repair a) s

/-- READBACK_DONE. -/
def readbackDone (a rows : Nat) (ok : Bool) (s : State) : State :=
  if ¬ holds (.readback a) s then s
  else
    let s := releaseAct (.readback a) s
    match (arrOf a s).job with
    | none => s
    | some j => touchUpStart (if ok then readbackPass a j s else readbackFail a rows j s)

def execReadbackDone (a : ArrayIx) (rows : BitVec 11) (ok : Bool) (s : State) : Host.Outcome State Fault Refusal :=
  .next (readbackDone a.toNat rows.toNat ok s)

/-- DIAGNOSTIC_READ_DONE: the diagnostic read of REVERIFY or of ADD_SPARE (Table 2-8, R253). -/
def diagnosticDone (a : Nat) (ok : Bool) (s : State) : State :=
  if ¬ holds (.diag a) s then s
  else
    let s := releaseAct (.diag a) s
    let wasReverify := decide (arrState a s = 5)
    let s := updArr a (fun r => { r with adding := false }) s
    if ok then
      let s := if wasReverify then markStale a (addF (pntF Reg.Pnt.nffCnt (a / 16)) 1 s) else s
      touchUpStart (arbitrate (toSpare a (updArr a (fun r => { r with past := none }) s)))
    else requestAct (.repair a) (setArrState a 6 s)

def execDiagnosticReadDone (a : ArrayIx) (ok : Bool) (s : State) : Host.Outcome State Fault Refusal :=
  .next (diagnosticDone a.toNat ok s)

/-- STARTUP_CHECK_DONE (R243, R447): an array that fails is queued; with the last one the attach has passed. -/
def startupDone (a : Nat) (ok : Bool) (s : State) : State :=
  if ¬ holds (.startup a) s then s
  else
    let s := releaseAct (.startup a) s
    let s := if ¬ ok ∧ (arrState a s = 1 ∨ arrState a s = 2) then enterQueued a s else s
    match s.wgt.inst with
    | some ⟨_, true, .checks left, _, _, _, _, _, _⟩ =>
      let rest := left.filter fun x => ¬ x = a && serves x s
      let s := updInst (fun y => { y with phase := .checks rest }) s
      if rest.isEmpty then attachDone s else s
    | _ => s

def execStartupCheckDone (a : ArrayIx) (ok : Bool) (s : State) : Host.Outcome State Fault Refusal :=
  .next (startupDone a.toNat ok s)

/-! ### Drift (R250, R251) -/

/-- Age of one second in a band, in the model's unit: Config.ageUnit ÷ I(b) (Table 9-7). -/
def ageStep (b : Nat) : Nat := if b = 0 then 7 else if b = 1 then 20 else if b = 2 then 84 else if b = 3 then 420 else 1680

/-- One array grows older; at 2.0 it is overdue, once. -/
def ageArray (s : State) (a : Nat) : State :=
  let r := arrOf a s
  if r.hold.isNone then s
  else
    let b := regionOf (a / 256)
    let age := r.age + ageStep (max (bandOf b s) (SMap.get dfltZero s.pwr.topBand b))
    if 2 * Config.ageUnit ≤ age ∧ ¬ r.overdue then
      emitPart 0x0204 a (addF (wgtF Reg.Wgt.overdueCnt) 1 (setF (wgtF Reg.Wgt.overdue) 1 (setArr a { r with age := age, overdue := true } s)))
    else setArr a { r with age := age } s

/-- DRIFT_AGE_TICK. -/
def driftTick (s : State) : State :=
  let s := (s.arrs.map fun e => e.1).foldl ageArray s
  touchUpStart { s with pwr := { s.pwr with topBand := [] } }

def execDriftAgeTick (s : State) : Host.Outcome State Fault Refusal := .next (driftTick s)

/-! ### Start-up and the ring command -/

/-- INITIAL_CALIBRATION_END (R447, Table 19-10). -/
def initialCalibrationEnd (s : State) : State :=
  if getF Reg.Glb.state s = 4 ∧ (usedHoists s).all (fun h => (List.range 16).all fun i => !(pntOf (h * 16 + i) s).initial) then
    startChecks (setF Reg.Glb.state 5 s)
  else s

def execInitialCalibrationEnd (s : State) : Host.Outcome State Fault Refusal := .next (initialCalibrationEnd s)

/-- ARRAY_QUEUE (Table 12-4). -/
def execArrayQueue (h : CmdHead) (a : BitVec 16) (s : State) : Host.Outcome State Fault Refusal :=
  .next (runCommand 6 h (arrayQueue a.toNat) s)

end Sys2Proof.Machine
end

