-- ==== Sys2Proof/Machine/Commit.lean ====
section
/-! DEFINITION. Commits of step-latched fields: what one value does when it applies, the cross-field rules of Table 10-10,
closing and discarding host commits (R274 to R281). -/

namespace Sys2Proof.Machine
open Sys2Proof

/-! ### Fields by key -/

/-- Offset of the register of a field key, and the field's lowest bit. -/
def keyOff (k : Nat) : Nat := k / 32
def keyLo (k : Nat) : Nat := k % 32

/-- The row of a field. -/
def specOf (k : Nat) : Option FieldSpec := (fieldsAt (keyOff k)).find? fun r => r.field.lo = keyLo k

/-- The value in force of a field. -/
def getKey (k : Nat) (s : State) : Nat := SMap.get resetField s.regs k

/-- Write a field by key, cut to its width. -/
def putKey (k v : Nat) (s : State) : State :=
  match specOf k with | some r => setF r.field v s | none => s

/-- The value used in place of a written one (Table 10-12). -/
def legal (k v : Nat) : Nat :=
  match specOf k with | some r => applyClamp r.clamp (locate (keyOff k)).2.1 (v % 2 ^ r.field.w) | none => v

/-- An image or shadow value after its clamp, which is counted with the register's offset. -/
def clamped (k v : Nat) (s : State) : Nat × State :=
  let w := legal k v
  (w, if w = v then s else countClamp (keyOff k) s)

/-! ### Layers on this part -/

/-- The layer of the block that an array holds or is reserved for. -/
def arrLayer (r : ArrRec) : Option Nat := match r.hold with | some b => some b.layer | none => r.reserved.map fun b => b.layer

/-- Pennants that hold arrays of a layer. -/
def layerPennants (l : Nat) (s : State) : List Nat :=
  ((s.arrs.filter fun e => arrLayer e.2 = some l).map fun e => e.1 / 16).eraseDups

/-- Pennants with the layers whose arrays they hold. -/
def pennantLayers (s : State) : List (Nat × Nat) :=
  (s.arrs.filterMap fun e => (arrLayer e.2).map fun l => (e.1 / 16, l)).eraseDups

/-- The array that holds the block which the image places on an array: the array itself, or the one it moved to. -/
def homeOf (a : Nat) (s : State) : Nat :=
  match s.ens.image with
  | none => a
  | some i =>
    match i.placements.findSome? (fun p => (p.entries.find? fun e => e.1 = a ∧ e.2.state = 1).map fun e => (p.slot, e.2)) with
    | none => a
    | some x =>
      match s.arrs.find? (fun e => match e.2.hold with
          | some b => b.slot = x.1 && b.layer = x.2.layer && b.block = x.2.block
          | none => false) with
      | some e => e.1
      | none => a

/-- Bytes of a layer parameter block (Table 10-5). -/
def layerBytes (l : LayerSection) : Nat := 256 + 4 * l.gamma.length + 4 * l.beta.length + 8 * l.freqs.length

/-- Where the part puts the parameter block of a layer slot: at the top of the activations-in-flight partition, the
image's layers one after another (R265). -/
def layerAddr (slot : Nat) (s : State) : Nat :=
  let ls := match s.ens.image with | some i => i.layers | none => []
  let before := ls.takeWhile fun l => ¬ l.slot = slot
  partBase 2 s - (ls.map layerBytes).sum + (before.map layerBytes).sum

/-- Address of the watch word of a layer: that of an output pennant of it (R143). -/
def watchAddr (l : Nat) (s : State) : Option Nat :=
  (layerPennants l s).findSome? fun p =>
    if isSet (pntF Reg.Pnt.outEn p) s then some (8 * getF (pntF Reg.Pnt.watchLayer p) s) else none

/-! ### Applying values -/

/-- A change of a layer's key/value format seals its open blocks, but those that a step in progress still writes; the
blocks of the plans still to start open anew (R207). The parameter block shows the format (R267). -/
def formatChange (l : Nat) (s : State) : State :=
  let busy := fun (q : Nat) => s.sched.steps.any fun r => r.started && r.plan.entries.any fun e => e.seq.toNat == q
  let s := sealWhere l (fun b => !(busy b.seq)) s
  let s := s.sched.steps.foldl (fun s r =>
    if r.started then s
    else r.plan.entries.foldl (fun s e =>
      if (slotsFor e.seq.toNat s).contains l then openFor e.ten.toNat e.seq.toNat l e.len (entryPositions e) (some r.plan.step) s else s) s) s
  if (layerOf l s).isSome then sramPut (layerAddr l s + 6) (leBytes 1 (getF (Reg.Kvc.lfmt.at (kvcBase + 4 * l)) s)) s else s

/-- The epoch is INSTALLED on every part of the instance (R256). -/
def installedAll (e : Nat) (s : State) : Bool :=
  installedHere e s && (List.range (routes s).length).all fun p => p = myPos s || s.wgt.peers.contains (p, e)

/-- WGT_EPOCH is refused where the epoch is not INSTALLED on every part; 0 is always taken (R256). -/
def epochSelect (v : Nat) (s : State) : State :=
  if v = 0 ∨ installedAll v s then setF (Reg.Wgt.epoch.at wgtBase) v s
  else countIgnored wgtBase (setF (Reg.Wgt.epRefuse.at wgtBase) 1 s)

/-- One value of a commit takes effect. -/
def applyValue (s : State) (x : Nat × Nat) : State :=
  let k := x.1
  let loc := locate (keyOff k)
  let o := keyOff k - loc.2.2
  let old := getKey k s
  if keyOff k = wgtBase then epochSelect x.2 s
  else
    let s := putKey k x.2 s
    if loc.1 = .pnt ∧ o = 0x014 then setF (Reg.Pnt.rndCtr.at loc.2.2) 0 s
    else if loc.1 = .vec ∧ o = 0x014 then setF (Reg.Vec.rndCtr.at loc.2.2) 0 s
    else if loc.1 = .vec ∧ o = 0x044 then setF (Reg.Vec.smpCtr.at loc.2.2) 0 s
    else if loc.1 = .kvc ∧ 0x100 ≤ o ∧ o < 0x200 ∧ ¬ getKey k s = old then formatChange ((o - 0x100) / 4) s
    else s

/-! ### Cross-field rules (Table 10-10) -/

/-- Replace a field by a smaller or larger one, and count the clamp. -/
def crossClamp (f : Field) (v : Nat) (s : State) : State :=
  if getF f s = v then s else countClamp f.off (setF f v s)

/-- Confidence: CONFIRM above DWELL clamps to DWELL. -/
def confirmRule (p : Nat) (s : State) : State :=
  let d := getF (pntF Reg.Pnt.chkDwell p) s
  if d < getF (pntF Reg.Pnt.chkConfirm p) s then crossClamp (pntF Reg.Pnt.chkConfirm p) d s else s

/-- The widest WIDTH of the pennants that share a layer with a pennant. -/
def widestFor (ls : List (Nat × Nat)) (p : Nat) (s : State) : Nat :=
  let mine := (ls.filter fun x => x.1 = p).map fun x => x.2
  ((ls.filter fun x => mine.contains x.2).map fun x => getF (pntF Reg.Pnt.width x.1) s).foldl max (getF (pntF Reg.Pnt.width p) s)

/-- One pass over the pennants. -/
def widenPass (ls : List (Nat × Nat)) (s : State) : State :=
  (ls.map fun x => x.1).eraseDups.foldl (fun s p => setF (pntF Reg.Pnt.width p) (widestFor ls p s) s) s

/-- Repeat the pass `n` times. -/
def widenPasses (ls : List (Nat × Nat)) : Nat → State → State
  | 0, s => s
  | n + 1, s => widenPasses ls n (widenPass ls s)

/-- Layer recipe: every pennant holding arrays of a layer takes one WIDTH, layers that share a pennant joined. -/
def widthRule (s : State) : State :=
  let ls := pennantLayers s
  let t := widenPasses ls (ls.map fun x => x.2).eraseDups.length s
  (ls.map fun x => x.1).eraseDups.foldl (fun s p => crossClamp (pntF Reg.Pnt.width p) (getF (pntF Reg.Pnt.width p) t) s) s

/-- Share: the share in force is SHARE in fixed mode and where auto mode starts (Table 7-11); MIN above MAX clamps to MAX;
in auto mode the share in force is limited to [MIN, MAX]. -/
def shareRule (start : Bool) (s : State) : State :=
  let s := if start ∨ ¬ isSet (Reg.Sch.ratioMode.at schBase) s then
      setF (Reg.Sch.ratioCur.at schBase) (getF (Reg.Sch.ratioShare.at schBase) s) s
    else s
  let mx := getF (Reg.Sch.ratioMax.at schBase) s
  let s := if mx < getF (Reg.Sch.ratioMin.at schBase) s then crossClamp (Reg.Sch.ratioMin.at schBase) mx s else s
  if isSet (Reg.Sch.ratioMode.at schBase) s then
    setF (Reg.Sch.ratioCur.at schBase) (clampRange (getF (Reg.Sch.ratioMin.at schBase) s) mx (getF (Reg.Sch.ratioCur.at schBase) s)) s
  else s

/-- Step size: MAXSEQ above MAXPOS clamps to MAXPOS. -/
def sizeRule (s : State) : State :=
  let mx := getF (Reg.Sch.limMaxPos.at schBase) s
  if mx < getF (Reg.Sch.limMaxSeq.at schBase) s then crossClamp (Reg.Sch.limMaxSeq.at schBase) mx s else s

/-- Key/value: HIWATER below LOWATER clamps to LOWATER. -/
def waterRule (s : State) : State :=
  let lo := getF (Reg.Kvc.loWater.at kvcBase) s
  if getF (Reg.Kvc.hiWater.at kvcBase) s < lo then crossClamp (Reg.Kvc.hiWater.at kvcBase) lo s else s

/-- Pennants that a list of values names. -/
def touchedPennants (l : List (Nat × Nat)) : List Nat :=
  (l.filterMap fun x => let loc := locate (keyOff x.1); if loc.1 = .pnt then some loc.2.1 else none).eraseDups

/-- Each group's rule on the values in force (R279). `start`: auto mode of the share starts here. -/
def groupRules (start : Bool) (s : State) : State := waterRule (sizeRule (shareRule start (widthRule s)))

/-- All the values of one commit, then each group's rule on the values in force (R279). -/
def applyValues (l : List (Nat × Nat)) (s : State) : State :=
  let start := !(isSet (Reg.Sch.ratioMode.at schBase) s)
  let s := l.foldl applyValue s
  groupRules start ((touchedPennants l).foldl (fun s p => confirmRule p s) s)

/-! ### Host commits (R275, R276) -/

def updCfg (f : CfgState → CfgState) (s : State) : State := { s with cfg := f s.cfg }

/-- COMMIT_DISCARD: uncommitted shadows return to the values in force. -/
def commitDiscard (s : State) : State := updCfg (fun c => { c with shadows := [] }) s

def execCommitDiscard (s : State) : Host.Outcome State Fault Refusal := .next (commitDiscard s)

/-- GO closes a commit of every uncommitted shadow; with 16 pending it is ignored and counted. -/
def commitClose (at_ : Option Nat) (s : State) : State :=
  if 16 ≤ s.cfg.commits.length then countIgnored schBase s
  else
    let s := addF (Reg.Sch.commitIssued.at schBase) 1 s
    updCfg (fun c => { c with shadows := [], commits := c.commits ++ [⟨getF (Reg.Sch.commitIssued.at schBase) s, at_, c.shadows⟩] }) s

/-- COMMIT_GO; DISCARD in the same write acts first (Table 10-15). -/
def commitGo (discard : Bool) (s : State) : State := commitClose none (if discard then commitDiscard s else s)

def execCommitGo (discard : Bool) (s : State) : Host.Outcome State Fault Refusal := .next (commitGo discard s)

/-- COMMIT_GO_AT. -/
def commitGoAt (discard : Bool) (s : State) : State :=
  commitClose (some (getF (Reg.Sch.commitStep.at schBase) s)) (if discard then commitDiscard s else s)

def execCommitGoAt (discard : Bool) (s : State) : Host.Outcome State Fault Refusal := .next (commitGoAt discard s)

end Sys2Proof.Machine
end

