-- ==== Sys2Proof/Machine/Link.lean ====
section
/-! DEFINITION. The Lenrik port below its messages: flits, correction and retry, credits and priority, training, and the
light inputs (R283 to R296). -/

namespace Sys2Proof.Machine
open Sys2Proof

def portF (f : Field) (n : Nat) : Field := f.at (portBase n)
def portOf (n : Nat) (s : State) : PortState := SMap.get dfltPort s.lnk.ports n
def updPort (n : Nat) (f : PortState → PortState) (s : State) : State :=
  { s with lnk := { s.lnk with ports := SMap.upd dfltPort s.lnk.ports n f } }

/-- State of a port (Table 11-6). -/
def portState (n : Nat) (s : State) : Nat := getF (portF Reg.Port.state n) s
def setPortState (n v : Nat) (s : State) : State := setF (portF Reg.Port.state n) v s

/-- Receive buffers of a port, in flits by virtual channel (Table 11-5). -/
def bufFlits (n : Nat) : List Nat := if n < 15 then [64, 64, 16, 32] else [256, 256, 32, 32]

/-- The credits held for a virtual channel. -/
def credF (vc : Nat) : Field :=
  if vc = 0 then Reg.Port.credAct else if vc = 1 then Reg.Port.credKv else if vc = 2 then Reg.Port.credCtl else Reg.Port.credBc

/-- Change one element of a list. -/
def setAt (i v : Nat) (l : List Nat) : List Nat := l.set i v

/-- The next flit sequence number (Table 11-3). -/
def nextSeq (n : Nat) : Nat := (n + 1) % 4096

/-! ### What a message counts for (Table 15-2, kind 6) -/

/-- Payload bytes of a message by meter account: a tenant's where its content is a tenant's, overhead otherwise; what a
relay passes on has no tenant (R299). -/
def msgShares (own : Nat) (m : Msg) : List (Nat × Nat) :=
  let n := 64 * m.len
  if m.spod ≠ own then [(0xFFFF, n)]
  else
    match m.body with
    | .vectors [] => [(0xFFFF, n)]
    | .vectors l => l.map fun t => (t, n / l.length)
    | .partials t => [(t, n)]
    | .query t => [(t, n)]
    | _ => [(0xFFFF, n)]

/-- Count payload bytes sent or received. -/
def countShares (l : List (Nat × Nat)) (s : State) : State := l.foldl (fun s x => meterAdd x.1 6 x.2 s) s

/-! ### Relay buffer (R299) -/

/-- Size of the relay buffer in bytes. -/
def relayBuf (s : State) : Nat :=
  match s.ens.image with
  | some i => match i.route with | some r => r.relayBuf * 1048576 | none => 0
  | none => 0

/-- Messages staged for relay: those of other parts that wait to be sent on. -/
def relayed (s : State) : List Msg :=
  s.lnk.ports.flatMap fun p => (p.2.queues.map fun q => q.2.1).filter fun m => m.spod ≠ myPod s

/-- Bytes staged for relay. -/
def relayStaged (s : State) : Nat := ((relayed s).map fun m => 16 + 64 * m.len).sum

/-- Activation credits of an input port are withheld: the relay buffer is full and holds a message that came in there. -/
def creditsHeld (n : Nat) (s : State) : Bool :=
  decide (relayBuf s ≤ relayStaged s) && (relayed s).any fun m => directPort m.spod s == n

/-! ### Receiving (R285 to R287, R289) -/

/-- The flits of the replay buffer that an ACKSEQ does not cover. -/
def afterAck (ack : Nat) (l : List TxFlit) : List TxFlit :=
  match l.findIdx? (fun f => f.fseq = ack) with
  | some i => l.drop (i + 1)
  | none => l

/-- Take the acknowledgement, the credits and the NAK of a header. -/
def takeHead (n : Nat) (h : FlitHead) (s : State) : State :=
  let s := updPort n (fun p => { p with
    replay := afterAck h.ackseq.toNat p.replay, resend := afterAck h.ackseq.toNat p.resend }) s
  let s := if h.crcnt.toNat = 0 then s else satF (portF (credF h.crvc.toNat) n) h.crcnt.toNat s
  if h.nak then
    let again := fun (p : PortState) => { p with resend := p.replay }
    lifeAdd (0x400 + 16 * n) 8 1 (addF (portF Reg.Port.retryCnt n) 1 (updPort n again s))
  else s

/-- Accept a payload flit in order: its buffer is freed and its credit owed. -/
def acceptFlit (n : Nat) (f : Flit) (s : State) : State :=
  let vc := f.head.vc.toNat
  let took := fun (p : PortState) => { p with
    rxSeq := f.head.fseq.toNat, nakSince := none, nakToSend := false, owed := setAt vc ((p.owed[vc]?).getD 0 + 1) p.owed }
  countShares (f.shares.map fun x => (x.1.toNat, x.2)) (addF (portF Reg.Port.rxFlit n) 1 (updPort n took s))

/-- FLIT_RECEIVE. -/
def flitReceive (n : Nat) (f : Flit) (s : State) : State :=
  if portState n s ≠ 6 ∧ portState n s ≠ 7 then s
  else
    let heard := fun (p : PortState) => { p with lastHeard := now s }
    let s := domCorrected 2 f.corrected (addF (portF Reg.Port.corrCnt n) f.corrected (updPort n heard s))
    if f.uncorrectable then
      let nak := fun (p : PortState) => { p with nakToSend := true, nakSince := some (now s) }
      domUncorrected 2 1 (addF (portF Reg.Port.uncorrCnt n) 1 (updPort n nak s))
    else if portState n s = 7 then s
    else
      let s := takeHead n f.head s
      if f.head.null then s
      else if f.head.fseq.toNat = nextSeq (portOf n s).rxSeq then acceptFlit n f s
      else s

def execFlitReceive (n : Nat) (f : Flit) (s : State) : Host.Outcome State Fault Refusal :=
  if 19 < n then .fault .noSuchPort else .next (flitReceive n f s)

/-- NAK_RESEND: the expected flit has not arrived 2 µs after the NAK. -/
def nakResend (n : Nat) (s : State) : State :=
  match (portOf n s).nakSince with
  | some t =>
    if portState n s = 6 ∧ t + ticksUs 2 ≤ now s then
      updPort n (fun p => { p with nakToSend := true, nakSince := some (now s) }) s
    else s
  | none => s

def execNakResend (n : Nat) (s : State) : Host.Outcome State Fault Refusal :=
  if 19 < n then .fault .noSuchPort else .next (nakResend n s)

/-! ### Sending (R287 to R289) -/

/-- A virtual channel has a flit to send and a credit for it. -/
def canSend (n vc : Nat) (s : State) : Bool :=
  (portOf n s).queues.any (fun q => q.1 == vc) && decide (0 < getF (portF (credF vc) n) s)

/-- The virtual channel that sends next (R288): control; broadcast after 15 flit times; activation and key/value in
turn; broadcast. -/
def chooseVc (n : Nat) (s : State) : Option Nat :=
  let p := portOf n s
  if 512 ≤ p.replay.length then none
  else if canSend n 2 s then some 2
  else if canSend n 3 s ∧ 15 ≤ p.bcWait then some 3
  else if canSend n 0 s ∧ canSend n 1 s then some (if p.kvLast then 0 else 1)
  else if canSend n 0 s then some 0
  else if canSend n 1 s then some 1
  else if canSend n 3 s then some 3
  else none

/-- The channel whose credits the next header returns, and how many. -/
def owedNext (n : Nat) (s : State) : Nat × Nat :=
  let l := (portOf n s).owed
  match (List.range 4).find? (fun v => decide (0 < (l[v]?).getD 0) && !(v == 0 && creditsHeld n s)) with
  | some v => (v, min 255 ((l[v]?).getD 0))
  | none => (0, 0)

/-- Form a header and note it as sent: it carries the acknowledgement, one channel's credits and a NAK that is due. -/
def sendHead (n fseq vc : Nat) (null : Bool) (s : State) : State :=
  let p := portOf n s
  let c := owedNext n s
  let h : FlitHead := ⟨BitVec.ofNat 12 fseq, BitVec.ofNat 2 vc, null, p.nakToSend, BitVec.ofNat 12 p.rxSeq,
    BitVec.ofNat 2 c.1, BitVec.ofNat 8 c.2⟩
  updPort n (fun p => { p with
    lastTx := some h, nakToSend := false, owed := setAt c.1 ((p.owed[c.1]?).getD 0 - c.2) p.owed }) s

/-- Take one flit of the first message of a channel off its queue. -/
def takeQueue (vc : Nat) : List (Nat × Msg × Nat) → List (Nat × Msg × Nat)
  | [] => []
  | q :: l => if q.1 = vc then (if q.2.2 ≤ 1 then l else (vc, q.2.1, q.2.2 - 1) :: l) else q :: takeQueue vc l

/-- Broadcast's wait in flit times: it counts while a broadcast flit waits. -/
def bcTick (sent : Option Nat) (p : PortState) : Nat :=
  if sent = some 3 ∨ ¬ p.queues.any (fun q => q.1 == 3) then 0 else p.bcWait + 1

/-- Send a held flit again; one resent 8 times makes the port leave UP (R287). -/
def sendAgain (n : Nat) (f : TxFlit) (s : State) : State :=
  let s := sendHead n f.fseq f.vc false s
  let mark := fun (x : TxFlit) => if x.fseq = f.fseq then { x with resent := x.resent + 1 } else x
  let s := updPort n (fun p => { p with
    resend := p.resend.drop 1, replay := p.replay.map mark, bcWait := bcTick none p, lastSent := now s }) s
  if 8 ≤ f.resent + 1 then leaveUp n s else s

/-- Send the next flit of a channel. -/
def sendNew (n vc : Nat) (s : State) : State :=
  match (portOf n s).queues.find? (fun q => q.1 == vc) with
  | none => s
  | some q =>
    let p := portOf n s
    let fs := nextSeq p.txSeq
    let s := sendHead n fs vc false s
    let t : TxFlit := ⟨fs, vc, q.2.1, q.2.2 = flitsOf q.2.1, 0⟩
    let kv := if vc < 2 then vc == 1 else p.kvLast
    let s := updPort n (fun p => { p with
      txSeq := fs, replay := p.replay ++ [t], queues := takeQueue vc p.queues, bcWait := bcTick (some vc) p, kvLast := kv,
      lastSent := now s }) s
    let s := addF (portF Reg.Port.txFlit n) 1 (setF (portF (credF vc) n) (getF (portF (credF vc) n) s - 1) s)
    if q.2.2 ≤ 1 then countShares (msgShares (myPod s) q.2.1) s else s

/-- FLIT_TIME: a held flit again, a new one by priority, or a NULL flit, which repeats the last FSEQ. -/
def flitTime (n : Nat) (s : State) : State :=
  if portState n s = 7 then sendHead n (portOf n s).txSeq 0 true s
  else if portState n s ≠ 6 then s
  else
    match (portOf n s).resend with
    | f :: _ => sendAgain n f s
    | [] =>
      match chooseVc n s with
      | some vc => sendNew n vc s
      | none => updPort n (fun p => { p with bcWait := bcTick none p }) (sendHead n (portOf n s).txSeq 0 true s)

def execFlitTime (n : Nat) (s : State) : Host.Outcome State Fault Refusal :=
  if 19 < n then .fault .noSuchPort else .next (flitTime n s)

/-! ### Training (R293 to R295) -/

/-- Start a training attempt. -/
def toLight (n attempts : Nat) (s : State) : State :=
  setPortState n 1 (setF (portF Reg.Port.locked n) 0
    (updPort n (fun p => { p with attempts := attempts, attemptAt := now s }) s))

/-- LNK_CTL.EN := 1 on a DISABLED port. -/
def linkEnable (n : Nat) (s : State) : State :=
  let s := setF (portF Reg.Port.en n) 1 s
  if portState n s = 0 then toLight n 0 s else s

def execLinkEnable (n : Nat) (s : State) : Host.Outcome State Fault Refusal :=
  if 19 < n then .fault .noSuchPort else .next (linkEnable n s)

/-- A port goes dark: LNK_CTL.EN is 0 and its replay buffer is discarded. -/
def portDark (n : Nat) (s : State) : State :=
  setPortState n 0 (setF (portF Reg.Port.locked n) 0 (setF (portF Reg.Port.en n) 0
    (updPort n (fun p => { p with replay := [], resend := [], nakSince := none, nakToSend := false, attempts := 0 }) s)))

/-- LNK_CTL.RETRAIN: UP or HELD trains again. -/
def linkRetrain (n : Nat) (s : State) : State :=
  if portState n s = 6 then leaveUp n s else if portState n s = 7 then toLight n 0 s else s

def execLinkRetrain (n : Nat) (s : State) : Host.Outcome State Fault Refusal :=
  if 19 < n then .fault .noSuchPort else .next (linkRetrain n s)

/-- The wavelengths of the input that feeds a port (R284). -/
def lightOf (n : Nat) (s : State) : Nat := getF ((if n < 12 then Reg.Lnk.lightIn0 else Reg.Lnk.lightIn1).at lnkBase) s

/-- A lane's received power in 0.1 dBm lies in the LIGHT window, −8.0 to +2.0 dBm (Table 19-7). -/
def pwrOk (b : Byte) : Bool := decide (-80 ≤ b.toInt ∧ b.toInt ≤ 20)

/-- LIGHT_WINDOW: every lane's received power has been in its window for 10 µs. -/
def lightWindow (n : Nat) (pwr : Word) (s : State) : State :=
  if portState n s = 1 then
    let s := setF (portF Reg.Port.rxPwr n) pwr.toNat s
    if lightOf n s = 15 ∧ (List.range 4).all (fun l => pwrOk (pwr.extractLsb' (8 * l) 8)) then setPortState n 2 s else s
  else s

def execLightWindow (n : Nat) (pwr : Word) (s : State) : Host.Outcome State Fault Refusal :=
  if 19 < n then .fault .noSuchPort else .next (lightWindow n pwr s)

/-- LIGHT_LOW_TIMEOUT: power outside the window after 1 ms. -/
def lightLow (n : Nat) (s : State) : State :=
  if portState n s = 1 ∧ (portOf n s).attemptAt + ticksMs 1 ≤ now s then setF (portF Reg.Port.lightLow n) 1 s else s

def execLightLowTimeout (n : Nat) (s : State) : Host.Outcome State Fault Refusal :=
  if 19 < n then .fault .noSuchPort else .next (lightLow n s)

/-- LANE_LOCK. -/
def laneLock (n : Nat) (s : State) : State :=
  if portState n s = 2 then setPortState n 3 (setF (portF Reg.Port.locked n) 15 s) else s

def execLaneLock (n : Nat) (s : State) : Host.Outcome State Fault Refusal :=
  if 19 < n then .fault .noSuchPort else .next (laneLock n s)

/-- DESKEW: markers found on all lanes; a skew above 256 UI leaves the port where it is. -/
def deskew (n : Nat) (skew : Word) (s : State) : State :=
  if portState n s = 3 then
    let s := setF (portF Reg.Port.skew n) skew.toNat s
    if (List.range 4).all (fun l => decide ((skew.extractLsb' (8 * l) 8).toNat ≤ 128)) then setPortState n 4 s else s
  else s

def execDeskew (n : Nat) (skew : Word) (s : State) : Host.Outcome State Fault Refusal :=
  if 19 < n then .fault .noSuchPort else .next (deskew n skew s)

/-- FEC_LOCK: the port sends its identity. -/
def fecLock (n : Nat) (s : State) : State := if portState n s = 4 then setPortState n 5 s else s

def execFecLock (n : Nat) (s : State) : Host.Outcome State Fault Refusal :=
  if 19 < n then .fault .noSuchPort else .next (fecLock n s)

/-- The identity that a port must see (R295, R296). -/
def peerOk (n pod port : Nat) (s : State) : Bool :=
  if n < 15 then
    decide (pod = getF (Reg.Lnk.topoBoard.at lnkBase) s * 16 + (getF (Reg.Lnk.topoSlot.at lnkBase) s + n + 1) % 16 ∧ port = 14 - n)
  else if n = 15 then !(isMirrored s) || decide (pod = getF (Reg.Lnk.pairPod.at lnkBase) s)
  else true

/-- ACKSEQ of the peer on reaching UP: covered flits leave the replay buffer and the rest are sent again; with nothing
held the numbering goes on from there. -/
def resume2 (ack : Nat) (p : PortState) : PortState :=
  let l := afterAck ack p.replay
  { p with replay := l, resend := l, txSeq := if l.isEmpty then ack else p.txSeq, owed := [0, 0, 0, 0], nakSince := none,
           nakToSend := false, attempts := 0 }

/-- PEER_IDENTITY: the peer's pod address and port, and the ACKSEQ and credits it exchanges. -/
def peerIdentity (n pod port ack : Nat) (creds : List Nat) (s : State) : State :=
  if portState n s = 5 then
    let s := setF (portF Reg.Port.peerPod n) pod (setF (portF Reg.Port.peerPort n) port s)
    if peerOk n pod port s then
      let s := (List.range 4).foldl (fun s v => setF (portF (credF v) n) ((creds[v]?).getD 0) s) s
      setPortState n 6 (updPort n (fun p => { resume2 ack p with lastSent := now s, lastHeard := now s }) s)
    else setPortState n 7 (emitPart 0x0302 (n * 65536 + pod) (setF (portF Reg.Port.miswire n) 1 s))
  else s

def execPeerIdentity (n : Nat) (pod : BitVec 10) (port : BitVec 5) (ack : BitVec 12) (creds : List (BitVec 9)) (s : State) :
    Host.Outcome State Fault Refusal :=
  if 19 < n then .fault .noSuchPort
  else if creds.length = 4 then .next (peerIdentity n pod.toNat port.toNat ack.toNat (creds.map BitVec.toNat) s)
  else .fault .badLength

/-- LANE_UNLOCK: a lane unlocks or light is lost in UP. -/
def laneUnlock (n : Nat) (s : State) : State := if portState n s = 6 then leaveUp n s else s

def execLaneUnlock (n : Nat) (s : State) : Host.Outcome State Fault Refusal :=
  if 19 < n then .fault .noSuchPort else .next (laneUnlock n s)

/-! ### Light inputs (R284, R442) -/

/-- Ports that an input feeds: LIN0 P0 to P11, LIN1 P12 to P19. -/
def portsOfInput (lin1 : Bool) : List Nat := if lin1 then (List.range 8).map (fun i => 12 + i) else List.range 12

/-- The field of an input in LNK_LIGHT. -/
def lightF (lin1 : Bool) : Field := (if lin1 then Reg.Lnk.lightIn1 else Reg.Lnk.lightIn0).at lnkBase

/-- LIGHT_INPUT_LOSS. -/
def lightLoss (lin1 : Bool) (w : Nat) (s : State) : State :=
  let s := setF (lightF lin1) (withBit (getF (lightF lin1) s) w false) s
  (portsOfInput lin1).foldl (fun s n => laneUnlock n s) s

def execLightInputLoss (lin1 : Bool) (w : BitVec 2) (s : State) : Host.Outcome State Fault Refusal :=
  .next (lightLoss lin1 w.toNat s)

/-- LIGHT_INPUT_RETURN. -/
def execLightInputReturn (lin1 : Bool) (w : BitVec 2) (s : State) : Host.Outcome State Fault Refusal :=
  .next (setF (lightF lin1) (withBit (getF (lightF lin1) s) w.toNat true) s)

end Sys2Proof.Machine
end

