-- ==== Sys2Proof/Machine/Flags.lean ====
section
/-! DEFINITION. Conversions to a destination format with what they count: saturations, NaN elements, and the random
words that a stochastic conversion draws (R109, R118 to R123, R451; Table 4-9). -/

namespace Sys2Proof.Machine
open Sys2Proof

/-- The result of a conversion: the elements' bits, block scales, saturations, NaN elements, random words drawn. -/
structure Conv where
  elems : List Nat
  scales : List Nat
  sats : Nat
  nans : Nat
  draws : Nat
  deriving DecidableEq, Repr

/-- Join two conversions, in order. -/
def Conv.join (a b : Conv) : Conv :=
  ⟨a.elems ++ b.elems, a.scales ++ b.scales, a.sats + b.sats, a.nans + b.nans, a.draws + b.draws⟩

/-- The bits of a signed integer in 8 bits. -/
def s8Bits (i : Int) : Nat := (i % 256).toNat

/-- One element to S8 or U8 (Table 4-4): bits, and whether it saturated. -/
def toInt8 (unsigned : Bool) (r : Round) (v : FVal) : Nat × Bool :=
  match v with
  | .nan _ => (0, false)
  | .inf neg => if unsigned then (if neg then 0 else 255, true) else (s8Bits (if neg then -127 else 127), true)
  | .fin _ _ _ =>
    let i := roundFInt r v
    if unsigned then (if i < 0 then (0, true) else if 255 < i then (255, true) else (i.toNat, false))
    else if i < -127 then (s8Bits (-127), true) else if 127 < i then (127, true) else (s8Bits i, false)

/-- One element to a floating format (Table 4-4): a finite value beyond range saturates; an infinity saturates where the
format has none. -/
def toFloat (f : Fmt) (r : Round) (v : FVal) : Nat × Bool :=
  match v with
  | .nan neg => if f.kind = .finite then (0, false) else (signed f neg (nanBits f), false)
  | .inf neg => if f.kind = .ieee then (signed f neg (infBits f), false) else (signed f neg (maxFinite f), true)
  | .fin neg m e =>
    let b := roundBits f r m 1 e
    if maxFinite f < b then (signed f neg (maxFinite f), true) else (signed f neg b, false)

/-- One element to a format code of Table 5-4, without its block scale. -/
def toElem (c : Nat) (r : Round) (v : FVal) : Nat × Bool :=
  if c = 0 then toInt8 false r v else if c = 1 then toInt8 true r v else toFloat (codeFmt c) r v

/-- The rounding of the i-th element of a conversion: RNE, or the random word of counter `ctr + i` (R121). -/
def roundAt (sr : Bool) (seed ctr i : Nat) : Round := if sr then .sr (randomWord seed (ctr + i)) else .rne

/-- Convert elements one by one, drawing a word for each (R121). -/
def convFlat (c : Nat) (sr : Bool) (seed : Nat) : Nat → List FVal → Conv
  | _, [] => ⟨[], [], 0, 0, 0⟩
  | ctr, v :: l =>
    let x := toElem c (roundAt sr seed ctr 0) v
    let one : Conv := ⟨[x.1], [], if x.2 then 1 else 0, if isNanV v then 1 else 0, if sr then 1 else 0⟩
    one.join (convFlat c sr seed (if sr then ctr + 1 else ctr) l)

/-- The largest magnitude of a list of values: a NaN before an infinity before finite values. -/
def maxAbs : List FVal → FVal
  | [] => .fin false 0 0
  | v :: l =>
    let m := maxAbs l
    if isNanV v then v else if isNanV m then m else if ltV (absV v) m then m else absV v

/-- The block scale of R109. -/
def blockScale (c : Nat) (l : List FVal) : Nat :=
  match maxAbs l, decodeF (codeFmt c) (maxFinite (codeFmt c)) with
  | .nan _, _ => 255
  | .inf _, _ => 254
  | .fin _ m e, .fin _ n k => if m = 0 then 127 else (max 0 (min 254 (127 + ceilLog2 m n + e - k))).toNat
  | .fin _ _ _, _ => 127

/-- Convert one block of up to 32 elements: a block with a NaN has scale 0xFF, zero elements and draws no word. -/
def convBlock (c : Nat) (sr : Bool) (seed ctr : Nat) (l : List FVal) : Conv :=
  let x := blockScale c l
  if x = 255 then ⟨l.map fun _ => 0, [255], 0, (l.filter isNanV).length, 0⟩
  else { convFlat c sr seed ctr (l.map (shiftV (127 - (x : Int)))) with scales := [x] }

/-- Convert block after block of 32. -/
def convBlocks (c : Nat) (sr : Bool) (seed : Nat) : Nat → Nat → List FVal → Conv
  | 0, _, _ => ⟨[], [], 0, 0, 0⟩
  | n + 1, ctr, l =>
    if l.isEmpty then ⟨[], [], 0, 0, 0⟩
    else
      let a := convBlock c sr seed ctr (l.take 32)
      a.join (convBlocks c sr seed n (ctr + a.draws) (l.drop 32))

/-- Convert a vector to a format code. -/
def convert (c : Nat) (sr : Bool) (seed ctr : Nat) (l : List FVal) : Conv :=
  if isBlock c then convBlocks c sr seed (l.length / 32 + 1) ctr l else convFlat c sr seed ctr l

/-- Conversion to E8M0 (R451): the bits, and whether it saturated. -/
def toE8m0 (v : FVal) : Nat × Bool :=
  match v with
  | .nan _ => (255, false)
  | .inf _ => (254, true)
  | .fin _ m e =>
    if m = 0 then (0, true)
    else
      let l := Nat.log2 m
      let x : Int := 127 + e + l + (if 3 * 2 ^ l ≤ 2 * m then 1 else 0)
      if x < 0 then (0, true) else if 254 < x then (254, true) else (x.toNat, false)

/-- The key/value format codes of Table 8-2 as format codes of Table 5-4: all block-scaled. -/
def kvCode (k : Nat) : Nat := 7 + k

/-- The output vector of a conversion as values, for its segment maximum (R128). -/
def storedVals (c : Nat) (x : Conv) : List FVal :=
  (List.range x.elems.length).map fun i => elemVal c ((x.scales[i / 32]?).getD 127) ((x.elems[i]?).getD 0)

/-- Bits of an element of a format code (R100, R104). -/
def elemBits (c : Nat) : Nat := if c ≤ 1 then 8 else fmtBits (codeFmt c)

/-- Elements packed into one number, the lower index in the lower bits. -/
def packNat (w : Nat) : List Nat → Nat
  | [] => 0
  | v :: l => v % 2 ^ w + 2 ^ w * packNat w l

/-- The bytes of a stored vector: its elements packed, then its scales (R108). -/
def packVec (c : Nat) (elems scales : List Nat) : List Byte :=
  leBytes ((elems.length * elemBits c + 7) / 8) (packNat (elemBits c) elems) ++ scales.map (BitVec.ofNat 8)

end Sys2Proof.Machine
end

