-- ==== Sys2Proof/Machine/Output.lean ====
section
/-! DEFINITION. The output path of a pennant (chapter 05, R117, R126): column scale, bias, activation, gating, pooling,
norm watch, conversion and delivery, with its tables and debug window. -/

namespace Sys2Proof.Machine
open Sys2Proof

/-! ### Column scale and adapter (R117, R171) -/

/-- The scale product of a column, 2^(E + X − 135) × m, as FP32 bits, and whether its exponent left the normal range. -/
def scaleProduct (e : Int) (c : ColParam) : Nat × Bool :=
  if c.x = 255 then (nanBits fp32, false)
  else
    match shiftV (e + c.x - 135) (decodeF fp16 c.m) with
    | .fin neg m k =>
      let b := roundBits fp32 .rne m 1 k
      if maxFinite fp32 < b then (signed fp32 neg (maxFinite fp32), true)
      else (signed fp32 neg b, decide (m ≠ 0) && decide (b < 2 ^ 23))
    | v => (toF32 v, false)

/-- The parameters of a column; a column never loaded reads as zeros. -/
def colParam (r : PntRec) (c : Nat) : ColParam := (SMap.get dfltParam r.params c).getD ⟨0, 0, 0⟩

/-- An adapter term u = RNE(delta ÷ S), limited to ±2^46 (R171): nothing for a NaN delta or a zero S, which make the
output NaN; and whether the term was limited. -/
def adapterTerm (delta scale : Nat) : Option Int × Bool :=
  match f32 delta, f32 scale with
  | .nan _, _ => (none, true)
  | _, .nan _ => (none, true)
  | .inf neg, .fin sn m _ => if m = 0 then (none, true) else (some (if neg != sn then -(2 ^ 46) else 2 ^ 46), true)
  | .inf _, .inf _ => (none, true)
  | .fin _ _ _, .inf _ => (some 0, false)
  | .fin neg m e, .fin sn n k =>
    if n = 0 then (none, true)
    else
      let p := scaleFrac m n (e - k)
      let q : Int := roundInt .rne p.1 p.2
      let v := if neg != sn then -q else q
      if 2 ^ 46 < q then (some (if neg != sn then -(2 ^ 46) else 2 ^ 46), true) else (some v, false)

/-! ### Activation (R134, R135) -/

/-- Value of a four-bit two's complement exponent. -/
def k4 (v : Nat) : Int := sInt 4 v

/-- A table entry of a bank; entries 259 to 263 read as 0. -/
def tableEntry (r : PntRec) (bank i : Nat) : Nat := if 258 < i then 0 else SMap.get dfltZero r.act (bank * 512 + i)

/-- FP32 value times a power of two. -/
def scaleF32 (a : Nat) (k : Int) : Nat := toF32 (shiftV k (f32 a))

/-- An infinity with the sign of a value, or its opposite. -/
def infSigned (a : Nat) (flip : Bool) : Nat := signed fp32 ((a.testBit 31) != flip) (infBits fp32)

/-- Table-driven activation (R135), each step in FP32. -/
def tableAct (r : PntRec) (bank x0 : Nat) (k : Int) (x : Nat) : Nat :=
  let t := tableEntry r bank
  let isZero := fun (a : Nat) => a % 2 ^ 31 = 0
  match f32 x with
  | .nan neg => signed fp32 neg (nanBits fp32)
  | .inf true => if isZero (t 257) then t 0 else infSigned (t 257) true
  | .inf false => if isZero (t 258) then t 256 else infSigned (t 258) false
  | v =>
    let lo := f32 x0
    let hi := addV lo (.fin false 1 (8 + k))
    if ltV v lo then addF32 (t 0) (mulF32 (t 257) (subF32 x x0))
    else if ltV hi v then addF32 (t 256) (mulF32 (t 258) (subF32 (subF32 x x0) (toF32 (.fin false 1 (8 + k)))))
    else if ¬ ltV v hi then t 256
    else
      let d := f32 (scaleF32 (subF32 x x0) (-k))
      let i : Nat := match d with | .fin _ m e => min 255 ((scaleFrac m 1 e).1 / (scaleFrac m 1 e).2) | _ => 0
      let f := toF32 (addV d (ofIntF (-(i : Int)) 0))
      addF32 (t i) (mulF32 f (subF32 (t (i + 1)) (t i)))

/-- Stage 6: the activation of a value. -/
def activate (p : Nat) (s : State) (x : Nat) : Nat :=
  let act := getF (pntF Reg.Pnt.act p) s
  if isNanF32 x then signed fp32 (x.testBit 31) (nanBits fp32)
  else if act = 0 then x
  else if act = 1 then (if ltF32 0 x then x else 0)
  else if act = 2 then (Config.siluBits x).toNat
  else if act = 3 then (Config.geluBits x).toNat
  else
    let b := getF (pntF Reg.Pnt.tbank p) s
    let x0 := if b = 0 then getF (pntF Reg.Pnt.actX0b0 p) s else getF (pntF Reg.Pnt.actX0b1 p) s
    let k := k4 (if b = 0 then getF (pntF Reg.Pnt.actK0 p) s else getF (pntF Reg.Pnt.actK1 p) s)
    tableAct (pntOf p s) b x0 k x

/-! ### Pooling (R138) -/

/-- Groups of `g` adjacent columns. -/
def groupsOf (g : Nat) : Nat → List Nat → List (List Nat)
  | 0, _ => []
  | n + 1, l => if l.isEmpty then [] else l.take g :: groupsOf g n (l.drop g)

/-- Column pooling: 1 maximum, 2 mean of g = 2^(PGRP + 1) columns. -/
def poolColumns (mode pgrp : Nat) (l : List Nat) : List Nat :=
  if mode = 1 then (groupsOf (2 ^ (pgrp + 1)) l.length l).map fun g => g.foldl maxNanF32 (g.headD 0)
  else if mode = 2 then (groupsOf (2 ^ (pgrp + 1)) l.length l).map fun g => scaleF32 (sumF32 g) (-(pgrp + 1 : Nat))
  else l

/-- The mean over the vectors of a sequence in a step. -/
def poolSeq (vs : List (List Nat)) : List Nat :=
  let n := (vs.headD []).length
  let inv := divF32 (intF32 1) (intF32 vs.length)
  (List.range n).map fun j => mulF32 (sumF32 (vs.map fun v => (v[j]?).getD 0)) inv

/-! ### Norm watch (R140 to R143) -/

/-- n2 of a vector: the square root, in the part's own approximant, of the pairwise sum of squares. -/
def norm2 (l : List Nat) : Nat :=
  let q := sumF32 (l.map fun y => mulF32 y y)
  if isNanF32 q ∨ q = 0 ∨ q = infBits fp32 then q else (Config.sqrtBits q).toNat

/-- ninf of a vector. -/
def normInf (l : List Nat) : Nat := (l.map absF32).foldl maxNanF32 0

/-- A value held within a range. -/
def limitF32 (lo hi v : Nat) : Nat := if ltF32 v lo then lo else if ltF32 hi v then hi else v

/-- A jump's record: count, last tenant and sequence, and the two flag-word adds (R143). -/
def watchJump (p : Nat) (t : VecTag) (s : State) : State :=
  let s := addF (pntF Reg.Pnt.watchCnt p) 1 s
  let s := setF (pntF Reg.Pnt.wlValid p) 1 (setF (pntF Reg.Pnt.wlTen p) t.ten (setF (pntF Reg.Pnt.wlSeq p) t.seq s))
  let s := flagAdd (p / 16) (getF (pntF Reg.Pnt.watchLayer p) s * 8) 1 (some t.step) s
  flagAdd (p / 16) (getF (pntF Reg.Pnt.watchTen p) s * 8 + 8 * t.ten) 1 (some t.step) s

/-- Stage 9 for one vector. -/
def normWatch (p : Nat) (t : VecTag) (skipped : Bool) (l : List Nat) (s : State) : State :=
  if ¬ isSet (pntF Reg.Pnt.wEn p) s ∨ skipped ∨ t.prov then s
  else
    let n2 := norm2 l
    let ni := normInf l
    let warm := isSet (pntF Reg.Pnt.wsWarm p) s
    if isNanF32 n2 ∨ isNanF32 ni then
      if warm then s else watchJump p t (setF (pntF Reg.Pnt.wsNan p) 1 s)
    else
      let r2 := getF (pntF Reg.Pnt.watchL2 p) s
      let ri := getF (pntF Reg.Pnt.watchLinf p) s
      let alpha := getF (pntF Reg.Pnt.wAlpha p) s
      let put := fun (a b : Nat) (s : State) => setF (pntF Reg.Pnt.watchL2 p) a (setF (pntF Reg.Pnt.watchLinf p) b s)
      if warm then
        let n := (pntOf p s).warmSeen + 1
        let mean := fun (r v : Nat) => addF32 r (divF32 (subF32 v r) (intF32 n))
        let s := put (mean r2 n2) (mean ri ni) (updPnt p (fun x => { x with warmSeen := n }) s)
        if 2 ^ alpha ≤ n then setF (pntF Reg.Pnt.wsWarm p) 0 s else s
      else
        let q := toF32 (.fin false (getF (pntF Reg.Pnt.wRatio p) s) (-4))
        let j2 := ltF32 (mulF32 q r2) n2
        let ji := ltF32 (mulF32 q ri) ni
        let jl := isSet (pntF Reg.Pnt.wLowEn p) s && ltF32 n2 (divF32 r2 q)
        let s := if j2 then setF (pntF Reg.Pnt.wsL2 p) 1 s else s
        let s := if ji then setF (pntF Reg.Pnt.wsLinf p) 1 s else s
        let s := if jl then setF (pntF Reg.Pnt.wsLow p) 1 s else s
        let s := if j2 || ji || jl then watchJump p t s else s
        let next := fun (r v : Nat) =>
          addF32 r (scaleF32 (subF32 (limitF32 (divF32 r q) (mulF32 q r) v) r) (-(alpha : Int)))
        put (next r2 n2) (next ri ni) s

/-! ### Conversion and delivery (R118 to R123, R128, R139) -/

/-- The recipe in force of a layer slot. -/
def recipeOf (lslot : Nat) (s : State) : Option Recipe :=
  (layerOf lslot s).bind fun l => l.recipes[(SMap.get dfltRecipe s.sched.recipes lslot).k]?

/-- Stochastic rounding is in force for a value: one of its classes is enabled (R119). -/
def stochastic (cls : OutClass) (layer : Nat) (req kv resid : Field) (s : State) : Bool :=
  let requant := match recipeOf layer s with | some r => r.defined && r.requant | none => false
  (match cls with
    | .kv _ => isSet kv s
    | .resid => isSet resid s
    | .plain => false) || (requant && isSet req s)

/-- Store a converted vector: a key/value entry's scales and elements lie apart (R206); any other vector has the word of
its maximum in the header table, and its elements followed by its scales (R108, R128). -/
def storeVec (cls : OutClass) (c m : Nat) (x : Conv) (addr : Option (Nat × Nat)) (s : State) : State :=
  match addr, cls with
  | some (h, a), .kv _ => storeSram a (packVec c x.elems []) (storeSram h (x.scales.map (BitVec.ofNat 8)) s)
  | some (h, a), _ => storeSram a (packVec c x.elems x.scales) (storeSram h (leBytes 4 m) s)
  | none, _ => s

/-- The destination format code of a vector of a pennant. -/
def destCode (p : Nat) (t : VecTag) (s : State) : Nat :=
  match t.cls with
  | .kv l => kvCode (getF (Reg.Kvc.lfmt.at (kvcBase + 4 * l)) s)
  | _ => getF (pntF Reg.Pnt.ofmt p) s

/-- Stages 10 and 11. -/
def deliverOut (p : Nat) (t : VecTag) (l : List Nat) (s : State) : State :=
  let c := destCode p t s
  let sr := stochastic t.cls t.layer (pntF Reg.Pnt.srReq p) (pntF Reg.Pnt.srKv p) (pntF Reg.Pnt.srResid p) s
  let x := convert c sr (getF (pntF Reg.Pnt.rndSeed p) s) (getF (pntF Reg.Pnt.rndCtr p) s) (l.map f32)
  let s := addF (pntF Reg.Pnt.rndCtr p) x.draws s
  let s := addF (pntF Reg.Pnt.cvtSatCnt p) x.sats (addF (pntF Reg.Pnt.cvtNanCnt p) x.nans s)
  let m := ((storedVals c x).map fun v => absF32 (toF32 v)).foldl maxNanF32 0
  let s := updPnt p (fun r => { r with out := some ⟨t.vid, t.ten, t.seq, c, x.elems, x.scales, m⟩ }) s
  storeVec t.cls c m x t.addr (addF (pntF Reg.Pnt.outVecCnt p) 1 s)

/-- Stages 8 to 11. -/
def finishVector (p : Nat) (t : VecTag) (skipped : Bool) (l : List Nat) (s : State) : State :=
  let mode := getF (pntF Reg.Pnt.pool p) s
  if mode = 3 then
    let mine := fun (x : Nat × Nat × Bool × List Nat) => x.1 = t.step && x.2.1 = t.seq
    if ¬ t.lastOfSeq then updPnt p (fun r => { r with pool := r.pool ++ [(t.step, t.seq, skipped, l)] }) s
    else
      let xs := (pntOf p s).pool.filter mine
      let s := updPnt p (fun r => { r with pool := r.pool.filter fun x => !(mine x) }) s
      let y := poolSeq (xs.map (fun x => x.2.2.2) ++ [l])
      deliverOut p t y (normWatch p t (skipped && xs.all fun x => x.2.2.1) y s)
  else
    let y := poolColumns mode (getF (pntF Reg.Pnt.pgrp p) s) l
    deliverOut p t y (normWatch p t skipped y s)

/-! ### Stages 4 to 7 -/

/-- Pennants outside a chain that hold a block which the image places in it: the block has moved to a spare (R251). -/
def movedFrom (chain : List Nat) (i : EnsImage) (s : State) : List Nat :=
  (s.arrs.filterMap fun x =>
    match x.2.hold with
    | none => none
    | some b =>
      let placed := (i.placements.find? fun q => q.slot = b.slot).bind fun q =>
        q.entries.find? fun e => e.2.state = 1 ∧ e.2.layer = b.layer ∧ e.2.block = b.block
      match placed with
      | some e => if e.1 / 16 ∈ chain ∧ x.1 / 16 ∉ chain then some (x.1 / 16) else none
      | none => none).eraseDups

/-- The pennants of the chain that ends in an output pennant. -/
def chainOf (p : Nat) (s : State) : List Nat :=
  match s.ens.image with
  | some i => match (i.pennants.getD []).find? (fun e => e.pnt = p) with
    | some e =>
      let l := if p ∈ e.chain then e.chain else e.chain ++ [p]
      l ++ movedFrom l i s
    | none => [p]
  | none => [p]

/-- The accumulation of a vector in a pennant. -/
def accOf (p vid : Nat) (s : State) : Option VecAcc := (pntOf p s).accs.find? fun v => v.tag.vid = vid

/-- Every pennant of the chain has promoted the vector's last array. -/
def chainDone (p : Nat) (t : VecTag) (s : State) : Bool :=
  (chainOf p s).all fun q => match accOf q t.vid s with
    | some v => v.todo.isEmpty
    | none => (chainArrays q t s).isEmpty

/-- ACC-W of the chain: what its pennants forwarded, column by column (Table 5-1, stage 3). -/
def chainSum (p : Nat) (t : VecTag) (s : State) : SMap Int :=
  (chainOf p s).foldl (fun m q => match accOf q t.vid s with
    | some v => v.accW.foldl (fun m e => SMap.upd dfltInt m e.1 (fun w => w + e.2)) m
    | none => m) []

/-- Value of one column after stage 5, with saturated scale products and adapter terms limited. -/
def columnValue (p : Nat) (e : Int) (bad : Bool) (w : SMap Int) (delta : Option (List (Nat × Nat))) (s : State) (c : Nat) :
    Nat × Nat × Nat :=
  let r := pntOf p s
  let k := colParam r c
  let sc := scaleProduct e k
  let nan := nanBits fp32
  let biased := fun (y : Nat) => if isSet (pntF Reg.Pnt.biasEn p) s then addF32 y k.bias else y
  let acc := SMap.get dfltInt w c
  let one := if sc.2 then 1 else 0
  if c ∈ r.badCols then (nan, 0, 0)
  else if bad then (biased nan, 0, 0)
  else
    match delta with
    | none => (biased (mulF32 (intF32 acc) sc.1), one, 0)
    | some d =>
      let u := adapterTerm (((d.find? fun x => x.1 = c).map fun x => x.2).getD 0) sc.1
      match u.1 with
      | none => (nan, one, 1)
      | some a => (biased (mulF32 (intF32 (acc + a)) sc.1), one, if u.2 then 1 else 0)

/-- The oldest vector of an output pennant that is ready for stage 4: its chain is done, and its delta is there. -/
def readyVector (p : Nat) (s : State) : Option VecAcc :=
  match (pntOf p s).accs with
  | [] => none
  | v :: _ =>
    if chainDone p v.tag s ∧ (¬ v.tag.adapter ∨ (pntOf p s).deltas.any fun d => d.1 = v.tag.vid) then some v else none

/-- The first waiting vector of a gated consumer meets its producer's (R137). -/
def gateMeet (p : Nat) (s : State) : State :=
  let r := pntOf p s
  match r.gateWait, r.partners with
  | g :: gs, u :: us =>
    let s := updPnt p (fun r => { r with gateWait := gs, partners := us }) s
    finishVector p g.tag g.skipped (List.zipWith mulF32 g.vals u) s
  | _, _ => s

/-- The hoist's pennant that GPART names. -/
def gatePartner (p : Nat) (s : State) : Nat := p / 16 * 16 + getF (pntF Reg.Pnt.gpart p) s

/-- What the column parameter store shows when a vector uses it (R133): columns with an uncorrectable entry are NaN from
then on, and are reported once. -/
def columnCheck (p : Nat) (ecc : Ecc) (cols : List Nat) (s : State) : State :=
  match ecc with
  | .clean => s
  | .corrected => domCorrected 6 1 s
  | .uncorrectable =>
    let new := cols.filter fun c => c ∉ (pntOf p s).badCols
    let s := domUncorrected 6 1 s
    if new.isEmpty then s
    else report 0x0007 p (new.headD 0) (updPnt p (fun r => { r with badCols := r.badCols ++ new }) s)

/-- OUTPUT_VECTOR. -/
def outputVector (p : Nat) (ecc : Ecc) (bad : List Nat) (s : State) : State :=
  match readyVector p s with
  | none => s
  | some v =>
    if ¬ isSet (pntF Reg.Pnt.outEn p) s then s
    else
      let s := columnCheck p ecc bad s
      let t := v.tag
      let d := (pntOf p s).deltas.find? fun d => d.1 = t.vid
      let delta := if t.adapter then d.map fun x => x.2.2 else none
      let cols := (List.range 512).map (columnValue p v.e v.bad (chainSum p t s) delta s)
      let skipped := !v.bad && (chainOf p s).all fun q => match accOf q t.vid s with | some a => a.skipped | none => true
      let s := addF (pntF Reg.Pnt.cvtSatCnt p) ((cols.map fun c => c.2.1).sum) s
      let s := match d with
        | some x => addF (Reg.Bnt.adpSatCnt.at (bntBase x.2.1)) ((cols.map fun c => c.2.2).sum) s
        | none => s
      let s := (chainOf p s).foldl (fun s q => updPnt q (fun r => { r with
        accs := r.accs.filter (fun a => ¬ a.tag.vid = t.vid), deltas := r.deltas.filter fun x => ¬ x.1 = t.vid }) s) s
      let y := cols.map fun c => c.1
      let gate := getF (pntF Reg.Pnt.gate p) s
      if gate = 2 then updPnt (gatePartner p s) (fun r => { r with partners := r.partners ++ [y] }) s
      else
        let y := y.map (activate p s)
        if gate = 1 then gateMeet p (updPnt p (fun r => { r with gateWait := r.gateWait ++ [⟨t, y, skipped⟩] }) s)
        else finishVector p t skipped y s

def execOutputVector (p : PntIx) (ecc : Ecc) (bad : List Nat) (s : State) : Host.Outcome State Fault Refusal :=
  .next (outputVector p.toNat ecc bad s)

/-- GATED_PARTNER_VECTOR. -/
def execGatedPartnerVector (p : PntIx) (s : State) : Host.Outcome State Fault Refusal := .next (gateMeet p.toNat s)

/-- ADAPTER_DELTA: a delta that a tile has sent arrives; `late` is how many ACLK the output pennant waited for it (R173). -/
def adapterDelta (p vid late : Nat) (s : State) : State :=
  match (pntOf p s).coming.find? fun d => d.1 = vid with
  | none => s
  | some d =>
    let s := updPnt p (fun r => { r with coming := r.coming.filter (fun x => ¬ x = d), deltas := r.deltas ++ [d] }) s
    if late = 0 then s
    else addF (Reg.Bnt.lateCnt.at (bntBase d.2.1)) late (setF (Reg.Bnt.late.at (bntBase d.2.1)) 1 s)

def execAdapterDelta (p : PntIx) (vid late : Nat) (s : State) : Host.Outcome State Fault Refusal :=
  .next (adapterDelta p.toNat vid late s)

/-! ### Debug window, tables and watch restart (R126, R136, R141) -/

/-- PNT_ACCSEL_WRITE. -/
def accSelWrite (p col : Nat) (s : State) : State :=
  updPnt p (fun r => { r with snapReq := true }) (setF (pntF Reg.Pnt.accDone p) 0 (setF (pntF Reg.Pnt.accSel p) col s))

def execPntAccselWrite (p : PntIx) (col : BitVec 9) (s : State) : Host.Outcome State Fault Refusal :=
  .next (accSelWrite p.toNat col.toNat s)

/-- The code of f in PNT_ACCN. -/
def fCode (f : Nat) : Nat := if f = 0 then 0 else if f = 2 then 1 else 2

/-- ACC_SNAPSHOT. -/
def accSnapshot (p : Nat) (s : State) : State :=
  let r := pntOf p s
  if r.snapReq then
    let c := getF (pntF Reg.Pnt.accSel p) s
    let n := SMap.get dfltInt r.lastN c
    let w := SMap.get dfltInt r.lastW c
    let s := setF (pntF Reg.Pnt.accN p) (n % 2 ^ 20).toNat (setF (pntF Reg.Pnt.accF p) (fCode r.lastF) s)
    let s := setF (pntF Reg.Pnt.accDone p) 1 (setF (pntF Reg.Pnt.accW p) (w % 2 ^ 64).toNat s)
    setPnt p { r with snapReq := false } s
  else s

def execAccSnapshot (p : PntIx) (s : State) : Host.Outcome State Fault Refusal := .next (accSnapshot p.toNat s)

/-- PNT_ACTDATA_ACCESS: a read, or a write of a value; the index advances in every case, and an advance from 263 leaves
it there. -/
def actDataAccess (p : Nat) (v : Option Nat) (s : State) : State :=
  let i := getF (pntF Reg.Pnt.actIdx p) s
  let b := getF (pntF Reg.Pnt.actBank p) s
  let s :=
    match v with
    | none => { s with answer := .value (tableEntry (pntOf p s) b i) }
    | some w =>
      if b = getF (pntF Reg.Pnt.tbank p) s then countIgnored (pntBase p + 0x38) s
      else if 258 < i then s
      else updPnt p (fun r => { r with act := SMap.set dfltZero r.act (b * 512 + i) w }) s
  setF (pntF Reg.Pnt.actIdx p) (min 263 (i + 1)) s

def execPntActdataAccess (p : PntIx) (v : Option Word) (s : State) : Host.Outcome State Fault Refusal :=
  .next (actDataAccess p.toNat (v.map BitVec.toNat) s)

/-- WATCH_RESTART: asked for now, done at the next step boundary. -/
def execWatchRestart (p : PntIx) (s : State) : Host.Outcome State Fault Refusal :=
  .next (updPnt p.toNat (fun r => { r with restart := true }) s)

end Sys2Proof.Machine
end

