-- ==== Sys2Proof/Machine/Vector.lean ====
section
/-! DEFINITION. Vector units (R152 to R165, R217, R221, R222): attention and its combination, normalisation, residual
adds, rotary encoding, block selection, sampling and draft verification, run as the operation lists of a step plan. -/

namespace Sys2Proof.Machine
open Sys2Proof

def vecF (f : Field) (v : Nat) : Field := f.at (vecBase v)
def vecOf (v : Nat) (s : State) : VecRec := SMap.get dfltVec s.vecs v
def updVec (v : Nat) (f : VecRec → VecRec) (s : State) : State := { s with vecs := SMap.upd dfltVec s.vecs v f }

/-- The FP32 bits of −∞ and 1.0. -/
def negInf : Nat := 0xFF800000
def oneF32 : Nat := 0x3F800000

/-! ### Results (R118 to R123, R160) -/

/-- Convert a result to its destination format, in its rounding class, count, and store it. -/
def deliverVec (v : Nat) (d : VecDst) (l : List Nat) (s : State) : State :=
  let c := match d.cls with | .kv k => kvCode (getF (Reg.Kvc.lfmt.at (kvcBase + 4 * k)) s) | _ => d.fmt
  let sr := stochastic d.cls d.layer (vecF Reg.Vec.srReq v) (vecF Reg.Vec.srKv v) (vecF Reg.Vec.srResid v) s
  let x := convert c sr (getF (vecF Reg.Vec.rndSeed v) s) (getF (vecF Reg.Vec.rndCtr v) s) (l.map f32)
  let s := addF (vecF Reg.Vec.rndCtr v) x.draws s
  let s := addF (vecF Reg.Vec.cvtSatCnt v) x.sats (addF (vecF Reg.Vec.cvtNanCnt v) x.nans s)
  let m := ((storedVals c x).map fun a => absF32 (toF32 a)).foldl maxNanF32 0
  storeVec d.cls c m x d.addr (updVec v (fun r => { r with out := x.elems }) s)

/-- Operations counted for the meter: dense multiply-adds, element operations, function results (Table 15-2). -/
def countOps (ten dense element func : Nat) (s : State) : State :=
  meterAdd ten 2 dense (meterAdd ten 3 element (meterAdd ten 4 func s))

/-! ### Attention at a holder (R154, R155, R225) -/

/-- exp, with exp(−∞) = 0 as R157 gives it. -/
def expF32 (a : Nat) : Nat := if a = negInf then 0 else (Config.expBits a).toNat

/-- A bit field of the bytes at an address, from a bit offset. -/
def bitsAt (addr bit w : Nat) (s : State) : Nat := ofLe (sramTake 2 (addr + bit / 8) s) / 2 ^ (bit % 8) % 2 ^ w

/-- A key/value element decoded to BF16 as FP32 bits, and whether it was saturated or rounded. -/
def decodeKv (code x e : Nat) : Nat × Bool :=
  let v := elemVal code x e
  let b := toFloat bf16 .rne v
  let exact := match v, addV v (negV (decodeF bf16 b.1)) with
    | .fin _ _ _, .fin _ d _ => decide (d = 0)
    | _, _ => true
  (toF32 (decodeF bf16 b.1), !exact)

/-- The element `i` of the key (`val` false) or value of a slot and group of a block body at `addr` (R206). -/
def kvElem (code g d addr slot grp : Nat) (val : Bool) (s : State) (i : Nat) : Nat × Bool :=
  let w := elemBits code
  let bit := ((slot * g + grp) * d + i) * w + (if val then 256 * g * d * w else 0)
  let sc := addr + 2 * 256 * g * d * w / 8 + slot * (2 * g * d / 32) + (if val then g * d / 32 else 0) + grp * (d / 32) + i / 32
  decodeKv code (sramByte sc s).toNat (bitsAt addr bit w s)

/-- A key or value of a slot, and how many of its elements were saturated or rounded. -/
def kvVec (code g d addr slot grp : Nat) (val : Bool) (s : State) : List Nat × Nat :=
  let l := (List.range d).map (kvElem code g d addr slot grp val s)
  (l.map fun x => x.1, (l.filter fun x => x.2).length)

/-- q · k: exact products, summed pairwise in FP32. -/
def dotF32 (q k : List Nat) : Nat := sumF32 (List.zipWith mulF32 q k)

/-- One block into a partial: scores, and the value vectors of the same slots. -/
def attendBlock (p : Partial) (scores : List Nat) (vals : List (List Nat)) : Partial :=
  if scores.isEmpty then p
  else
    let m := scores.foldl maxNanF32 p.m
    let w := scores.map fun x => expF32 (subF32 x m)
    let f := if p.m = negInf then 0 else expF32 (subF32 p.m m)
    let o := (List.range p.o.length).map fun j =>
      addF32 (mulF32 ((p.o[j]?).getD 0) f) (sumF32 (List.zipWith (fun a (v : List Nat) => mulF32 a ((v[j]?).getD 0)) w vals))
    ⟨m, addF32 (mulF32 p.s f) (sumF32 w), o⟩

/-- The query format of a layer in force: 0 BF16, 1 FP8 E4M3 (R154, R268). -/
def queryFmt (lslot : Nat) (s : State) : Nat :=
  match recipeOf lslot s with
  | some r => r.qfmt
  | none => match layerOf lslot s with | some l => l.qfmt | none => 0

/-- The directory entry of a block that a holder reads: its index and first slot in use. -/
def heldBlock (lslot seq blk first : Nat) (s : State) : Option Block :=
  s.kv.dir.find? fun b => b.lslot = lslot && b.seq = seq && b.blk = blk && b.first = first

/-- A new partial (R155). -/
def newPartial (d : Nat) : Partial := ⟨negInf, 0, List.replicate d 0⟩

/-- The holder's partial so far. -/
def holderPart (v step lslot seq head pos d : Nat) (s : State) : Partial :=
  match (vecOf v s).holders.find? fun h => h.step = step ∧ h.lslot = lslot ∧ h.seq = seq ∧ h.head = head ∧ h.pos = pos with
  | some h => h.part
  | none => newPartial d

/-- ATTENTION_BLOCK: a holder reads a block only through an entry of the plan's tenant; a mismatch fails the step with
cause 11 (Table 10-4). -/
def attend (v step : Nat) (a : AttendOp) (s : State) : State :=
  match layerOf a.lslot s, heldBlock a.lslot a.seq a.blk a.first s with
  | some l, some b =>
    if b.ten ≠ a.ten then failHere step 11 s
    else if (List.range (slotLines a.lslot b.fmt s)).any fun i => isPoisoned (a.addr + 256 * i) s then failHere step 4 s
    else
      let code := kvCode b.fmt
      let top := if b.state = .opened then 256 else b.fill
      let slots := (List.range 256).filter fun i => decide (b.first ≤ i ∧ i < top ∧ a.blk * 256 + i ≤ a.pos)
      let ks := slots.map fun i => kvVec code l.g l.d a.addr i a.group false s
      let vs := slots.map fun i => kvVec code l.g l.d a.addr i a.group true s
      let q := a.q.map fun x => toF32 (decodeF (if queryFmt a.lslot s = 1 then e4m3 else bf16) x)
      let scores := ks.map fun k => mulF32 l.catt.toNat (dotF32 q k.1)
      let p := attendBlock (holderPart v step a.lslot a.seq a.head a.pos l.d s) scores (vs.map fun x => x.1)
      let h : Holder := ⟨step, a.lslot, a.seq, a.head, a.pos, p⟩
      let s := addF (vecF Reg.Vec.kvDecSatCnt v) (((ks ++ vs).map fun x => x.2).sum) s
      let s := countOps a.ten (2 * slots.length * l.d) (slots.length + 2 * l.d) (slots.length + 1) s
      updVec v (fun r => { r with holders := r.holders.filter (fun (x : Holder) =>
        ¬ (x.step = step ∧ x.lslot = a.lslot ∧ x.seq = a.seq ∧ x.head = a.head ∧ x.pos = a.pos)) ++ [h] }) s
  | _, _ => s

/-! ### Combination (R156 to R158) -/

/-- One combination of R157. -/
def combine2 (a b : Partial) : Partial :=
  let m := maxNanF32 a.m b.m
  if m = negInf then ⟨negInf, 0, a.o.map fun _ => 0⟩
  else
    let fa := if a.m = negInf then 0 else expF32 (subF32 a.m m)
    let fb := if b.m = negInf then 0 else expF32 (subF32 b.m m)
    ⟨m, addF32 (mulF32 a.s fa) (mulF32 b.s fb), List.zipWith (fun x y => addF32 (mulF32 x fa) (mulF32 y fb)) a.o b.o⟩

/-- One level of the tree. -/
def combineLevel : List Partial → List Partial
  | a :: b :: l => combine2 a b :: combineLevel l
  | l => l

/-- The levels of the tree. -/
def combineTree : Nat → List Partial → List Partial
  | 0, l => l
  | n + 1, l => combineTree n (combineLevel l)

/-- The root over holders 0 to P − 1. -/
def combineRoot (l : List Partial) : Partial := (combineTree (Nat.log2 l.length + 1) l).headD ⟨negInf, 0, []⟩

/-- A partial with a NaN. -/
def nanPartial (p : Partial) : Bool := isNanF32 p.m || isNanF32 p.s || p.o.any isNanF32

/-- The combined output (R157, R158), and whether it was empty. -/
def finishRoot (l : List Partial) : List Nat × Bool :=
  let r := combineRoot l
  if l.any nanPartial || nanPartial r then (r.o.map fun _ => nanBits fp32, false)
  else if r.s = 0 then (r.o.map fun _ => 0, true)
  else (r.o.map fun x => mulF32 x (Config.recipBits r.s).toNat, false)

/-- A combination with every partial present yields its output. -/
def completeCombine (v cid : Nat) (s : State) : State :=
  match (vecOf v s).combines.find? fun c => c.cid = cid with
  | none => s
  | some c =>
    let parts := (List.range c.holders).filterMap fun i => (c.got.find? fun g => g.1 = i).map fun g => g.2
    if parts.length < c.holders then s
    else
      let y := finishRoot parts
      let s := if y.2 then addF (vecF Reg.Vec.emptyAttnCnt v) 1 s else s
      let s := countOps c.ten 0 (c.holders * (2 * y.1.length + 2)) (2 * c.holders) s
      deliverVec v c.dst y.1 (updVec v (fun r => { r with combines := r.combines.filter fun x => ¬ x.cid = cid }) s)

/-- PARTIAL_RECORD. A record that is not what the plan lists for its holder is discarded and the step fails with cause 3. -/
def partialRecord (v cid : Nat) (p : PartialRec) (s : State) : State :=
  match (vecOf v s).combines.find? fun c => c.cid = cid with
  | none => s
  | some c =>
    if p.seq = c.seq ∧ p.ten = c.ten ∧ p.head = c.head ∧ p.step = c.step % 65536 ∧ p.holder < c.holders ∧
        ¬ c.got.any (fun g => g.1 = p.holder) then
      let o := if p.bf then p.o.map fun x => x * 65536 else p.o
      let x : Partial := ⟨p.m, p.s, o⟩
      completeCombine v cid (updVec v (fun r => { r with
        combines := r.combines.map fun c => if c.cid = cid then { c with got := c.got ++ [(p.holder, x)] } else c }) s)
    else failHere c.step 3 s

def execPartialRecord (src : BitVec 10) (v : HoistIx) (cid : Nat) (p : PartialRec) (s : State) : Host.Outcome State Fault Refusal :=
  .next (partialRecord v.toNat cid p (hear src.toNat s))

/-- A holder hands its partial over: through SRAM in FP32, or to a peer with o in BF16 (R156). -/
def handPartial (v step lslot ten seq head pos holder unit cid : Nat) (pod : Option Nat) (s : State) : State :=
  match (vecOf v s).holders.find? fun h => h.step = step ∧ h.lslot = lslot ∧ h.seq = seq ∧ h.head = head ∧ h.pos = pos with
  | none => s
  | some h =>
    let s := updVec v (fun r => { r with holders := r.holders.filter fun x => ¬ x = h }) s
    match pod with
    | none => partialRecord unit cid ⟨false, seq, ten, head, holder, step % 65536, h.part.m, h.part.s, h.part.o⟩ s
    | some d => sendTo d 0x02 lslot step ((32 + 2 * h.part.o.length + 63) / 64) (.partials ten) s

/-! ### Norms, residual adds and rotary encoding (R159 to R161) -/

/-- y = x × rsqrt(Σ x² ÷ n + ε) × γ, or with the mean taken off first and β added (Table 10-5: 1 RMS, 2 layer norm). -/
def normalise (l : LayerSection) (x : List Nat) : List Nat :=
  let n := intF32 x.length
  let gam := fun j => ((l.gamma[j]?).getD 0).toNat
  let bet := fun j => ((l.beta[j]?).getD 0).toNat
  if l.norm = 0 then x
  else
    let mu := if l.norm = 2 then divF32 (sumF32 x) n else 0
    let xc := if l.norm = 2 then x.map fun a => subF32 a mu else x
    let r := (Config.rsqrtBits (addF32 (divF32 (sumF32 (xc.map fun a => mulF32 a a)) n) l.eps.toNat)).toNat
    (List.range xc.length).map fun j =>
      let y := mulF32 (mulF32 ((xc[j]?).getD 0) r) (gam j)
      if l.norm = 2 then addF32 y (bet j) else y

/-- Rotary encoding of a head of D elements at position p. -/
def rotate (l : LayerSection) (p : Nat) (x : List Nat) : List Nat :=
  let d := x.length
  let at_ := fun i => (x[i]?).getD 0
  (List.range d).map fun j =>
    let split := l.pairing = 1
    let i := if split then j % (d / 2) else j / 2
    let second := if split then decide (d / 2 ≤ j) else j % 2 == 1
    let f := ((l.freqs[i]?).getD 0).toNat
    if f = 0 then at_ j
    else
      let phi := p * f % 2 ^ 64
      let sn := (Config.sinBits phi).toNat
      let cs := (Config.cosBits phi).toNat
      let a := if split then at_ i else at_ (2 * i)
      let b := if split then at_ (i + d / 2) else at_ (2 * i + 1)
      if second then addF32 (mulF32 a sn) (mulF32 b cs) else subF32 (mulF32 a cs) (mulF32 b sn)

/-! ### Block selection (R217) -/

/-- The mean of a block's keys of a group, in BF16. -/
def keyMean (b : Block) (l : LayerSection) (addr grp : Nat) (s : State) : List Nat :=
  let slots := (List.range 256).filter fun i => decide (b.first ≤ i ∧ i < b.fill)
  let ks := slots.map fun i => (kvVec (kvCode b.fmt) l.g l.d addr i grp false s).1
  (List.range l.d).map fun j =>
    (toFloat bf16 .rne (f32 (divF32 (sumF32 (ks.map fun k => (k[j]?).getD 0)) (intF32 ks.length)))).1

/-- The summary of a sealed block, written to the hot tier; SEL shows it (Table 8-2). -/
def summarise (lslot seq blk addr dst : Nat) (s : State) : State :=
  match layerOf lslot s, s.kv.dir.find? fun b => b.lslot = lslot && b.seq = seq && b.blk = blk && b.state = .hot with
  | some l, some b =>
    let bytes := (List.range l.g).flatMap fun g => (keyMean b l addr g s).flatMap (leBytes 2)
    storeSram dst bytes (mapBlocks (fun x => if x = b then { x with sel := true } else x) s)
  | _, _ => s

/-- A score of a block: the largest over the group's query heads of c_att × (q · summary). -/
def blockScore (l : LayerSection) (queries : List (List Nat)) (m : List Nat) : Nat :=
  (queries.map fun q => mulF32 l.catt.toNat (dotF32 q m)).foldl maxNanF32 negInf

/-- Put a scored block in order: the higher score first, ties to the higher index. -/
def insertScore (x : Nat × Nat) : List (Nat × Nat) → List (Nat × Nat)
  | [] => [x]
  | y :: l => if ltF32 y.2 x.2 ∨ (¬ ltF32 x.2 y.2 ∧ y.1 < x.1) then x :: y :: l else y :: insertScore x l

/-- The blocks that a sequence in block selection attends: the NBLK best of those that are not among the last NRECENT,
then the recent ones; every block where the tenant's KVC_SELMAP bit is 0. -/
def selectBlocks (lslot ten : Nat) (queries : List (List Nat)) (blocks : List (Nat × List Nat)) (s : State) : List Nat :=
  let all := blocks.map fun b => b.1
  match layerOf lslot s with
  | none => all
  | some l =>
    if (getF (Reg.Kvc.selmap.at (kvcBase + ten / 32 * 4)) s).testBit (ten % 32) then
      let top := all.foldl max 0
      let old := blocks.filter fun b => decide (b.1 + getF (Reg.Kvc.selNrecent.at kvcBase) s ≤ top)
      let best := ((old.map fun b => (b.1, blockScore l queries b.2)).foldl (fun a x => insertScore x a) []).take
        (getF (Reg.Kvc.selNblk.at kvcBase) s)
      best.map (fun b => b.1) ++ all.filter fun b => decide (top < b + getF (Reg.Kvc.selNrecent.at kvcBase) s)
    else all

/-! ### Sampling (R162 to R165) -/

/-- A distribution formed for a position: combined m and s, candidates (token and z) in order, the token of the largest
logit, and every z. -/
structure Dist where
  m : Nat
  s : Nat
  cands : List (Nat × Nat)
  best : Nat
  zs : List (Nat × Nat)
  deriving DecidableEq, Repr

/-- Put a candidate in order: the larger z first, ties to the lower token. -/
def insertCand (x : Nat × Nat) : List (Nat × Nat) → List (Nat × Nat)
  | [] => [x]
  | y :: l => if ltF32 y.2 x.2 ∨ (¬ ltF32 x.2 y.2 ∧ x.1 < y.1) then x :: y :: l else y :: insertCand x l

/-- The `c` largest of a list. -/
def topCands (c : Nat) (l : List (Nat × Nat)) : List (Nat × Nat) := (l.foldl (fun a x => (insertCand x a).take c) [])

/-- z = logit × (1 ÷ T); at T = 0 the logit itself. -/
def zOf (temp : Nat) (x : Nat) : Nat :=
  if temp = 0 then x else mulF32 x (Config.recipBits (toF32 (decodeF fp16 temp))).toNat

/-- The distribution of a position over the logits that the vector units hold. -/
def distOf (v temp : Nat) (parts : List (HoistIx × List Logit)) (s : State) : Dist :=
  let cand := fun u => getF (vecF Reg.Vec.smpCand u) s
  let loc := parts.map fun p =>
    let zs := p.2.map fun x => (x.1, zOf temp x.2)
    let m := (zs.map fun z => z.2).foldl maxNanF32 negInf
    ((⟨m, sumF32 (zs.map fun z => expF32 (subF32 z.2 m)), []⟩ : Partial), topCands (cand p.1.toNat) zs, zs)
  let root := combineRoot (loc.map fun x => x.1)
  let all := parts.flatMap fun p => p.2
  ⟨root.m, root.s, topCands (cand v) (loc.flatMap fun x => x.2.1), ((topCands 1 all).headD (0, 0)).1, loc.flatMap fun x => x.2.2⟩

/-- The shortest prefix of weights that reaches a target, and whether one does. -/
def keepPrefix (target : Nat) : Nat → List (Nat × Nat) → List (Nat × Nat) × Bool
  | _, [] => ([], false)
  | acc, x :: l =>
    let a := addF32 acc x.2
    if ltF32 a target then
      let r := keepPrefix target a l
      (x :: r.1, r.2)
    else ([x], true)

/-- Kept candidates with their weights, and whether the candidates fell short of P × s (R163). -/
def keptOf (d : Dist) (topk topp : Nat) : List (Nat × Nat) × Bool :=
  let cs := if topk = 0 then d.cands else d.cands.take topk
  let w := cs.map fun c => (c.1, expF32 (subF32 c.2 d.m))
  let r := keepPrefix (mulF32 (toF32 (decodeF fp16 topp)) d.s) 0 w
  (r.1, !r.2)

/-- Sum of kept weights, in order. -/
def weightSum (l : List (Nat × Nat)) : Nat := l.foldl (fun a x => addF32 a x.2) 0

/-- The first entry whose cumulative weight exceeds u × 2^−32 × W. -/
def pick (u total : Nat) : Nat → List (Nat × Nat) → Nat → Nat
  | _, [], last => last
  | acc, x :: l, _ =>
    let a := addF32 acc x.2
    if ltV (mulV (.fin false u (-32)) (f32 total)) (f32 a) then x.1 else pick u total a l x.1

/-- The token of a position needs no random word. -/
def isGreedy (sp : Sampling) : Bool := sp.temp = 0 || sp.topk = 1

/-- The kept candidates with weights that a position's choice runs over: one token of weight 1 at T = 0. -/
def choiceOf (d : Dist) (sp : Sampling) : List (Nat × Nat) × Bool :=
  if sp.temp = 0 then ([(d.best, oneF32)], false) else keptOf d sp.topk sp.topp.toNat

/-- Progress of a draw: tokens with log-probabilities, the counter, truncations, accepted drafts, NaN end. -/
structure Drawn where
  tokens : List Nat
  logps : List Nat
  ctr : Nat
  truncs : Nat
  acc : Nat
  nan : Bool
  deriving DecidableEq, Repr

/-- z_token − m − ln s in FP32. -/
def logProb (d : Dist) (t : Nat) : Nat :=
  subF32 (subF32 (((d.zs.find? fun z => z.1 = t).map fun z => z.2).getD negInf) d.m) (Config.lnBits d.s).toNat

/-- Add a token to the draw. -/
def Drawn.push (r : Drawn) (d : Dist) (t : Nat) : Drawn := { r with tokens := r.tokens ++ [t], logps := r.logps ++ [logProb d t] }

/-- The token that R162 yields at a position. -/
def drawToken (seed : Nat) (d : Dist) (sp : Sampling) (kept : List (Nat × Nat)) (r : Drawn) : Nat × Drawn :=
  if isGreedy sp then (d.best, r)
  else (pick (randomWord seed r.ctr) (weightSum kept) 0 kept 0, { r with ctr := r.ctr + 1 })

/-- The probability of a token in kept candidates, as FP32. -/
def probOf (kept : List (Nat × Nat)) (t : Nat) : Nat :=
  match kept.find? fun c => c.1 = t with | some c => divF32 c.2 (weightSum kept) | none => 0

/-- u < p ÷ q. -/
def acceptDraw (u : Nat) (p q : Nat) : Bool := ltV (mulV (.fin false u (-32)) (decodeF fp16 q)) (f32 p)

/-- max(0, p − q) over the kept candidates. -/
def residual (kept : List (Nat × Nat)) (q : List (Nat × Nat)) : List (Nat × Nat) :=
  kept.map fun c =>
    let d := subF32 (probOf kept c.1) (toF32 (decodeF fp16 (((q.find? fun x => x.1 = c.1).map fun x => x.2).getD 0)))
    (c.1, if ltF32 0 d then d else 0)

/-- DRAFT_VERIFY and SAMPLE_TOKEN: position after position until a rejection, a NaN or the end of the drafts (R222). -/
def verify (seed : Nat) (prob : Bool) (sp : Sampling) : List Dist → List Proposal → Drawn → Drawn
  | [], _, r => r
  | d :: ds, drafts, r =>
    if isNanF32 d.m then { r with nan := true }
    else
      let c := choiceOf d sp
      let r := if c.2 then { r with truncs := r.truncs + 1 } else r
      match drafts with
      | [] =>
        let t := drawToken seed d sp c.1 r
        t.2.push d t.1
      | x :: xs =>
        if prob then
          let r' := { r with ctr := r.ctr + 1 }
          let q := ((x.q.find? fun y => y.1 = x.token).map fun y => y.2).getD 0
          if acceptDraw (randomWord seed r.ctr) (probOf c.1 x.token) q then
            verify seed prob sp ds xs { (r'.push d x.token) with acc := r.acc + 1 }
          else
            let res := residual c.1 x.q
            let l := if weightSum res = 0 then c.1 else res
            r'.push d (pick (randomWord seed r'.ctr) (weightSum l) 0 l 0) |> fun y => { y with ctr := r'.ctr + 1 }
        else
          let t := drawToken seed d sp c.1 r
          if t.1 = x.token then verify seed prob sp ds xs { (t.2.push d t.1) with acc := r.acc + 1 } else t.2.push d t.1

/-- The plan's entry of a sequence in a step in flight. -/
def planEntryOf (n seq : Nat) (s : State) : Option PlanEntry :=
  (stepOf n s).bind fun r => r.plan.entries.find? fun e => e.seq.toNat = seq

/-- The sampling vector unit decides one sequence. -/
def sampleSeq (v n seq : Nat) (dists : List (List (HoistIx × List Logit))) (s : State) : State :=
  match planEntryOf n seq s with
  | none => s
  | some e =>
    let ds := dists.map fun p => distOf v e.samp.temp.toNat p s
    let got := (((stepOf n s).map fun r => r.drafts).getD []).find? fun d => d.1 = seq
    let drafts := if e.gen then ((got.map fun d => d.2).getD []).take e.k else []
    let r := verify (getF (vecF Reg.Vec.smpSeed v) s) e.accept e.samp ds drafts
      ⟨[], [], getF (vecF Reg.Vec.smpCtr v) s, 0, 0, false⟩
    let lp := r.logps.map fun x => toFloat fp16 .rne (f32 x)
    let want := e.samp.logp
    let s := setF (vecF Reg.Vec.smpCtr v) (r.ctr % 2 ^ 64) (addF (vecF Reg.Vec.smpTruncCnt v) r.truncs s)
    let s := if want then addF (vecF Reg.Vec.cvtSatCnt v) (lp.filter fun x => x.2).length s else s
    let s := if want then addF (vecF Reg.Vec.cvtNanCnt v) (r.logps.filter isNanF32).length s else s
    let z := (ds.map fun d => d.zs.length).sum
    let s := countOps e.ten.toNat 0 (2 * z) z s
    let s := if r.nan then emit 0x0004 e.ten.toNat (seqNo seq) n v s else s
    let a : Accepted := ⟨e.seq, r.acc, r.tokens, if want then lp.map fun x => BitVec.ofNat 16 x.1 else [], r.nan⟩
    updStep n (fun x => { x with sampled := x.sampled.filter (fun y => ¬ y.seq = e.seq) ++ [a] }) s

/-- The acceptance message: 32 bytes a sequence, in 64-byte units. -/
def acceptLen (l : List Accepted) : Nat := max 1 ((l.length * 32 + 63) / 64)

/-- The output part decides acceptance and tells every part (R181). -/
def decideStep (n : Nat) (s : State) : State :=
  match stepOf n s with
  | none => s
  | some r => if isOutput s then acceptance n r.sampled (sendAll 0x12 n (acceptLen r.sampled) (.accepted r.sampled) s) else s

/-- A proposal of the guidon (R221): drawn from the QCAND most likely tokens after temperature, top-k and top-p; the
token is left first in `out`, then the list of tokens and FP16 probabilities. -/
def propose (v seq : Nat) (parts : List (HoistIx × List Logit)) (s : State) : State :=
  let r := seqOf seq s
  let d := distOf v r.samp.temp.toNat parts s
  if isNanF32 d.m then updVec v (fun x => { x with out := [] }) s
  else
    let kept := (choiceOf d r.samp).1.take (getF (Reg.Sch.spcQcand.at schBase) s)
    let prob := (tenantOf r.ten s).accept
    let seed := getF (vecF Reg.Vec.smpSeed v) s
    let c := getF (vecF Reg.Vec.smpCtr v) s
    let draws := prob && !(isGreedy r.samp)
    let t := if draws then pick (randomWord seed c) (weightSum kept) 0 kept 0 else d.best
    let s := if draws then addF (vecF Reg.Vec.smpCtr v) 1 s else s
    updVec v (fun x => { x with
      out := t :: kept.flatMap fun k => [k.1, (toFloat fp16 .rne (f32 (probOf kept k.1))).1] }) s

/-! ### The operation list (R153) -/

/-- One operation. -/
def vecOp (v n : Nat) (o : VecOp) (s : State) : State :=
  match o with
  | .attend a => attend v n a s
  | .hand lslot ten seq head pos holder unit cid pod => handPartial v n lslot ten seq head pos holder unit cid pod s
  | .combine cid ten seq head holders dst =>
    updVec v (fun r => { r with combines := r.combines ++ [⟨cid, n, seq, ten, head, holders, dst, []⟩] }) s
  | .norm lslot ten x dst =>
    match layerOf lslot s with
    | some l => deliverVec v dst (normalise l x) (countOps ten 0 (4 * x.length) 1 s)
    | none => s
  | .residual lslot ten x y addr =>
    match layerOf lslot s with
    | some l => deliverVec v ⟨.resid, lslot, l.resfmt, addr⟩ (List.zipWith addF32 x y) (countOps ten 0 x.length 0 s)
    | none => s
  | .rotary lslot ten pos x dst =>
    match layerOf lslot s with
    | some l => deliverVec v dst (rotate l pos x) (countOps ten 0 (3 * x.length) x.length s)
    | none => s
  | .summarise lslot seq blk addr dst => summarise lslot seq blk addr dst s
  | .select lslot ten _ queries blocks =>
    updVec v (fun r => { r with out := selectBlocks lslot ten queries blocks s }) s
  | .release lslot seq blk =>
    fetchMore { s with kv := { s.kv with
      staged := s.kv.staged.filter fun x => ¬ (x.step = n ∧ x.lslot = lslot ∧ x.seq = seq.toNat ∧ x.blk = blk) } }
  | .sample seq dists => sampleSeq v n seq.toNat dists s
  | .propose seq dist => propose v seq.toNat dist s
  | .accept => decideStep n s
  | .kvDone => noteReady n (checkReady n (updStep n (fun r => { r with kvDone := true }) s))

/-- OPERATION_LIST: the operations in order, then the add to the flag word that the plan names. The operations of a step
that is no longer in flight do nothing; proposals are drawn before their plan exists. -/
def operationList (v n : Nat) (ops : List VecOp) (flag : Nat) (add : Word64) (s : State) : State :=
  flagAdd v flag add (some n) (ops.foldl (fun s o => vecOp v n o s) s)

def execOperationList (v : HoistIx) (n : Nat) (ops : List VecOp) (flag : Nat) (add : Word64) (s : State) :
    Host.Outcome State Fault Refusal := .next (operationList v.toNat n ops flag add s)

end Sys2Proof.Machine
end

