-- ==== Sys2Proof/Machine/Lenrik.lean ====
section
/-! DEFINITION. Ports going DOWN and retried, the messages of Table 11-4 that no other chapter takes, the loss of a part,
pairing and mirroring, promotion and spare switch-in (R293, R294, R297 to R307). -/

namespace Sys2Proof.Machine
open Sys2Proof

/-! ### DOWN and retry (R293, R294) -/

/-- Messages that a port holds: in its replay buffer or waiting. -/
def heldMsgs (p : PortState) : List Msg := (p.replay.map fun f => f.msg) ++ p.queues.map fun q => q.2.1

/-- Steps in flight that a message belongs to. -/
def lostSteps (l : List Msg) (s : State) : List Nat :=
  (s.sched.steps.map fun r => r.plan.step).filter fun n => l.any fun m => m.step == n % 2 ^ 32

/-- LNK_CTL.EN := 0: the messages of the replay buffer cannot be sent again, and the steps they belong to fail with cause
12 (Table 11-10). -/
def linkDisable (n : Nat) (s : State) : State :=
  (lostSteps ((portOf n s).replay.map fun f => f.msg) s).foldl (fun s k => failHere k 12 s) (portDark n s)

def execLinkDisable (n : Nat) (s : State) : Host.Outcome State Fault Refusal :=
  if 19 < n then .fault .noSuchPort else .next (linkDisable n s)

/-- A port enters DOWN: its messages are lost, and the steps they belong to fail with cause 12. -/
def portDown (n : Nat) (s : State) : State :=
  let lost := lostSteps (heldMsgs (portOf n s)) s
  let drop := fun (p : PortState) => { p with
    replay := [], resend := [], queues := [], owed := [0, 0, 0, 0], nakSince := none, nakToSend := false, downAt := now s }
  let s := setPortState n 8 (setF (portF Reg.Port.downEvt n) 1 (addF (portF Reg.Port.downCnt n) 1 (updPort n drop s)))
  let s := report 0x000C n 0 (emitPart 0x0301 n (lifeAdd (0x40C + 16 * n) 4 1 s))
  lost.foldl (fun s k => failHere k 12 s) s

/-- TRAINING_ATTEMPT_TIMEOUT: an attempt has lasted 10 ms. -/
def attemptTimeout (n : Nat) (s : State) : State :=
  let p := portOf n s
  if 1 ≤ portState n s ∧ portState n s ≤ 5 ∧ p.attemptAt + ticksMs 10 ≤ now s then
    if p.attempts + 1 < 3 then toLight n (p.attempts + 1) s else portDown n s
  else s

def execTrainingAttemptTimeout (n : Nat) (s : State) : Host.Outcome State Fault Refusal :=
  if 19 < n then .fault .noSuchPort else .next (attemptTimeout n s)

/-- DOWN_RETRY. -/
def downRetry (n : Nat) (s : State) : State :=
  if portState n s = 8 ∧ isSet (portF Reg.Port.auto n) s ∧ (portOf n s).downAt + ticksS 1 ≤ now s then toLight n 0 s else s

def execDownRetry (n : Nat) (s : State) : Host.Outcome State Fault Refusal :=
  if 19 < n then .fault .noSuchPort else .next (downRetry n s)

/-! ### Activation vectors (R292, R299) -/

/-- Vectors that arrived early and now continue the run of those handed over. -/
def handOver : Nat → Nat → List (Nat × Nat) → Nat × List (Nat × Nat)
  | 0, next, l => (next, l)
  | k + 1, next, l =>
    match l.find? (fun x => x.1 = next) with
    | some x => handOver k (next + x.2) (l.filter fun y => ¬ y = x)
    | none => (next, l)

/-- Hand the vectors of a message to the quantisers in VEC0 order; early ones are held. -/
def arrive (step layer vec0 n : Nat) (s : State) : State :=
  let old := s.lnk.arrivals.find? fun a => a.1 = step ∧ a.2.1 = layer
  let next := (old.map fun a => a.2.2.1).getD 0
  let early := ((old.map fun a => a.2.2.2).getD []) ++ [(vec0, n)]
  let r := handOver early.length next early
  { s with lnk := { s.lnk with
      arrivals := (s.lnk.arrivals.filter fun a => ¬ (a.1 = step ∧ a.2.1 = layer)) ++ [(step, layer, r.1, r.2)] } }

/-- Pass a message marked RELAY on to its board peer, or discard and count it (R299). -/
def relay (n : Nat) (m : Msg) (s : State) : State :=
  if m.dpod / 16 = getF (Reg.Lnk.topoBoard.at lnkBase) s ∧ m.dpod ≠ myPod s ∧ 0 < relayBuf s then
    sendOn (directPort m.dpod s) { m with relay := false } s
  else addF (portF Reg.Port.badRelayCnt n) 1 s

/-- ACTIVATION_VECTORS on a port: relayed, or taken by this part. -/
def activationVectors (n : Nat) (m : Msg) (s : State) : State :=
  let s := hear m.spod s
  if m.relay then relay n m s
  else match m.body with | .vectors l => arrive m.step m.layer m.vec0 l.length s | _ => s

def execActivationVectors (n : Nat) (m : Msg) (s : State) : Host.Outcome State Fault Refusal :=
  if 19 < n then .fault .noSuchPort else .next (activationVectors n m s)

/-- DRAFT_PROPOSALS: the output part keeps the drafts of a sequence of a step for its verification (R221). -/
def draftProposals (src n : Nat) (q : SeqKey) (l : List Proposal) (s : State) : State :=
  let s := hear src s
  updStep n (fun r => { r with drafts := (r.drafts.filter fun d => ¬ d.1 = q.toNat) ++ [(q.toNat, l)] }) s

def execDraftProposals (src : BitVec 10) (n : Nat) (q : SeqKey) (l : List Proposal) (s : State) : Host.Outcome State Fault Refusal :=
  .next (draftProposals src.toNat n q l s)

/-- HEADROOM_MESSAGE: the head part takes a part's values in µW, µ°C, n°C per W and κ × 10^9; C becomes 0 (R189, R190). -/
def headroomMessage (src pos : Nat) (watts theta : Int) (rth kappa : Nat) (s : State) : State :=
  let s := hear src s
  if isHead s ∨ s.lnk.lostHead then
    { s with sched := { s.sched with headroom := SMap.set dfltHead s.sched.headroom pos ⟨watts, theta, rth, kappa, 0⟩ } }
  else s

def execHeadroomMessage (src : BitVec 10) (pos : Nat) (watts theta : Int) (rth kappa : Nat) (s : State) :
    Host.Outcome State Fault Refusal := .next (headroomMessage src.toNat pos watts theta rth kappa s)

/-! ### Heartbeats (R301) -/

/-- HEARTBEAT. -/
def execHeartbeat (src : BitVec 10) (s : State) : Host.Outcome State Fault Refusal := .next (hear src.toNat s)

/-- Where a port's heartbeat goes: to its peer, or on an uplink to each part of the instance that it leads to. -/
def beatPods (n : Nat) (s : State) : List Nat :=
  if n < 16 then [getF (portF Reg.Port.peerPod n) s] else (instancePods false s).filter fun d => (portsTo d s).contains n

/-- HEARTBEAT_TIMER: an UP port on which nothing was sent for 100 µs. -/
def heartbeatTimer (n : Nat) (s : State) : State :=
  if portUp n s ∧ (portOf n s).lastSent + ticksUs 100 ≤ now s then
    (beatPods n s).foldl (fun s d => sendOn n ⟨0x19, false, true, d, myPod s, 0, 0, 0, 0, .empty⟩ s) s
  else s

def execHeartbeatTimer (n : Nat) (s : State) : Host.Outcome State Fault Refusal :=
  if 19 < n then .fault .noSuchPort else .next (heartbeatTimer n s)

/-! ### Mirroring (R303, R212) -/

/-- The next encryption counter value; a new range of 2^32 is reserved before its first value is used (R212). -/
def takeNonce (s : State) : Nat × State :=
  let n := getF (Reg.Kvc.nonce.at kvcBase) s
  let s := if n < s.kv.reserved then s else { s with kv := { s.kv with reserved := s.kv.reserved + 2 ^ 32 } }
  (n, addF (Reg.Kvc.nonce.at kvcBase) 1 s)

/-- Bytes of mirrored positions. -/
def itemBytes (i : MirrorItem) (s : State) : Nat := i.n * slotLines i.lslot.toNat i.fmt.toNat s

/-- Bytes in the mirror buffer: entries whose mirror record is not yet written. -/
def mirrorStaged (s : State) : Nat := (s.lnk.mirror.map fun e => if e.nonce.isNone then itemBytes e.item s else 0).sum

/-- Size of the mirror buffer in bytes. -/
def mirrorBuf (s : State) : Nat :=
  match s.ens.image with
  | some i => match i.route with | some r => r.mirrorBuf * 1048576 | none => 0
  | none => 0

/-- Acknowledge mirrored data of a step. -/
def mirrorAck (n : Nat) (s : State) : State :=
  sendOn 15 ⟨0x18, false, true, getF (Reg.Lnk.pairPod.at lnkBase) s, myPod s, 0, n % 2 ^ 32, 0, 1, .empty⟩ s

/-- MIRRORED_ENTRIES: stored, and acknowledged unless the mirror buffer is full. -/
def mirroredEntries (src n : Nat) (l : List MirrorItem) (s : State) : State :=
  let s := hear src s
  if isMirrored s ∧ src = getF (Reg.Lnk.pairPod.at lnkBase) s then
    let s := { s with lnk := { s.lnk with mirror := s.lnk.mirror ++ l.map fun i => ⟨i, n, none, false⟩ } }
    if mirrorStaged s ≤ mirrorBuf s then mirrorAck n s
    else { s with lnk := { s.lnk with mirrorOwed := s.lnk.mirrorOwed ++ [n] } }
  else s

def execMirroredEntries (src : BitVec 10) (n : Nat) (l : List MirrorItem) (s : State) : Host.Outcome State Fault Refusal :=
  .next (mirroredEntries src.toNat n l s)

/-- MIRRORED_SEQUENCE_RECORDS. -/
def mirroredRecords (src n : Nat) (l : List (SeqId × SeqRec)) (s : State) : State :=
  let s := hear src s
  if isMirrored s ∧ src = getF (Reg.Lnk.pairPod.at lnkBase) s then
    mirrorAck n { s with lnk := { s.lnk with
      mirrorSeqs := l.foldl (fun m x => SMap.set dfltSeq m x.1.toNat x.2) s.lnk.mirrorSeqs, mirrorStep := max s.lnk.mirrorStep n } }
  else s

def execMirroredSequenceRecords (src : BitVec 10) (n : Nat) (l : List (SeqId × SeqRec)) (s : State) :
    Host.Outcome State Fault Refusal := .next (mirroredRecords src.toNat n l s)

/-- MIRROR_ACKNOWLEDGEMENT: the last one awaited lets the step become commit-ready. -/
def mirrorAcknowledged (n : Nat) (s : State) : State :=
  noteReady n (checkReady n (updStep n (fun r => if r.mirrorSent then { r with unacked := r.unacked - 1 } else r) s))

def execMirrorAcknowledgement (src : BitVec 10) (n : Nat) (s : State) : Host.Outcome State Fault Refusal :=
  .next (mirrorAcknowledged n (hear src.toNat s))

/-- Slots of a block that mirror records cover. -/
def mirrorCover (i : MirrorItem) (s : State) : Nat :=
  (s.lnk.mirror.map fun e => if e.item.seq = i.seq ∧ e.item.lslot = i.lslot ∧ e.item.blk = i.blk ∧ e.nonce.isSome then e.item.n else 0).sum

/-- Send the acknowledgements that the mirror buffer had no room for. -/
def payAcks (s : State) : State :=
  if mirrorStaged s ≤ mirrorBuf s then
    s.lnk.mirrorOwed.foldl (fun s n => mirrorAck n s) { s with lnk := { s.lnk with mirrorOwed := [] } }
  else s

/-- MIRROR_RECORD_WRITE: one record of a tenant and step goes to the CXL tier under a new counter value; blocks whose
every position is then recorded are compacted as maintenance. -/
def mirrorRecordWrite (ten n : Nat) (s : State) : State :=
  let due := s.lnk.mirror.filter fun e => e.item.ten.toNat == ten && e.step == n && e.nonce.isNone
  if due.isEmpty ∨ ¬ hasSecret ten s ∨ ¬ isSet (Reg.Kvc.cxlEn.at kvcBase) s then s
  else
    let k := takeNonce s
    let s := k.2
    let bytes := (due.map fun e => itemBytes e.item s).sum
    let write := fun (e : MirrorEntry) => if e.item.ten.toNat = ten ∧ e.step = n ∧ e.nonce.isNone then { e with nonce := some k.1 } else e
    let s := { s with lnk := { s.lnk with mirror := s.lnk.mirror.map write } }
    let s := { s with host := { s.host with uio := s.host.uio ++ [(UioUse.mirror ten n, 0)] } }
    let s := payAcks (meterAdd ten 7 bytes s)
    if s.lnk.mirror.any (fun e => !e.whole && decide (256 ≤ mirrorCover e.item s)) then requestAct .compaction s else s

def execMirrorRecordWrite (ten : TenantId) (n : Nat) (s : State) : Host.Outcome State Fault Refusal :=
  .next (mirrorRecordWrite ten.toNat n s)

/-- The records of one sealed block become one mirror block. -/
def compactOne (s : State) : State :=
  match s.lnk.mirror.find? (fun e => !e.whole && decide (256 ≤ mirrorCover e.item s)) with
  | none => s
  | some e =>
    let k := takeNonce s
    let same := fun (x : MirrorEntry) => x.item.seq = e.item.seq && x.item.lslot = e.item.lslot && x.item.blk = e.item.blk && x.nonce.isSome
    let s := meterAdd e.item.ten.toNat 7 (256 * slotLines e.item.lslot.toNat e.item.fmt.toNat s) k.2
    { s with lnk := { s.lnk with
        mirror := s.lnk.mirror.filter (fun x => !(same x)) ++ [⟨{ e.item with lo := 0, n := 256 }, e.step, some k.1, true⟩] } }

/-- MAINT_ACTIVITY_END: an activity whose end has no row of its own releases its grant; compaction merges the records of
a sealed block first (R303). -/
def activityEnd (m : MntAct) (s : State) : State :=
  if holds m s then releaseAct m (if m = .compaction then compactOne s else s) else s

def execMaintActivityEnd (m : MntAct) (s : State) : Host.Outcome State Fault Refusal := .next (activityEnd m s)

/-! ### Loss of a part (R301, R302, R305, R306) -/

/-- Positions of the instance that a pod address holds. -/
def posOf (pod : Nat) (s : State) : List Nat := (List.range (routes s).length).filter fun p => podOf p s = pod

/-- End every live sequence of this part's own instance (R302). -/
def endAll (cause : Nat) (s : State) : State :=
  ((s.sched.seqs.filter fun e => e.2.state ≠ .free && decide (e.1 < lostSeqs)).map fun e => e.1).foldl
    (fun s q => if (seqOf q s).state = .free then s else endSeqError q cause s) s

/-- Blocks lent to a part are lost with it (Table 8-7): restored from the partner where it mirrors them, else their
sequences end with DETAIL 10. -/
def lenderLost (pod : Nat) (s : State) : State :=
  let gone := s.kv.dir.filter fun b => (b.state = .lent || (b.state = .moving && b.src = .lent)) &&
    getF (portF Reg.Port.peerPod b.peer) s == pod
  let inInst := (instancePods false s).contains pod
  let hit := (s.sched.steps.filter fun r => gone.any fun b => r.plan.entries.any fun e =>
    e.seq.toNat = b.seq ∧ (b.lslot, b.blk) ∈ e.blocks).map fun r => r.plan.step
  let s := if inInst then s else hit.foldl (fun s n => failHere n 10 s) s
  gone.foldl (fun s b =>
    if isMirrored s ∧ ¬ isSet (Reg.Lnk.pairLost.at lnkBase) s ∧ ¬ isSet (Reg.Lnk.pairResync.at lnkBase) s then
      sendOn 15 ⟨0x05, false, true, getF (Reg.Lnk.pairPod.at lnkBase) s, myPod s, b.lslot, 0, 0, 1, .block b.lslot b.seq b.blk⟩
        { s with flt := { s.flt with restoring := (b.lslot, b.seq, b.blk) :: s.flt.restoring } }
    else freeBlock b (endFrom b.seq 10 s)) s

/-- An install whose reader is lost fails with error 10 (R248). -/
def readerLost (pod : Nat) (s : State) : State :=
  match s.wgt.inst with
  | some x => if x.reader = some pod then failInst 10 s else s
  | none => s

/-- The head part declares a part lost. -/
def declareLost (pod : Nat) (s : State) : State :=
  if s.lnk.lostPods.contains pod ∨ pod = myPod s then s
  else
    let alts := ((posOf pod s).filterMap fun p => ((routes s)[p]?).map fun e => e.alt).filter fun a => a ≠ 0xFFFF
    let s := emitPart 0x0303 pod { s with lnk := { s.lnk with
      lostPods := pod :: s.lnk.lostPods, silent := s.lnk.silent.filter fun x => ¬ x.2 = pod } }
    let own := (s.sched.steps.map fun r => r.plan.step).filter fun n => decide (n < lostBase)
    let s := own.foldl (fun s n => failHere n 6 s) s
    let s := readerLost pod (lenderLost pod s)
    if isMirrored s ∧ alts.all (fun a => !(s.lnk.lostPods.contains a)) ∧ alts ≠ [] then
      alts.foldl (fun s a => sendTo a 0x16 0 0 1 (.event ⟨0x0303, myPos s, 0xFFFF, 0xFFFF, now s, lastStep s, pod⟩) s) s
    else endAll 6 s

/-- The head part's own position is lost: the partner is told, or the sequences end (R301, R302, R305, R419). -/
def ownLost (s : State) : State :=
  let pair := getF (Reg.Lnk.pairPod.at lnkBase) s
  let s := emitPart 0x0303 (myPod s) s
  if isMirrored s ∧ ¬ isSet (Reg.Lnk.pairLost.at lnkBase) s then
    sendTo pair 0x16 0 0 1 (.event ⟨0x0303, myPos s, 0xFFFF, 0xFFFF, now s, lastStep s, myPod s⟩) s
  else endAll 6 s

/-! ### Unplanned clock loss (R341, R419) -/

/-- A region's ACLK is lost: every step in flight fails with cause 16, and the crossings into the region stay HELD. The
head part treats its own position as lost; another part's CLOCK_LOST tells its head part. -/
def regionLost (b : Nat) (s : State) : State :=
  let first := s.cfg.lostRegions.isEmpty
  let s := failAll 16 { s with cfg := { s.cfg with lostRegions := b :: s.cfg.lostRegions } }
  let s := setCrossing b { crossingOf b s with near := .held } s
  if first ∧ isHead s then ownLost s else s

/-- The part acts on an unplanned loss of another clock by domain (R419). -/
def clockLossAct (b : Nat) (s : State) : State :=
  if b = 8 then setF Reg.Glb.seqRun 0 (setF Reg.Glb.ctrlRun 0 s)
  else if b = 9 then linkLost s
  else if 11 ≤ b ∧ portUp (b - 11) s then leaveUp (b - 11) s
  else s

/-- CLOCK_ABSENCE_TIMEOUT: a clock without an edge for 256 MCLK. -/
def clockAbsence (b : Nat) (s : State) : State :=
  if clockPresent b s then
    let planned := plannedStop b s
    let s := setClock b false s
    if planned then s
    else
      let s := emitPart 0x0501 b (if b < 8 then regionLost b s else s)
      clockLossAct b (if 11 ≤ b then s else report 0x0010 b 0 s)
  else s

def execClockAbsenceTimeout (b : Nat) (s : State) : Host.Outcome State Fault Refusal :=
  if 30 < b then .fault .noSuchClock else .next (clockAbsence b s)

/-! ### Promotion (R305) -/

/-- A mirror block or record enters the block directory as a CXL-tier block of slot s + 32 (R305). -/
def enterMirror (s : State) (e : MirrorEntry) : State :=
  let l := e.item.lslot.toNat + 32
  let q := e.item.seq.toNat + lostSeqs
  let fill := e.item.lo + e.item.n
  let is := fun (b : Block) => b.lslot = l ∧ b.seq = q ∧ b.blk = e.item.blk.toNat ∧ b.fmt = e.item.fmt.toNat
  if s.kv.dir.any (fun b => decide (is b)) then mapBlocks (fun b => if is b then { b with fill := max b.fill fill, first := min b.first e.item.lo } else b) s
  else if getF (Reg.Kvc.dirCap.at kvcBase) s ≤ s.kv.dir.length then
    if s.kv.fullDir then s else tierFull 0 { s with kv := { s.kv with fullDir := true } }
  else
    let b : Block := ⟨e.item.ten.toNat, q, e.item.blk.toNat, e.item.fmt.toNat, l, e.item.lo, fill, .cxl, 0, 0, false, none, .cxl, .cxl,
      0, false, false, false, false, e.nonce.getD 0⟩
    { s with kv := { s.kv with dir := s.kv.dir ++ [b] } }

/-- The partner is promoted for the lost position (R305). -/
def promotePair (pod : Nat) (s : State) : State :=
  let tens := (s.lnk.mirror.map fun e => (e.item.ten.toNat, e.step)).eraseDups
  let s := tens.foldl (fun s x => mirrorRecordWrite x.1 x.2 s) s
  let s := s.lnk.mirror.foldl enterMirror s
  let s := (mySlots s).foldl (fun s l =>
    setF (Reg.Kvc.lfmt.at (kvcBase + 4 * (l + 32))) (getF (Reg.Kvc.lfmt.at (kvcBase + 4 * l)) s) s) s
  let s := emitPart 0x0304 pod (setF (Reg.Lnk.pairPromoted.at lnkBase) 1 { s with lnk := { s.lnk with mirror := [], mirrorOwed := [] } })
  if isHead s then
    let s := s.lnk.mirrorSeqs.foldl (fun s x => setSeq (x.1 + lostSeqs) { x.2 with inStep := none } s) s
    let s := { s with lnk := { s.lnk with lostHead := true, lostNext := lostBase + s.lnk.mirrorStep + 1, mirrorSeqs := [] } }
    sendAll 0x1B lostBase 1 (.route (myPos s)) s
  else sendTo (podOf 4096 s) 0x16 0 lostBase 1 (.event ⟨0x0304, myPos s, 0xFFFF, 0xFFFF, now s, lastStep s, pod⟩) s

/-- This part's partner is declared lost (R306, R305): PARTNER_LOST, PAIR_LOST, and the steps awaiting its
acknowledgements fail with cause 6; a part that holds its mirror is promoted. -/
def partnerLost (s : State) : State :=
  if isSet (Reg.Lnk.pairLost.at lnkBase) s then s
  else
    let pod := getF (Reg.Lnk.pairPod.at lnkBase) s
    let s := emitPart 0x0305 pod (setF (Reg.Lnk.pairLost.at lnkBase) 1 (setF (Reg.Lnk.pairResync.at lnkBase) 0 s))
    let hit := (s.sched.steps.filter fun r => r.mirrorSent && decide (0 < r.unacked)).map fun r => r.plan.step
    let s := hit.foldl (fun s n => failHere n 6 s) s
    let free := fun (r : StepRec) => { r with unacked := 0 }
    let s := { s with sched := { s.sched with steps := s.sched.steps.map free } }
    if !s.lnk.mirror.isEmpty || !s.lnk.mirrorSeqs.isEmpty then promotePair pod s else s

/-- Parts that report another silent. -/
def reporters (pod : Nat) (s : State) : Nat := ((s.lnk.silent.filter fun x => x.2 = pod).map fun x => x.1).eraseDups.length

/-- Loss timeout in LTIME ticks. -/
def lossTicks (s : State) : Nat :=
  match s.ens.image with
  | some i => match i.route with | some r => ticksUs r.lossTmo | none => ticksUs 2000
  | none => ticksUs 2000

/-- Every port towards a part is disabled: its silence never declares it lost (R300). -/
def allDisabled (pod : Nat) (s : State) : Bool := (portsTo pod s).all fun n => portState n s == 0

/-- LOSS_TIMEOUT: the part at pod address `rep` reports the part at `pod` silent on every path for LOSSTMO. A report of
this part itself stands only if it has heard nothing for that time. The head part declares a loss on two reports; the
partner of a head part on P15's silence and one report of another part. -/
def lossTimeout (rep pod : Nat) (s : State) : State :=
  let mine := decide (rep = myPod s)
  if pod = myPod s ∨ allDisabled pod s ∨ (mine ∧ now s < SMap.get dfltZero s.lnk.heard pod + lossTicks s) then s
  else
    let s := if s.lnk.silent.contains (rep, pod) then s else { s with lnk := { s.lnk with silent := (rep, pod) :: s.lnk.silent } }
    let isPair := decide (isMirrored s = true ∧ pod = getF (Reg.Lnk.pairPod.at lnkBase) s)
    if isPair then
      let own := s.lnk.silent.contains (myPod s, pod)
      if isHead s ∧ own ∧ 2 ≤ reporters pod s then partnerLost (emitPart 0x0303 pod s) else s
    else if isHead s then
      if (instancePods false s).contains pod then (if 2 ≤ reporters pod s then declareLost pod s else s)
      else if mine then readerLost pod (lenderLost pod s)
      else s
    else if mine then
      let alt := ((posOf pod s).filterMap fun p => ((routes s)[p]?).map fun e => e.alt).headD 0xFFFF
      let s := if pod = headPod s then (if alt = 0xFFFF then s else sendTo alt 0x16 0 0 1 (.silent pod) s)
        else sendTo (headPod s) 0x16 0 0 1 (.silent pod) s
      if (instancePods false s).contains pod then readerLost pod s else readerLost pod (lenderLost pod s)
    else s

def execLossTimeout (rep pod : BitVec 10) (s : State) : Host.Outcome State Fault Refusal :=
  .next (lossTimeout rep.toNat pod.toNat s)

/-- LNK_SPARECMD with OP = LOST: the head part declares the named part of its instance lost. -/
def execLost (pod : BitVec 10) (s : State) : Host.Outcome State Fault Refusal :=
  .next (if isHead s ∧ (instancePods false s).contains pod.toNat then declareLost pod.toNat s else s)

/-- A position's address becomes its ALT (R305). -/
def switchPos (p : Nat) (s : State) : State :=
  if s.lnk.switched.contains p then s
  else
    let old := podOf p s
    let s := { s with lnk := { s.lnk with switched := p :: s.lnk.switched, lostPods := s.lnk.lostPods.filter fun d => ¬ d = old } }
    if s.sched.headPod = some old then { s with sched := { s.sched with headPod := none } } else s

/-- ROUTE_SWITCH. -/
def execRouteSwitch (src : BitVec 10) (p : Nat) (s : State) : Host.Outcome State Fault Refusal :=
  .next (switchPos p (hear src.toNat s))

/-- A promoted part has taken a lost position: the head part of the instance switches every part's route (R305). -/
def promotedNotice (pod : Nat) (s : State) : State :=
  if s.lnk.lostPods.contains pod then
    (posOf pod s).foldl (fun s p => switchPos p (sendAll 0x1B 0 1 (.route p) s)) s
  else s

/-- FORWARDED_EVENT: the head part places another part's event on its ring (R197) and acts on what it says; messages of
this type also carry the head part's notices to the parts. -/
def forwardedEvent (src : Nat) (b : MsgBody) (s : State) : State :=
  let s := hear src s
  match b with
  | .event e =>
    if e.code = 0x0303 ∧ isMirrored s ∧ e.detail = getF (Reg.Lnk.pairPod.at lnkBase) s then partnerLost s
    else if ¬ isHead s then
      -- The head part's notices: a pause, a resume.
      if e.code = 0x0009 then
        mapBlocks (fun b => if b.seq = e.seq then { b with demote := true, promote := false } else b) (sealSeq e.seq s)
      else if e.code = 0x000A then
        mapBlocks (fun b => if b.seq = e.seq then { b with demote := false, promote := true } else b) s
      else s
    else if e.code = 0x0501 ∧ e.detail < 8 then declareLost src (queueEvent e s)
    else if e.code = 0x0304 ∧ s.lnk.lostPods.contains e.detail then promotedNotice e.detail (queueEvent e s)
    else
      let s := queueEvent e s
      if e.code = 0x0001 then (if (seqOf e.seq s).state = .free then s else endSeq e.seq s)
      else if e.code = 0x0201 then
        { s with wgt := { s.wgt with peers := (s.wgt.peers.filter fun x => ¬ x.1 = e.src) ++ [(e.src, e.detail % 2 ^ 24)] } }
      else if e.code = 0x0203 then { s with wgt := { s.wgt with peers := s.wgt.peers.filter fun x => ¬ x = (e.src, e.detail) } }
      else s
  | .epochZero k => if isHead s then s else { s with wgt := { s.wgt with live := s.wgt.live.filter fun x => ¬ x = k } }
  | .silent pod => lossTimeout src pod s
  | _ => s

def execForwardedEvent (src : BitVec 10) (b : MsgBody) (s : State) : Host.Outcome State Fault Refusal :=
  .next (forwardedEvent src.toNat b s)

/-- DISCARD: every block of the sequence is freed under Table 8-5; from the pair partner it names a sequence of the
partner's, whose mirror records are freed (R220, R303). -/
def discard (src q : Nat) (s : State) : State :=
  let s := hear src s
  if isMirrored s ∧ src = getF (Reg.Lnk.pairPod.at lnkBase) s then
    { s with lnk := { s.lnk with
        mirror := s.lnk.mirror.filter (fun e => ¬ e.item.seq.toNat = q), mirrorSeqs := SMap.erase q s.lnk.mirrorSeqs } }
  else dropMirror q (discardBlocks q s)

def execDiscard (src : BitVec 10) (q : SeqKey) (s : State) : Host.Outcome State Fault Refusal := .next (discard src.toNat q.toNat s)

/-- RESYNC_COMPLETE: every committed entry of every live sequence is at the partner, and mirroring resumes (R306). -/
def resyncComplete (s : State) : State :=
  if isSet (Reg.Lnk.pairResync.at lnkBase) s then
    let s := setF (Reg.Lnk.pairResync.at lnkBase) 0 (setF (Reg.Lnk.pairLost.at lnkBase) 0 (setF (Reg.Lnk.resyncLeft.at lnkBase) 0 s))
    releaseAct .resync (emitPart 0x0306 s.lnk.resyncTotal s)
  else s

def execResyncComplete (s : State) : Host.Outcome State Fault Refusal := .next (resyncComplete s)

/-! ### Spare switch-in (R216, R305) -/

/-- The lent space is reclaimed once no block is kept for a peer: RECLAIMED. LEND becomes 0, unless an amendment's new
value is to be set at the next step boundary (R216, R271). -/
def reclaimDone (s : State) : State :=
  if s.lnk.reclaiming ∧ s.kv.lent.isEmpty then
    let s := setF (Reg.Lnk.spareReclaimed.at lnkBase) 1 (if s.ens.lendNext.isSome then s else setF (Reg.Kvc.lend.at kvcBase) 0 s)
    { s with lnk := { s.lnk with reclaiming := false } }
  else s

/-- Demote every block kept for peers to the CXL tier. -/
def reclaim (s : State) : State :=
  let s := setF (Reg.Lnk.spareReclaimed.at lnkBase) 0 { s with
    lnk := { s.lnk with reclaiming := true }
    kv := { s.kv with lent := s.kv.lent.map fun b => { b with demoting := true } } }
  reclaimDone (s.kv.lent.foldl (fun s b => requestAct (.lentMove b.pod b.lslot b.seq b.blk) s) s)

/-- LNK_SPARECMD with OP = RECLAIM. -/
def execReclaim (s : State) : Host.Outcome State Fault Refusal := .next (reclaim s)

/-- Blocks of the promoted position. -/
def promotedBlocks (s : State) : List Block := s.kv.dir.filter fun b => decide (32 ≤ b.lslot ∧ lostSeqs ≤ b.seq)

/-- LNK_SPARECMD with OP = HANDBACK: the promoted position's blocks go to the spare over P15 (R305). -/
def handback (s : State) : State :=
  if isSet (Reg.Lnk.pairPromoted.at lnkBase) s then
    let s := setF (Reg.Lnk.spareHandback.at lnkBase) 0 { s with lnk := { s.lnk with handingBack := true } }
    (promotedBlocks s).foldl (fun s b =>
      sendOn 15 ⟨0x05, false, true, getF (portF Reg.Port.peerPod 15) s, myPod s, b.lslot - 32, 0, 0, slotLines b.lslot b.fmt s * 4,
        .block (b.lslot - 32) (seqNo b.seq) b.blk⟩ s) s
  else s

def execHandback (s : State) : Host.Outcome State Fault Refusal := .next (handback s)

/-- HANDBACK_DONE. -/
def execHandbackDone (s : State) : Host.Outcome State Fault Refusal :=
  .next (if s.lnk.handingBack then
    setF (Reg.Lnk.spareHandback.at lnkBase) 1 { s with lnk := { s.lnk with handingBack := false } } else s)

end Sys2Proof.Machine
end

