-- ==== Sys2Proof/Machine/Meter.lean ====
section
/-! DEFINITION. The Nelnen meter (chapter 15): the collector's intervals, frames, meter seconds and their records, totals,
reading, and sealing. Energy is in fJ and µJ; MTIME stands at the start of the open second. -/

namespace Sys2Proof.Machine
open Sys2Proof

/-- Change the meter. -/
def updMtr (f : MeterState → MeterState) (s : State) : State := { s with mtr := f s.mtr }

/-- MTCLK ticks of a meter second (R379). -/
def mtrSecond : Nat := 16384000

/-- Bytes of the record store (R378). -/
def mtrStore : Nat := 16 * 1048576

/-- The overhead account (R382). -/
def overhead : Nat := 0xFFFF

/-! ### Conditions and alert (R390) -/

/-- Bytes of records newer than the last one read over I3C. -/
def unreadBytes (m : MeterState) : Nat := ((m.records.filter fun r => decide (m.readTo < r.rseq)).map fun r => r.bytes.length).sum

/-- The nonce is valid: 60 s have not passed since it was issued. -/
def nonceValid (m : MeterState) : Bool :=
  match m.nonce with | some n => decide (m.mtime < n.2 + 60 * mtrSecond) | none => false

/-- The conditions of R390, bit 0 first. -/
def mtrCond (m : MeterState) : Nat :=
  (if m.flagged then 1 else 0) + (if m.sealFault then 2 else 0) + (if mtrStore * 3 < unreadBytes m * 4 then 4 else 0) +
    (if m.nonce.isSome then 8 else 0)

/-- MTR_ALERT_N follows the conditions; it is released while the meter is off. -/
def mtrAlert (s : State) : State :=
  { s with pins := { s.pins with mtrAlertN := !(s.mtr.on) || mtrCond s.mtr == 0 } }

/-! ### Parameters (Table 15-3) -/

/-- The bytes of a parameter set, in the table's order. -/
def paramBytes (p : MeterParams) : List Byte :=
  p.consts ++ p.weights.flatMap (leBytes 4) ++ leBytes 4 p.p0 ++ p.keyDigest ++ p.approval

/-- PDIG. -/
def paramDigest (p : MeterParams) : List Byte := Config.shake256 (paramBytes p)

/-! ### The collector (R382) -/

/-- Residency of a block of the directory, sampled once per interval: kind 8 hot, 10 in the CXL tier. -/
def residencyKind (b : Block) : Option Nat :=
  match b.state with
  | .opened => some 8
  | .hot => some 8
  | .cxl => some 10
  | .lent => none
  | .moving => match b.src with | .hot => some 8 | .opened => some 8 | .cxl => some 10 | _ => none

/-- Sample residency: this part's blocks, and the blocks that it lends space to (kind 9). -/
def sampleResidency (s : State) : State :=
  let s := s.kv.dir.foldl (fun s b => match residencyKind b with | some k => meterAdd b.ten k 1 s | none => s) s
  s.kv.lent.foldl (fun s b => meterAdd b.ten 9 1 s) s

/-- ACTIVITY_INTERVAL_CLOSE: one frame of counts, and the counters start at 0. -/
def intervalClose (s : State) : State :=
  let s := sampleResidency s
  let f : Frame := ⟨s.mtr.interval, now s, s.mtr.acts.map fun e => (e.1 / 16, e.1 % 16, e.2)⟩
  updMtr (fun m => { m with acts := [], interval := (m.interval + 1) % 2 ^ 32, sent := m.sent ++ [f] }) s

def execActivityIntervalClose (s : State) : Host.Outcome State Fault Refusal := .next (intervalClose s)

/-- Add a received frame's counts. -/
def frameCounts (f : Frame) (c : SMap Nat) : SMap Nat :=
  f.counts.foldl (fun c e => SMap.upd dfltZero c (e.1 * 16 + e.2.1) (fun v => v + e.2.2)) c

/-- COUNTER_FRAME (R383): the oldest frame sent arrives, whole or not. -/
def counterFrame (ok : Bool) (s : State) : State :=
  match s.mtr.sent with
  | [] => s
  | f :: l =>
    let s := updMtr (fun m => { m with sent := l }) s
    if ok ∧ s.mtr.on then
      updMtr (fun m =>
        let skip := match m.lastInterval with | some i => if f.interval ≤ i then 0 else f.interval - i - 1 | none => 0
        { m with
          counts := frameCounts f m.counts, frames := m.frames + 1, missing := m.missing + skip
          firstFrame := if m.firstFrame.isNone then some (f.ltime, f.interval) else m.firstFrame
          lastInterval := some f.interval }) s
    else s

def execCounterFrame (ok : Bool) (s : State) : Host.Outcome State Fault Refusal := .next (counterFrame ok s)

/-! ### Records (R385, R386, R389) -/

/-- A record's bytes: header (Table 15-4), entries, and the signature by the meter's key. -/
def recordOf (format flags rseq sealCount n mtime e e0 frames missing ltime intv : Nat) (pdig entries : List Byte) : List Byte :=
  let l := leBytes 4 0x4E4C4E53 ++ leBytes 2 format ++ leBytes 2 flags ++ leBytes 8 rseq ++ leBytes 4 sealCount ++ leBytes 4 n ++
    leBytes 8 mtime ++ leBytes 4 e ++ leBytes 4 e0 ++ leBytes 4 frames ++ leBytes 4 missing ++ leBytes 8 ltime ++
    leBytes 4 intv ++ leBytes 4 0 ++ pdig ++ entries
  l ++ Config.ed448Sign 1 (Config.shake256 l)

/-- One entry: account, E_a, and U_a ÷ 1,024 or a total. -/
def mtrEntry (account e u : Nat) : List Byte := leBytes 2 account ++ leBytes 2 0 ++ leBytes 4 e ++ leBytes 8 (min u (2 ^ 64 - 1))

/-- The newest records that the store holds. -/
def trimStore : List MeterRecord → List MeterRecord
  | [] => []
  | r :: l => if ((r :: l).map fun x => x.bytes.length).sum ≤ mtrStore then r :: l else trimStore l

/-- Write a record to the store under the next RSEQ. -/
def putRecord (format : Nat) (f : Nat → List Byte) (m : MeterState) : MeterState :=
  let n := m.rseq + 1
  { m with rseq := n, records := trimStore (m.records ++ [⟨format, n, f n⟩]) }

/-- Units of an account: Σ w_k × c. -/
def unitsOf (p : MeterParams) (c : SMap Nat) (a : Nat) : Nat :=
  ((List.range 11).map fun k => (p.weights[k]?).getD 0 * SMap.get dfltZero c (a * 16 + k)).sum

/-- Accounts with counts, in ascending order. -/
def accountsOf (c : SMap Nat) : List Nat :=
  (c.map fun e => e.1 / 16).foldl (fun l a => if l.getLast? = some a then l else l ++ [a]) []

/-- Apportion a second's energy (R384): account, E_a and U_a of every tenant with units, then the overhead account. -/
def apportion (p : MeterParams) (c : SMap Nat) (e : Nat) : Nat × List (Nat × Nat × Nat) :=
  let e0 := min e (p.p0 * 1000)
  let us := (accountsOf c).map fun a => (a, unitsOf p c a)
  let sum := (us.map fun u => u.2).sum
  let ts := (us.filter fun u => u.1 ≠ overhead && u.2 ≠ 0).map fun u => (u.1, (e - e0) * u.2 / sum, u.2)
  (e0, ts ++ [(overhead, e - (ts.map fun t => t.2.1).sum, unitsOf p c overhead)])

/-- Add a second's energies to the running totals. -/
def addTotals (l : List (Nat × Nat × Nat)) (t : SMap Nat) : SMap Nat :=
  l.foldl (fun t x => SMap.upd dfltZero t x.1 (fun v => (v + x.2.1) % 2 ^ 64)) t

/-- FLAGS of a record of any kind: the first one after meter power-on, and a failed check of the sealed region (R388). -/
def standingFlags (m : MeterState) : Nat := (if m.firstRecord then 16 else 0) + (if m.sealFault then 32 else 0)

/-- The seal record: old and new set digests in its entries (R389). -/
def sealRecord (old : List Byte) (m : MeterState) : MeterState :=
  { putRecord 3 (fun n => recordOf 3 (standingFlags m) n m.sealCount 8 m.mtime 0 0 0 0 0 0 (paramDigest m.params)
      (old ++ paramDigest m.params)) m with firstRecord := false }

/-- The second record and what follows from it; `flags` are the channel flags. -/
def secondRecord (flags e : Nat) (m : MeterState) : MeterState :=
  let a := apportion m.params m.counts e
  let fl := flags + (if 0 < m.missing then 4 else 0) + (if m.frames = 0 then 8 else 0) + standingFlags m
  let ff := m.firstFrame.getD (0, 0)
  let es := a.2.flatMap fun x => mtrEntry x.1 x.2.1 (x.2.2 / 1024)
  let m := putRecord 1 (fun n => recordOf 1 fl n m.sealCount a.2.length m.mtime e a.1 m.frames m.missing ff.1 ff.2
    (paramDigest m.params) es) m
  { m with totals := addTotals a.2 m.totals, firstRecord := false, counts := [], frames := 0, missing := 0, firstFrame := none }

/-- SEAL_EXCHANGE at a meter-second boundary. -/
def sealExchange (m : MeterState) : MeterState :=
  match m.exchange, m.spare with
  | true, some p =>
    { m with params := p, spare := some m.params, sealCount := m.sealCount + 1, exchange := false
             sealDue := some (paramDigest m.params) }
  | _, _ => m

/-- METER_SECOND: the energy of the second in fJ by the A converters, corrected by the certified constants; the
differences of the means of A and B in millionths of full-scale; a sample beyond full-scale (R380, R381). -/
def meterSecond (fj vDiff iDiff : Nat) (aboveV : Bool) (s : State) : State :=
  if ¬ s.mtr.on then s
  else
    let chan := decide (1000 < vDiff ∨ 1000 < iDiff)
    let flags := (if chan then 1 else 0) + (if aboveV then 2 else 0)
    mtrAlert (updMtr (fun m =>
      let tot := m.carryFj + fj
      let m := match m.sealDue with | some d => { sealRecord d m with sealDue := none } | none => m
      let m := secondRecord flags (tot / 10 ^ 9) m
      sealExchange { m with carryFj := tot % 10 ^ 9, mtime := m.mtime + mtrSecond, flagged := chan || aboveV }) s)

def execMeterSecond (fj vDiff iDiff : Nat) (aboveV : Bool) (s : State) : Host.Outcome State Fault Refusal :=
  .next (meterSecond fj vDiff iDiff aboveV s)

/-! ### Power (R378, R379, R386) -/

/-- METER_POWER_ON; `ok`: the current copy's digest verifies (R388). -/
def meterPowerOn (ok : Bool) (s : State) : State :=
  if s.mtr.on then s
  else mtrAlert (updMtr (fun m => { m with
    on := true, mtime := 0, carryFj := 0, firstRecord := true, sealFault := !ok, counts := [], frames := 0, missing := 0
    firstFrame := none, lastInterval := none, flagged := false, records := [], totals := m.saved, programming := false
    exchange := false, nonce := none, totalsRec := none }) s)

def execMeterPowerOn (ok : Bool) (s : State) : Host.Outcome State Fault Refusal := .next (meterPowerOn ok s)

/-- METER_POWER_FALL: the totals and the open second's energy are saved, and what is volatile is lost. -/
def meterPowerFall (openFj : Nat) (s : State) : State :=
  if s.mtr.on then
    mtrAlert (updMtr (fun m => { m with
      on := false, saved := m.totals, savedOpen := (m.carryFj + openFj) / 10 ^ 9, records := [], nonce := none
      totalsRec := none, programming := false, exchange := false, flagged := false, readTo := 0 }) s)
  else s

def execMeterPowerFall (openFj : Nat) (s : State) : Host.Outcome State Fault Refusal := .next (meterPowerFall openFj s)

/-- TOTALS_SAVE. -/
def execTotalsSave (s : State) : Host.Outcome State Fault Refusal :=
  .next (if s.mtr.on then updMtr (fun m => { m with saved := m.totals }) s else s)

/-! ### Reading (R387, R392) -/

/-- A 4 KiB chunk of bytes. -/
def chunkOf (n : Nat) (l : List Byte) : List Byte := (l.drop (4096 * n)).take 4096

/-- An answer over I3C. -/
def i3cAnswer (l : Option (List Byte)) (s : State) : State :=
  { s with answer := match l with | some b => .bytes b | none => .none }

/-- An answer in the mailbox: bytes, or GONE. -/
def boxAnswer (l : Option (List Byte)) (s : State) : State :=
  let s := match l with
    | some b => setF (Reg.Mtr.mbLen.at mtrBase) b.length (updMtr (fun m => { m with win := b }) s)
    | none => setF (Reg.Mtr.mbGone.at mtrBase) 1 (setF (Reg.Mtr.mbLen.at mtrBase) 0 (updMtr (fun m => { m with win := [] }) s))
  signal 0 (setF (Reg.Mtr.mbBusy.at mtrBase) 0 (setF (Reg.Mtr.mbDone.at mtrBase) 1 s))

/-- The totals record: chunk 0 forms a new one. -/
def totalsRecord (m : MeterState) : MeterState :=
  let es := (m.totals.filter fun t => t.1 ≠ overhead) ++ [(overhead, SMap.get dfltZero m.totals overhead)]
  let n := m.rseq + 1
  let b := recordOf 2 (standingFlags m) n m.sealCount es.length m.mtime 0 0 0 0 0 0 (paramDigest m.params)
    (es.flatMap fun t => leBytes 2 t.1 ++ leBytes 2 0 ++ leBytes 4 0 ++ leBytes 8 t.2)
  { m with rseq := n, totalsRec := some ⟨2, n, b⟩, firstRecord := false }

/-- The bytes of READ_STATUS: seal count, newest RSEQ, oldest RSEQ held, conditions. -/
def statusBytes (m : MeterState) : List Byte :=
  leBytes 4 m.sealCount ++ leBytes 8 m.rseq ++ leBytes 8 ((m.records.head?.map fun r => r.rseq).getD 0) ++ leBytes 4 (mtrCond m)

/-- READ_STATUS through the mailbox also shows in its registers. -/
def statusRegs (s : State) : State :=
  setF (Reg.Mtr.sealCnt.at mtrBase) s.mtr.sealCount
    (setF (Reg.Mtr.newest.at mtrBase) s.mtr.rseq (setF (Reg.Mtr.cond.at mtrBase) (mtrCond s.mtr) s))

/-- A chunk of a record, where the store still holds it. -/
def recordChunk (rseq chunk : Nat) (m : MeterState) : Option (List Byte) :=
  (m.records.find? fun r => r.rseq = rseq).map fun r => chunkOf chunk r.bytes

/-- A mailbox request served: 1 READ_RECORD, 2 READ_TOTALS, 3 READ_PARAMS, 4 READ_STATUS. -/
def boxServe (op chunk : Nat) (s : State) : State :=
  if op = 1 then boxAnswer (recordChunk (getF (Reg.Mtr.rseqSel.at mtrBase) s) chunk s.mtr) s
  else if op = 2 then
    let s := if chunk = 0 then updMtr totalsRecord s else s
    boxAnswer (some (chunkOf chunk ((s.mtr.totalsRec.map fun r => r.bytes).getD []))) s
  else if op = 3 then boxAnswer (some (chunkOf chunk (paramBytes s.mtr.params))) s
  else boxAnswer (some (statusBytes s.mtr)) (statusRegs s)

/-- A write of MTR_REQ: served while management firmware and the meter run, held otherwise (R34). A request is not taken
while one is in progress. -/
def boxRequest (op chunk : Nat) (s : State) : State :=
  if isSet (Reg.Mtr.mbBusy.at mtrBase) s then countIgnored 0xA0000 s
  else
    let s := setF (Reg.Mtr.mbBusy.at mtrBase) 1 s
    if isSet Reg.Glb.mgmtFwRun s ∧ s.mtr.on then boxServe op chunk s
    else updMtr (fun m => { m with held := some (op, chunk) }) s

/-- Serve a held mailbox request once firmware runs. -/
def boxResume (s : State) : State :=
  match s.mtr.held with
  | some h => if s.mtr.on then boxServe h.1 h.2 (updMtr (fun m => { m with held := none }) s) else s
  | none => s

/-- READ_RECORD: over I3C with its RSEQ, or through the mailbox for MTR_RSEQSEL. -/
def readRecord (i3c : Option Nat) (chunk : Nat) (s : State) : State :=
  match i3c with
  | none => boxRequest 1 chunk s
  | some r =>
    if s.mtr.on then
      let c := recordChunk r chunk s.mtr
      let s := if c.isSome then updMtr (fun m => { m with readTo := max m.readTo r }) s else s
      i3cAnswer c (mtrAlert s)
    else i3cAnswer none s

def execReadRecord (i3c : Option Word64) (chunk : BitVec 5) (s : State) : Host.Outcome State Fault Refusal :=
  .next (readRecord (i3c.map BitVec.toNat) chunk.toNat s)

/-- READ_TOTALS. -/
def readTotals (i3c : Bool) (chunk : Nat) (s : State) : State :=
  if ¬ i3c then boxRequest 2 chunk s
  else if s.mtr.on then
    let s := if chunk = 0 then updMtr totalsRecord s else s
    i3cAnswer (s.mtr.totalsRec.map fun r => chunkOf chunk r.bytes) s
  else i3cAnswer none s

def execReadTotals (i3c : Bool) (chunk : BitVec 5) (s : State) : Host.Outcome State Fault Refusal :=
  .next (readTotals i3c chunk.toNat s)

/-- READ_PARAMS. -/
def readParams (i3c : Bool) (chunk : Nat) (s : State) : State :=
  if ¬ i3c then boxRequest 3 chunk s
  else i3cAnswer (if s.mtr.on then some (chunkOf chunk (paramBytes s.mtr.params)) else none) s

def execReadParams (i3c : Bool) (chunk : BitVec 5) (s : State) : Host.Outcome State Fault Refusal :=
  .next (readParams i3c chunk.toNat s)

/-- READ_STATUS. -/
def readStatus (i3c : Bool) (s : State) : State :=
  if ¬ i3c then boxRequest 4 0 s else i3cAnswer (if s.mtr.on then some (statusBytes s.mtr) else none) s

def execReadStatus (i3c : Bool) (s : State) : Host.Outcome State Fault Refusal := .next (readStatus i3c s)

/-! ### Sealing (R389) -/

/-- The meter's identity digest. -/
def mtrIdentity : List Byte := Config.shake256 (Config.certificate 2)

/-- SEAL_NONCE. -/
def sealNonce (s : State) : State :=
  if s.mtr.on then
    let d := draw s
    let n := Config.nonce d.1
    i3cAnswer (some (n ++ leBytes 4 s.mtr.sealCount ++ mtrIdentity))
      (mtrAlert (updMtr (fun m => { m with nonce := some (n, m.mtime) }) d.2))
  else i3cAnswer none s

def execSealNonce (s : State) : Host.Outcome State Fault Refusal := .next (sealNonce s)

/-- The bytes that the metrology key signs. -/
def sealMessage (nonce : List Byte) (sealCount : Nat) (p : MeterParams) : List Byte :=
  Config.shake256 (leBytes 8 0x4E4C4E5345414C31 ++ mtrIdentity ++ nonce ++ leBytes 4 sealCount ++ paramDigest p)

/-- The authorisation of a new set is good. -/
def sealGood (p : MeterParams) (key sig : List Byte) (m : MeterState) : Bool :=
  match m.nonce with
  | some n => nonceValid m && decide (m.sealCount < 2 ^ 32 - 1) && !m.programming && !m.exchange &&
      decide (Config.shake256 key = m.params.keyDigest) && Config.ed448Verify key (sealMessage n.1 m.sealCount p) sig
  | none => false

/-- SEAL_APPLY: answers 0 where the set is accepted and 1 where it is refused; the nonce is used either way. -/
def sealApply (p : MeterParams) (key sig : List Byte) (s : State) : State :=
  if ¬ s.mtr.on then i3cAnswer none s
  else if sealGood p key sig s.mtr then
    mtrAlert { updMtr (fun m => { m with nonce := none, spare := some p, programming := true }) s with answer := .value 0 }
  else mtrAlert { updMtr (fun m => { m with nonce := none }) s with answer := .value 1 }

def execSealApply (p : MeterParams) (key sig : List Byte) (s : State) : Host.Outcome State Fault Refusal :=
  .next (sealApply p key sig s)

/-- SEAL_COPY_PROGRAMMED: the spare copy's digest checks, or its program failed. -/
def sealCopyProgrammed (ok : Bool) (s : State) : State :=
  if s.mtr.programming then
    updMtr (fun m => { m with programming := false, exchange := ok, spare := if ok then m.spare else none }) s
  else s

def execSealCopyProgrammed (ok : Bool) (s : State) : Host.Outcome State Fault Refusal := .next (sealCopyProgrammed ok s)

/-- SEAL_NONCE_EXPIRY. -/
def sealNonceExpiry (s : State) : State :=
  if s.mtr.nonce.isSome ∧ ¬ nonceValid s.mtr then mtrAlert (updMtr (fun m => { m with nonce := none }) s) else s

def execSealNonceExpiry (s : State) : Host.Outcome State Fault Refusal := .next (sealNonceExpiry s)

end Sys2Proof.Machine
end

