-- ==== Sys2Proof/Machine/Security.lean ====
section
/-! DEFINITION. Identity, keys, attestation and debug (R393 to R408): the operations of SEC_CMD, the attestation report,
SPDM measurements and the TENANT_KEY command. -/

namespace Sys2Proof.Machine
open Sys2Proof

def updSec (f : SecState → SecState) (s : State) : State := { s with sec := f s.sec }

/-- End an operation: ERR and DONE. -/
def secDone (err : Nat) (s : State) : State := setF Reg.Glb.secErr err (setF Reg.Glb.secDone 1 s)

/-- `n` bytes of SEC_XFER from a byte. -/
def xferBytes (a n : Nat) (s : State) : List Byte := takeBytes n a s.sec.xfer

/-- An answer in SEC_WIN, with its length in the first 4 bytes. -/
def secAnswer (l : List Byte) (s : State) : State := updSec (fun x => { x with win := leBytes 4 l.length ++ l }) s

/-- A fresh SEC_NONCE. -/
def freshNonce (s : State) : State :=
  let d := draw s
  updSec (fun x => { x with nonce := some (Config.nonce d.1) }) d.2

/-! ### Configuration keys (R397, R398) -/

def cfgKey (n : Nat) (s : State) : CfgKey := SMap.get dfltKey s.sec.cfgKeys n

/-- CFGKEYS of Table 16-4. -/
def cfgKeysWord (s : State) : Nat := ((List.range 4).map fun k => (cfgKey k s).state * 4 ^ k).sum

/-- Write a configuration key slot, and SEC_KEYSLOTS with it. -/
def setCfgKey (n : Nat) (r : CfgKey) (s : State) : State :=
  let s := updSec (fun x => { x with cfgKeys := SMap.set dfltKey x.cfgKeys n r }) s
  setF Reg.Glb.secKeySlots (cfgKeysWord s) s

/-- The bytes that ENROLL and REVOKE sign. -/
def enrolMessage (nonce : List Byte) (slot op : Nat) (key : List Byte) : List Byte :=
  Config.shake256 (leBytes 8 0x544C56454E524F4C ++ idDigest ++ nonce ++ leBytes 1 slot ++ leBytes 1 op ++ key)

/-- The signer's slot is ENROLLED and the signature over the nonce in force verifies. -/
def enrolGood (slot op : Nat) (key : List Byte) (s : State) : Bool :=
  let signer := ofLe (xferBytes 1 1 s)
  (cfgKey signer s).state == 1 && decide (signer < 4) && (match s.sec.nonce with
    | some n => Config.ed448Verify (cfgKey signer s).key (enrolMessage n slot op key) (xferBytes 64 114 s)
    | none => false)

/-- CFGKEY_CHANGE. -/
def keyChange (op slot : Nat) (s : State) : State := emitPart 0x0701 (op * 256 + slot) s

/-- ENROLL. -/
def enroll (slot : Nat) (board : Bool) (s : State) : State :=
  let key := xferBytes 4 57 s
  let put := fun (s : State) => secDone 0 (keyChange 3 slot (setCfgKey slot ⟨1, key, s.mtr.rseq⟩ s))
  if isSet Reg.Glb.secIdFail s then secDone 6 s
  else if 3 < slot ∨ ofLe (xferBytes 0 1 s) ≠ slot ∨ (cfgKey slot s).state ≠ 0 then secDone 3 s
  else if (List.range 4).all (fun k => (cfgKey k s).state = 0) then
    if board ∧ ofLe (xferBytes 1 1 s) = 0xFF then put s else secDone 4 s
  else if s.sec.nonce.isNone then secDone 2 s
  else
    let ok := enrolGood slot 3 key s
    let s := freshNonce s
    if ok then put s else secDone 1 s

/-- REVOKE. -/
def revoke (slot : Nat) (s : State) : State :=
  if 3 < slot ∨ ofLe (xferBytes 0 1 s) ≠ slot ∨ (cfgKey slot s).state ≠ 1 then secDone 3 s
  else if (List.range 4).all (fun k => k = slot || (cfgKey k s).state ≠ 1) then secDone 5 s
  else if s.sec.nonce.isNone then secDone 2 s
  else
    let ok := enrolGood slot 4 (List.replicate 57 0) s && decide (ofLe (xferBytes 1 1 s) ≠ slot)
    let s := freshNonce s
    if ok then secDone 0 (keyChange 4 slot (setCfgKey slot { cfgKey slot s with state := 2 } s)) else secDone 1 s

/-! ### Firmware, debug and certificates (R396, R406, R408) -/

/-- COMMIT_SVN. -/
def commitSvn (s : State) : State :=
  let f := max s.sec.floor (getF Reg.Glb.secSvn s)
  secDone 0 (setF Reg.Glb.secFloor f (updSec (fun x => { x with floor := f }) s))

/-- REVOKE_FWKEY0: taken only while firmware signed with key 1 runs. -/
def revokeFwKey0 (s : State) : State :=
  if s.sec.fwKey1 then secDone 0 (updSec (fun x => { x with key0Revoked := true }) s) else countIgnored 0x204 s

/-- Every key of Table 16-5 is erased. -/
def eraseAll (s : State) : State := updSec (fun x => { x with slotKeys := [], secrets := [] }) s

/-- DEBUG_UNLOCK: the token names a key whose digest is the ROM's, and its signature over the nonce verifies. -/
def debugUnlock (s : State) : State :=
  if getF Reg.Glb.ensState s ≠ 0 then countIgnored 0x204 s
  else
    match s.sec.nonce with
    | none => secDone 2 s
    | some n =>
      let key := xferBytes 4 57 s
      let msg := Config.shake256 (leBytes 8 0x544C4442554E4C4B ++ idDigest ++ n)
      let ok := decide (Config.shake256 key = Config.debugKeyDigest) && Config.ed448Verify key msg (xferBytes 64 114 s)
      let s := freshNonce s
      if ok then secDone 0 (emitPart 0x0702 0 (setF Reg.Glb.secDebug 1 (eraseAll s))) else secDone 1 s

/-- GET_CERT: 0 identity, 1 device CA, 2 meter. -/
def getCert (n : Nat) (s : State) : State :=
  if 2 < n then countIgnored 0x204 s else secDone 0 (secAnswer (Config.certificate n) s)

/-! ### Attestation (R399, R400) -/

/-- The state code of an epoch slot (Table 9-8). -/
def slotCodeOf : SlotState → Nat
  | .empty => 0
  | .installing => 1
  | .installed => 2
  | .dormant => 3
  | .failed => 4

/-- Bytes of a digest, padded to 64. -/
def digest64 (l : List Byte) : List Byte := (l ++ List.replicate 64 0).take 64

/-- EPOCHS of Table 16-4. -/
def epochBytes (n : Nat) (s : State) : List Byte :=
  let r := slotRec n s
  leBytes 4 r.num ++ leBytes 1 (slotCodeOf r.state) ++ leBytes 3 0 ++ digest64 r.root ++ digest64 r.placement

/-- ENS_DIGEST as its registers hold it. -/
def ensDigestBytes (s : State) : List Byte := (List.range 16).flatMap fun i => leBytes 4 (getF (Reg.Glb.ensDigest.at (4 * i)) s)

/-- The attestation report (Table 16-4). -/
def reportBytes (nonce : List Byte) (meterOk : Bool) (s : State) : List Byte :=
  let b := fun (x : Bool) (k : Nat) => if x then 2 ^ k else 0
  let flags := b (isSet Reg.Glb.secDebug s) 0 + b (isSet Reg.Glb.secIdFail s) 1 + b (!meterOk) 2 + b (isSet Reg.Glb.secSlotB s) 3
  let role := match s.ens.image with | some i => (match i.part with | some p => p.role | none => 0xFF) | none => 0xFF
  let m := fun (n : Nat) => if meterOk then n else 0
  let l := leBytes 4 0x544C4154 ++ leBytes 2 1 ++ leBytes 2 flags ++ (nonce ++ List.replicate 32 0).take 32 ++ leBytes 8 (now s) ++
    idDigest ++ digest64 s.sec.fwDig ++ digest64 s.sec.seqDig ++ leBytes 4 (getF Reg.Glb.secSvn s) ++ leBytes 4 s.sec.floor ++
    leBytes 1 (cfgKeysWord s) ++ leBytes 1 (getF Reg.Glb.ensState s) ++ leBytes 1 role ++
    leBytes 1 (b s.sec.fwKey1 0 + b s.sec.key0Revoked 1) ++ leBytes 4 (getF (Reg.Wgt.epoch.at wgtBase) s) ++
    ensDigestBytes s ++ leBytes 8 (getF Reg.Glb.ensSeq s) ++ (List.range 4).flatMap (fun n => epochBytes n s) ++
    leBytes 4 (m s.mtr.sealCount) ++ leBytes 4 (m (mtrCond s.mtr)) ++
    (if meterOk then digest64 (paramDigest s.mtr.params) else List.replicate 64 0) ++ leBytes 8 (m s.mtr.rseq) ++
    List.replicate 72 0
  l ++ Config.ed448Sign 0 (Config.shake256 l)

/-- No management-plane transition is in progress (R400). -/
def mgmtStill (s : State) : Bool :=
  getF Reg.Glb.ensState s ≠ 1 && getF Reg.Glb.ensState s ≠ 2 && !(isSet Reg.Glb.ensAmend s) && s.wgt.inst.isNone

/-- ATTEST: the report is asked for; it comes with ATTEST_REPORT. -/
def attest (s : State) : State :=
  if isSet Reg.Glb.secIdFail s then secDone 6 s
  else setF Reg.Glb.secBusy 1 (updSec (fun x => { x with reports := x.reports ++ [(false, xferBytes 0 32 s)] }) s)

/-- One operation of SEC_CMD. -/
def secOp (o : SecOp) (s : State) : State :=
  match o with
  | .attest => attest s
  | .newNonce => secDone 0 (freshNonce s)
  | .enroll slot board => enroll slot board s
  | .revoke slot => revoke slot s
  | .commitSvn => commitSvn s
  | .debugUnlock => debugUnlock s
  | .revokeFwKey0 => revokeFwKey0 s
  | .getCert n => getCert n s

/-- A SEC_CMD operation: it waits while BUSY is set (Table 16-7). -/
def secCommand (o : SecOp) (s : State) : State :=
  if isSet Reg.Glb.secBusy s then updSec (fun x => { x with ops := x.ops ++ [o] }) s else secOp o s

/-- Run the operations that waited, until one is busy. -/
def secDrain : List SecOp → State → State
  | [], s => updSec (fun x => { x with ops := [] }) s
  | o :: l, s =>
    if isSet Reg.Glb.secBusy s then updSec (fun x => { x with ops := o :: l }) s else secDrain l (secOp o s)

/-- ATTEST_REPORT: the oldest report asked for is sampled, signed and delivered; `meterOk`: the meter answered the
READ_STATUS made for it. -/
def attestReport (meterOk : Bool) (s : State) : State :=
  match s.sec.reports with
  | [] => s
  | r :: l =>
    if ¬ mgmtStill s then s
    else
      let b := reportBytes r.2 (meterOk && s.mtr.on) s
      let s := updSec (fun x => { x with reports := l }) s
      if r.1 then { s with answer := .bytes b }
      else
        let s := setF Reg.Glb.secBusy 0 (secDone 0 (secAnswer b s))
        secDrain s.sec.ops s

def execAttest (s : State) : Host.Outcome State Fault Refusal := .next (secCommand .attest s)
def execNewnonce (s : State) : Host.Outcome State Fault Refusal := .next (secCommand .newNonce s)
/-- ENROLL, with the requester that wrote SEC_CMD: 2 is the board controller (R337). -/
def execEnroll (r : Requester) (slot : BitVec 4) (s : State) : Host.Outcome State Fault Refusal :=
  .next (secCommand (.enroll slot.toNat (r == 2)) s)
def execRevoke (slot : BitVec 4) (s : State) : Host.Outcome State Fault Refusal := .next (secCommand (.revoke slot.toNat) s)
def execCommitSvn (s : State) : Host.Outcome State Fault Refusal := .next (secCommand .commitSvn s)
def execDebugUnlock (s : State) : Host.Outcome State Fault Refusal := .next (secCommand .debugUnlock s)
def execRevokeFwkey0 (s : State) : Host.Outcome State Fault Refusal := .next (secCommand .revokeFwKey0 s)
def execGetCert (n : BitVec 4) (s : State) : Host.Outcome State Fault Refusal := .next (secCommand (.getCert n.toNat) s)
def execAttestReport (meterOk : Bool) (s : State) : Host.Outcome State Fault Refusal := .next (attestReport meterOk s)

/-- GET_MEASUREMENTS over SPDM, with the request's nonce: an error where the identity region failed. -/
def getMeasurements (nonce : List Byte) (s : State) : State :=
  if isSet Reg.Glb.secIdFail s then { s with answer := .none }
  else updSec (fun x => { x with reports := x.reports ++ [(true, nonce)] }) s

def execGetMeasurements (nonce : List Byte) (s : State) : Host.Outcome State Fault Refusal :=
  if nonce.length = 32 then .next (getMeasurements nonce s) else .fault .badLength

/-! ### Tenant secrets (R402, R403) -/

/-- The tenant holds a sequence outside FREE, a block in any tier, or a mirror record on this part. -/
def tenantHolds (t : Nat) (s : State) : Bool :=
  s.sched.seqs.any (fun e => e.2.ten == t && e.2.state ≠ .free) || s.kv.dir.any (fun b => b.ten == t) ||
    s.lnk.mirror.any (fun r => r.item.ten.toNat == t)

/-- TENANT_KEY on a secret record that could be read: status and state. `secret` is what its unwrapping gives, nothing
where the tag fails. -/
def tenantKey (h : CmdHead) (rec : List Byte) (secret : Option (List Byte)) (s : State) : Option Nat × State :=
  let t := h.ten.toNat
  if s.sched.tenantCount ≤ t then (some 3, s)
  else
    match secret with
    | none => (some 8, s)
    | some k =>
      if keysRefused s ∨ rec.take 64 ≠ idDigest ∨ ofLe ((rec.drop 180).take 2) ≠ t ∨ (hasSecret t s ∧ tenantHolds t s) then (some 8, s)
      else
        let others := s.sec.secrets.filter fun x => ¬ x.1 = t
        let zero := k.all fun b => b = 0
        let s := updSec (fun x => { x with secrets := if zero then others else others ++ [(t, k)] }) s
        (some 0, emitPart 0x0703 (t + if zero then 2 ^ 31 else 0) s)

def execTenantKey (h : CmdHead) (readable : Bool) (rec : List Byte) (secret : Option (List Byte)) (s : State) :
    Host.Outcome State Fault Refusal :=
  if rec.length ≠ 256 then .fault .badLength
  else .next (runCommand 8 h (fun s => if readable then tenantKey h rec secret s else (some 6, s)) s)

end Sys2Proof.Machine
end

