-- ==== Sys2Proof/Machine/Ensign.lean ====
section
/-! DEFINITION. The ensign image: loading, the checks of the first pass, the application of its sections, amendments and
deactivation (R263 to R273, Tables 10-2 to 10-7). -/

namespace Sys2Proof.Machine
open Sys2Proof

def updEns (f : EnsState → EnsState) (s : State) : State := { s with ens := f s.ens }

/-- The state `ENS_STAT.STATE`: 0 NONE, 1 VERIFYING, 2 APPLYING, 3 ACTIVE. -/
def ensState (s : State) : Nat := getF Reg.Glb.ensState s
def setEnsState (n : Nat) (s : State) : State := setF Reg.Glb.ensState n s

/-- A rejection: REJECT sets, ERR holds the code, and the load has ended (Tables 10-7 and 12-5). -/
def ensReject (err : Nat) (s : State) : State := signal 0 (setF Reg.Glb.ensErr err (setF Reg.Glb.ensReject 1 s))

/-- A load of a base image fails: state NONE, `GLB_STATE` NOIMAGE. -/
def failBase (err : Nat) (s : State) : State :=
  ensReject err (setF Reg.Glb.state 1 (setEnsState 0 (updEns (fun e => { e with load := none }) s)))

/-- The load of an amendment fails: the active configuration is unchanged. -/
def failAmend (err : Nat) (s : State) : State :=
  ensReject err (setF Reg.Glb.ensAmend 0 (updEns (fun e => { e with load := none }) s))

/-- The load in progress fails. -/
def failLoad (err : Nat) (s : State) : State :=
  match s.ens.load with
  | none => s
  | some l => if l.amend then failAmend err s else failBase err s

/-! ### LOAD, ABORT (R269 to R271, Table 10-6) -/

/-- Begin the first pass. -/
def beginLoad (i : EnsImage) (amend : Bool) (s : State) : State :=
  let s := setF Reg.Glb.ensErr 0 (setF Reg.Glb.ensClamps 0 (updEns (fun e => { e with load := some ⟨i, amend⟩ }) s))
  if amend then setF Reg.Glb.ensAmend 1 s else setF Reg.Glb.state 2 (setEnsState 1 s)

/-- LOAD while management firmware runs: KIND is examined before the state. -/
def loadNow (i : EnsImage) (s : State) : State :=
  if 1 < i.kind then ensReject 2 s
  else if ensState s = 1 ∨ ensState s = 2 ∨ isSet Reg.Glb.ensAmend s then countIgnored 0x10C s
  else if ensState s = 3 then (if i.kind = 0 then ensReject 13 s else beginLoad i true s)
  else if i.kind = 1 then ensReject 13 s
  else beginLoad i false s

/-- ENS_LOAD: without management firmware the request waits (R34). -/
def ensLoad (i : EnsImage) (s : State) : State :=
  if isSet Reg.Glb.mgmtFwRun s then loadNow i s
  else if s.ens.held.isSome then countIgnored 0x10C s
  else updEns (fun e => { e with held := some i }) s

def execEnsLoad (i : EnsImage) (s : State) : Host.Outcome State Fault Refusal := .next (ensLoad i s)

/-- ENS_ABORT: it ends a load in VERIFYING; elsewhere it is ignored and counted. -/
def ensAbort (s : State) : State := if ensState s = 1 then failBase 17 s else countIgnored 0x10C s

def execEnsAbort (s : State) : Host.Outcome State Fault Refusal := .next (ensAbort s)

/-! ### The first pass (Table 10-7) -/

/-- Required sections are present, one LAYER section for each slot that PART lists, and ROLE is defined (R264). -/
def sectionsOk (i : EnsImage) : Bool :=
  i.formOk && i.trust.isSome && i.sram.isSome && i.pennants.isSome && i.sched.isSome && i.route.isSome && i.power.isSome &&
    !i.placements.isEmpty && decide ((i.layers.map fun l => l.slot).Nodup) &&
    (match i.part with
      | some p => decide (p.role ≤ 4) && p.slots.all fun n => i.layers.any fun l => l.slot = n
      | none => false)

/-- The length is within ENS_LEN, which reaches past the section table. -/
def lengthOk (i : EnsImage) (s : State) : Bool :=
  let n := getF Reg.Glb.ensLen s
  decide (i.length ≤ n) && decide (256 + 96 * i.nsect ≤ n)

/-- KEYSEL names an enrolled key, and the signature verifies under it (R263). -/
def signatureOk (i : EnsImage) (s : State) : Bool :=
  decide ((cfgKey i.keysel s).state = 1) && Config.ed448Verify (cfgKey i.keysel s).key (Config.shake256 i.bytes) i.signature

/-- 1 MiB. -/
def mib : Nat := 1048576

/-- R265 and Table 10-4. -/
def partitionsOk (i : EnsImage) : Bool :=
  match i.sram with
  | none => false
  | some x =>
    let stage := legal (Reg.Kvc.stage.at kvcBase).key x.stage
    let cap := legal (Reg.Kvc.dirCap.at kvcBase).key x.dirCap
    let at_ := fun n => (x.sizes[n]?).getD 0
    decide (x.sizes.length = 6) && x.sizes.all (fun n => n % 16384 = 0) && decide (x.sizes.sum = 384 * mib) &&
      decide (at_ 5 = 4 * mib) && decide ((stage + x.lend % 256 + 16) * mib ≤ at_ 0) &&
      decide (16 * mib + (i.layers.map layerBytes).sum ≤ at_ 1) && decide (16 * mib ≤ at_ 3) &&
      decide (cap * 16 + 4 * mib ≤ at_ 3) && decide (mib ≤ at_ 4)

/-- The lifetime record holds the array as retired. -/
def retired (a : Nat) (s : State) : Bool := decide (retireNibble a s ≠ 0)

/-- R266: no block, epoch slot or array is named twice, and every retired array's block finds a spare in its hoist. -/
def placementsOk (i : EnsImage) (s : State) : Bool :=
  let all := i.placements.flatMap fun p => p.entries.filter fun e => e.2.state ≠ 0
  decide ((i.placements.map fun p => p.slot).Nodup) && i.placements.all (fun p =>
      decide (p.slot < 4) && decide (((p.entries.filter fun e => e.2.state = 1).map fun e => (e.2.layer, e.2.block)).Nodup)) &&
    all.all (fun e => decide (e.1 < 8192) && decide (e.2.state ≤ 2)) && decide ((all.map fun e => e.1).Nodup) &&
    (List.range 32).all fun h =>
      decide ((all.filter fun e => e.1 / 256 = h ∧ e.2.state = 1 ∧ retired e.1 s).length ≤
        (all.filter fun e => e.1 / 256 = h ∧ e.2.state = 2 ∧ ¬ retired e.1 s).length)

/-- No reduction chain covers more than 256 arrays of a placement (R17). -/
def chainsOk (i : EnsImage) : Bool :=
  (i.pennants.getD []).all fun e => i.placements.all fun p =>
    decide ((p.entries.filter fun x => x.2.state = 1 ∧ (x.1 / 16 = e.pnt ∨ x.1 / 16 ∈ e.chain)).length ≤ 256)

/-- A consumer and its producer name each other (R137). -/
def gatesOk (i : EnsImage) : Bool :=
  let l := i.pennants.getD []
  l.all fun e => if min e.gate 2 ≠ 1 then true
    else l.any fun q => q.pnt = e.pnt / 16 * 16 + e.gpart % 16 && decide (2 ≤ q.gate) && q.gpart % 16 = e.pnt % 16

/-- Layer parameter blocks and recipe 0 (R267, R268). -/
def layersOk (i : EnsImage) : Bool :=
  i.layers.all fun l => decide (l.norm ≤ 2) && decide (l.d % 32 = 0) && decide (32 ≤ l.d) && decide (l.d ≤ 256) &&
    (match l.recipes.head? with | some r => r.defined | none => false)

/-- Every epoch slot that is not EMPTY has its placement in the image (R270). -/
def residentOk (i : EnsImage) (s : State) : Bool :=
  (List.range 4).all fun n => (slotRec n s).state = .empty ||
    i.placements.any fun p => p.slot = n && p.digest = (slotRec n s).placement

/-- What the rules that any configuration must meet find, or 0. -/
def contentError (i : EnsImage) (s : State) : Nat :=
  if ¬ partitionsOk i then 10
  else if ¬ placementsOk i s then 11
  else if ¬ chainsOk i then 7
  else if ¬ gatesOk i then 8
  else if ¬ layersOk i then 9
  else 0

/-- The first pass over a base image: the code of its rejection, or 0. -/
def baseError (i : EnsImage) (s : State) : Nat :=
  if ¬ i.formOk then 2
  else if ¬ lengthOk i s then 15
  else if ¬ signatureOk i s then 1
  else if ¬ sectionsOk i then 2
  else if contentError i s ≠ 0 then contentError i s
  else if ¬ residentOk i s then 12
  else 0

/-- An amendment's LAYER section changes recipes, policy and watch values only. -/
def layerAmends (base : EnsImage) (l : LayerSection) : Bool :=
  base.layers.any fun b => { l with recipes := b.recipes, policy := b.policy, watch := b.watch } = b

/-- Every section that an amendment carries is one that Table 10-2 allows. -/
def amendAllowed (base a : EnsImage) (s : State) : Bool :=
  a.part.isNone && a.pennants.isNone &&
    (match a.sram, base.sram with
      | some x, some y => { x with lend := y.lend } = y
      | none, _ => true
      | some _, none => false) &&
    a.placements.all (fun p => decide (p.slot < 4) && (slotRec p.slot s).state = .empty) &&
    a.layers.all fun l => layerAmends base l

/-- The configuration that an amendment makes of the one in force. A PLACEMENT section that maps no array takes the
slot's placement out. -/
def amendMerge (base a : EnsImage) : EnsImage :=
  let others := base.placements.filter fun p => ¬ a.placements.any fun q => q.slot = p.slot
  { base with
    trust := a.trust.or base.trust
    sram := a.sram.or base.sram
    placements := others ++ a.placements.filter fun p => ¬ p.entries.all fun e => e.2.state = 0
    layers := base.layers.map fun l => (a.layers.find? fun x => x.slot = l.slot).getD l
    sched := a.sched.or base.sched
    route := a.route.or base.route
    power := a.power.or base.power }

/-- The first pass over an amendment (R271). -/
def amendError (base a : EnsImage) (s : State) : Nat :=
  if ¬ a.formOk then 2
  else if ¬ lengthOk a s then 15
  else if ¬ signatureOk a s then 1
  else if a.baseDigest ≠ ensDigestBytes s then 4
  else if a.seq ≤ getF Reg.Glb.ensSeq s then 5
  else if a.keysel ≠ base.keysel then 16
  else if ¬ amendAllowed base a s then 6
  else contentError (amendMerge base a) s

/-! ### Values of an image after their clamps (R273, R281) -/

/-- Write image values; each clamp is counted with its register's offset. -/
def writeKeys (l : List (Nat × Nat)) (s : State) : State :=
  l.foldl (fun s x => let c := clamped x.1 x.2 s; putKey x.1 c.1 c.2) s

/-- A value without a register, limited to a range. -/
def limited (lo hi v : Nat) (s : State) : Nat × State := (clampRange lo hi v, clampIf (decide (clampRange lo hi v ≠ v)) s)

/-- A layer's HATT, HQ and policy values. -/
def clampLayer (l : LayerSection) (s : State) : LayerSection × State :=
  let (hatt, s) := limited 1 32 l.hatt s
  let (hq, s) := limited 1 256 l.hq s
  let (tc, s) := limited 1 65535 l.policy.trigCount s
  let (tw, s) := limited 1 4096 l.policy.trigWindow s
  let (mh, s) := limited 1 1048575 l.policy.minHold s
  let (cs, s) := limited 1 1048575 l.policy.cleanSteps s
  ({ l with hatt := hatt, hq := hq, policy := { l.policy with trigCount := tc, trigWindow := tw, minHold := mh, cleanSteps := cs } }, s)

/-- Several layers. -/
def clampLayers : List LayerSection → State → List LayerSection × State
  | [], s => ([], s)
  | l :: r, s =>
    let x := clampLayer l s
    let y := clampLayers r x.2
    (x.1 :: y.1, y.2)

/-- The mirrored flag is cleared where a slot lies above 31 (R304). -/
def clampPart (p : PartSection) (s : State) : PartSection × State :=
  if p.mirrored ∧ p.slots.any (fun n => decide (31 < n)) then ({ p with mirrored := false }, countClamp 0 s) else (p, s)

/-- Port that R296 gives a position of the same board, 0xFF for this part or off the board. -/
def directOf (pod : Nat) (s : State) : Nat :=
  if pod ≠ myPod s ∧ pod / 16 = getF (Reg.Lnk.topoBoard.at lnkBase) s then directPort pod s else 0xFF

/-- A relay that is no slot of the board, or is the source or the destination. -/
def badRelay (pod r : Nat) (s : State) : Bool := decide (15 < r) || r = getF (Reg.Lnk.topoSlot.at lnkBase) s || r = pod % 16

/-- A ROUTE entry after R297: its DIRECT port, its relays with their weights, and weights that are all 0. -/
def clampRoute (e : RouteEntry) (s : State) : RouteEntry × State :=
  if e.dpod = 0xFFFF then (e, s)
  else
    let d := if s.lnk.podKnown then directOf e.dpod s else e.direct
    let s := clampIf (decide (d ≠ e.direct)) s
    let onBoard := s.lnk.podKnown && decide (d ≠ 0xFF)
    let pairs := ((e.relay.take e.nrel).zip (e.weights.drop 1))
    let kept := if onBoard then pairs.filter fun x => !(badRelay e.dpod x.1 s) else pairs
    let s := countClamps (pairs.length - kept.length) s
    let w := if d = 0xFF then e.weights else e.weights.headD 0 :: kept.map fun x => x.2
    let zero := w.all fun x => x = 0
    ({ e with direct := d, nrel := kept.length, relay := kept.map (fun x => x.1), weights := if zero then 1 :: w.drop 1 else w },
      clampIf zero s)

/-- Several entries. -/
def clampRoutes : List RouteEntry → State → List RouteEntry × State
  | [], s => ([], s)
  | e :: r, s =>
    let x := clampRoute e s
    let y := clampRoutes r x.2
    (x.1 :: y.1, y.2)

/-- The ROUTE section after R297 and Table 11-7. -/
def clampRouting (r : RouteSection) (s : State) : RouteSection × State :=
  let (relayBuf, s) := limited 0 16 r.relayBuf s
  let (mirrorBuf, s) := limited 0 16 r.mirrorBuf s
  let (lossTmo, s) := limited 200 65535 r.lossTmo s
  let (entries, s) := clampRoutes r.entries s
  ({ r with relayBuf := relayBuf, mirrorBuf := mirrorBuf, lossTmo := lossTmo, entries := entries }, s)

/-- A section that may be absent. -/
def clampOpt {α : Type} (f : α → State → α × State) (x : Option α) (s : State) : Option α × State :=
  match x with
  | some a => let r := f a s; (some r.1, r.2)
  | none => (none, s)

/-- Clamps counted between two states, into `ENS_STAT.CLAMPS`, which saturates. -/
def countLoadClamps (before : State) (s : State) : State :=
  satF Reg.Glb.ensClamps ((getF Reg.Glb.clampCnt s + 2 ^ 32 - getF Reg.Glb.clampCnt before) % 2 ^ 32) s

/-! ### Placements on the arrays (R64, R266) -/

/-- The block that a placement entry names. -/
def entryRef (slot : Nat) (e : PlaceEntry) : BlockRef := ⟨slot, e.layer, e.block, e.role, 0, 0, 0, 0, 0⟩

/-- The slot's block as an array that held it, or the chunk tables, give it; else as the placement names it. -/
def knownRef (slot : Nat) (e : PlaceEntry) (old : State) : BlockRef :=
  let same := fun (b : BlockRef) => b.slot = slot && b.layer = e.layer && b.block = e.block
  let fromArr := old.arrs.findSome? fun x => match x.2.hold with | some b => if same b then some b else none | none => none
  match fromArr with | some b => b | none => (entryRef slot e)

/-- The slot is INSTALLED or DORMANT. -/
def resident (n : Nat) (s : State) : Bool :=
  match (slotRec n s).state with
  | .installed => true
  | .dormant => true
  | _ => false

/-- An array takes a block of a slot: SERVICE where the slot is resident, reserved otherwise. -/
def assignBlock (slot : Nat) (e : PlaceEntry) (old : State) (a : Nat) (s : State) : State :=
  let b := knownRef slot e old
  if resident slot s then setArrState a 1 (updArr a (fun r => { r with hold := some b, past := none }) s)
  else updArr a (fun r => { r with reserved := some b }) s

/-- One entry of a placement; retired arrays stay RETIRED. -/
def placeEntry (slot : Nat) (old : State) (s : State) (e : Nat × PlaceEntry) : State :=
  if retired e.1 s then setArrState e.1 8 s
  else if e.2.state = 1 then assignBlock slot e.2 old e.1 s
  else if e.2.state = 2 then updArr e.1 (fun r => { r with spareSlot := some slot }) (setArrState e.1 7 s)
  else s

/-- The block of a retired array goes to a spare of its hoist: to the one that holds it, if one does. -/
def placeRetired (slot : Nat) (old : State) (s : State) (e : Nat × PlaceEntry) : State :=
  if e.2.state = 1 ∧ retired e.1 s then
    let holder := (freeSpares (e.1 / 256) s).find? fun a => match (arrOf a old).hold with
      | some b => b.slot = slot && b.layer = e.2.layer && b.block = e.2.block
      | none => false
    let free := (freeSpares (e.1 / 256) s).filter fun a => (arrOf a s).reserved.isNone
    match holder.or ((free.find? fun a => a / 16 = e.1 / 16).or free.head?) with
    | some a => assignBlock slot e.2 old a s
    | none => s
  else s

/-- The array's place in the configuration ends: no block is reserved for it, and it holds none; what its cells hold
stays. -/
def unplace (a : Nat) (r : ArrRec) (s : State) : State :=
  let was := if r.hold.isSome then r.hold else r.past
  setArr a { r with hold := none, reserved := none, spareSlot := none, past := was, job := none, adding := false, heir := none, heirReady := false }
    s

/-- Fields of PNT_STAT.STATE. -/
def isStateKey (k : Nat) : Bool :=
  match locate (keyOff k) with
  | (.pnt, _, b) => decide (0x80 ≤ keyOff k - b) && decide (keyOff k - b < 0xC0) && keyLo k = 28
  | _ => false

/-- Every array is UNMAPPED, and none is placed. -/
def unplaceAll (s : State) : State :=
  let s := { s with regs := s.regs.filter fun e => !(isStateKey e.1) }
  s.arrs.foldl (fun s e => unplace e.1 e.2 s) s

/-- Retired arrays enter RETIRED whatever the image says (R64). -/
def markRetired (s : State) : State :=
  let named := (s.flt.life.filter fun e => 0x1000 ≤ e.1 ∧ e.1 < 0x2000).flatMap fun e => [(e.1 - 0x1000) * 2, (e.1 - 0x1000) * 2 + 1]
  named.foldl (fun s a => if retired a s then setArrState a 8 s else s) s

/-- PLACEMENT: all the placements of an image. -/
def applyPlacements (l : List Placement) (s : State) : State :=
  let old := s
  let s := markRetired (unplaceAll s)
  let s := l.foldl (fun s p => p.entries.foldl (placeEntry p.slot old) s) s
  l.foldl (fun s p => p.entries.foldl (placeRetired p.slot old) s) s

/-! ### Registers that sections write -/

/-- PENNANT: the registers of an entry. -/
def pennantKeys (e : PennantEntry) : List (Nat × Nat) :=
  let k := fun (f : Field) => (pntF f e.pnt).key
  [(k Reg.Pnt.outEn, if e.outEn then 1 else 0), (k Reg.Pnt.gate, e.gate), (k Reg.Pnt.gpart, e.gpart),
    (k Reg.Pnt.watchLayer, e.watchLayer / 8), (k Reg.Pnt.watchTen, e.watchTen / 8),
    (k Reg.Pnt.actX0b0, ((e.actx0[0]?).getD 0).toNat), (k Reg.Pnt.actX0b1, ((e.actx0[1]?).getD 0).toNat),
    (k Reg.Pnt.actK0, e.actk % 16), (k Reg.Pnt.actK1, e.actk / 16)]

/-- The activation tables of an entry (R135). -/
def actTables (e : PennantEntry) : SMap Nat :=
  let put := fun (bank : Nat) (m : SMap Nat) (l : List Word) =>
    (l.zipIdx).foldl (fun m x => SMap.set dfltZero m (bank * 512 + x.2) x.1.toNat) m
  put 1 (put 0 [] e.act0) e.act1

/-- SRAM: the key/value fields. -/
def sramKeys (x : SramSection) : List (Nat × Nat) :=
  [((Reg.Kvc.stage.at kvcBase).key, x.stage), ((Reg.Kvc.lend.at kvcBase).key, x.lend), ((Reg.Kvc.dirCap.at kvcBase).key, x.dirCap)]

/-- A recipe's values of a layer: its pennants', the key/value format of the slot, and the row windows of its arrays. -/
def recipeKeys (slot : Nat) (r : Recipe) (s : State) : List (Nat × Nat) :=
  ((layerPennants slot s).flatMap fun p =>
      [((pntF Reg.Pnt.width p).key, r.width), ((pntF Reg.Pnt.avg p).key, r.avg), ((pntF Reg.Pnt.accPromote p).key, r.promote)]) ++
    ((Reg.Kvc.lfmt.at (kvcBase + 4 * slot)).key, r.kvfmt) ::
    r.rowwin.flatMap fun x =>
      let a := homeOf x.1 s
      [((arrF Reg.Pnt.rows a).key, x.2.1), ((arrF Reg.Pnt.fs a).key, x.2.2)]

/-- A layer's watch values. -/
def watchKeys (l : LayerSection) : List (Nat × Nat) :=
  l.watch.flatMap fun x =>
    [((pntF Reg.Pnt.wRatio x.1).key, x.2.1), ((pntF Reg.Pnt.wAlpha x.1).key, x.2.2.1),
      ((pntF Reg.Pnt.wLowEn x.1).key, if x.2.2.2 then 1 else 0)]

/-- The layer's registers as recipe 0 and its watch values set them. -/
def layerKeys (l : LayerSection) (s : State) : List (Nat × Nat) :=
  (match l.recipes.head? with | some r => recipeKeys l.slot r s | none => []) ++ watchKeys l

/-- The seed of a unit where SEEDS gives none (R122). -/
def derivedSeed (u : Nat) (s : State) : Nat := mix (u ^^^ now s)

/-- SEEDS: rounding and sampling seeds of the hoists that the image powers, from the section or derived (R122, R165). -/
def seedKeys (i : EnsImage) (hoists : List Nat) (s : State) : List (Nat × Nat) :=
  let given := fun (k u : Nat) => match i.seeds.find? (fun x => x.1 = k) with | some x => (k, x.2) | none => (k, derivedSeed u s)
  hoists.flatMap fun h =>
    ((List.range 16).map fun n => given (pntF Reg.Pnt.rndSeed (16 * h + n)).key (256 * h + 16 * n)) ++
      [given (Reg.Vec.rndSeed.at (vecBase h)).key (0x10000 + h),
        given (Reg.Vec.smpSeed.at (vecBase h)).key ((0x10000 + h) ^^^ 0x53414D50)]

/-! ### Layer parameter blocks (Table 10-5) -/

/-- The bytes of a layer parameter block with the formats of a recipe. -/
def layerBlock (l : LayerSection) (kvfmt qfmt : Nat) : List Byte :=
  let g := 4 * l.gamma.length
  let b := 4 * l.beta.length
  leBytes 4 l.catt.toNat ++ leBytes 1 l.norm ++ leBytes 1 l.pairing ++ leBytes 1 kvfmt ++ leBytes 1 l.resfmt ++
    leBytes 4 l.eps.toNat ++ leBytes 2 l.g ++ leBytes 2 l.d ++ leBytes 2 l.hq ++ leBytes 1 qfmt ++ leBytes 1 l.hatt ++
    leBytes 4 l.n ++ leBytes 4 l.tfix ++ leBytes 4 (if g = 0 then 0 else 256) ++ leBytes 4 (if b = 0 then 0 else 256 + g) ++
    leBytes 4 (256 + g + b) ++ List.replicate 216 0 ++ l.gamma.flatMap (fun x => leBytes 4 x.toNat) ++
    l.beta.flatMap (fun x => leBytes 4 x.toNat) ++ l.freqs.flatMap (fun x => leBytes 8 x.toNat)

/-- Copy a layer's block to SRAM; the recipe control and index words take their starting values (R148, R267). -/
def putLayer (l : LayerSection) (s : State) : State :=
  let q := match l.recipes.head? with | some r => r.qfmt | none => l.qfmt
  let s := sramPut (layerAddr l.slot s) (layerBlock l (getF (Reg.Kvc.lfmt.at (kvcBase + 4 * l.slot)) s) q) s
  match watchAddr l.slot s with
  | some w => sramPutWord (w + 16) 0 (sramPutWord (w + 8) (if l.policy.hold then 1 else 0) s)
  | none => s

/-! ### The second pass (R269) -/

/-- Put the image's sections up to an order in force: of those after it nothing is applied. -/
def applySections (i : EnsImage) (upto : Nat) (s : State) : State :=
  let has := fun k => decide (k ≤ upto)
  -- PART (2)
  let (part, s) := if has 2 then clampOpt clampPart i.part s else (none, s)
  let s := if has 2 then setF (Reg.Lnk.pairMirrored.at lnkBase) (match part with | some p => if p.mirrored then 1 else 0 | none => 0) s else s
  -- SRAM (3)
  let s := if has 3 then writeKeys (match i.sram with | some x => sramKeys x | none => []) s else s
  -- PLACEMENT (4)
  let s := if has 4 then applyPlacements i.placements s else s
  -- PENNANT (5)
  let pnts := i.pennants.getD []
  let s := if has 5 then
      pnts.foldl (fun s e => setF (pntF Reg.Pnt.wsWarm e.pnt) 1 (updPnt e.pnt (fun r => { r with act := actTables e, warmSeen := 0 }) s))
        (writeKeys (pnts.flatMap pennantKeys) s)
    else s
  -- LAYER (6)
  let (layers, s) := if has 6 then clampLayers i.layers s else (i.layers, s)
  let s := updEns (fun e => { e with image := some { i with part := part.or i.part, layers := layers } }) s
  let s := if has 6 then
      let s := { s with sched := { s.sched with recipes := [] } }
      layers.foldl (fun s l => putLayer l (writeKeys (layerKeys l s) s)) s
    else s
  -- SCHED (7)
  let s := if has 7 then
      match i.sched with
      | some x =>
        let t := limited 1 4096 x.tenants s
        writeKeys x.values { t.2 with sched := { t.2.sched with
          tenantCount := t.1, classes := (x.classes.zipIdx).foldl (fun m c => SMap.set dfltClass m c.2 c.1) [] } }
      | none => s
    else s
  -- ROUTE (8)
  let (route, s) := if has 8 then clampOpt clampRouting i.route s else (i.route, s)
  let s := if has 8 then
      setF (Reg.Lnk.pairPod.at lnkBase) (match route with | some r => r.partner % 1024 | none => 0)
        (updEns (fun e => { e with image := e.image.map fun x => { x with route := route } }) { s with lnk := { s.lnk with switched := [] } })
    else s
  -- POWER (9)
  let s := if has 9 then
      match i.power with
      | some x =>
        let s := updPwr (fun p => { p with
          rth := (x.rth.zipIdx).foldl (fun m v => SMap.set dfltRth m v.2 (clampRange 10000000 200000000 (v.1 * 1000000000 / 65536))) [] }) s
        writeKeys x.values s
      | none => s
    else s
  -- SEEDS (10)
  if has 10 then
    (seedKeys i (usedHoists s) s).foldl (fun s x => applyValue s x) s
  else s

/-- Keys of the fields that a load of the sections up to an order writes. -/
def writtenKeys (i : EnsImage) (upto : Nat) (s : State) : List Nat :=
  let has := fun (k : Nat) (l : List (Nat × Nat)) => if k ≤ upto then l.map fun x => x.1 else []
  has 2 [((Reg.Lnk.pairMirrored.at lnkBase).key, 0)] ++
    has 3 (match i.sram with | some x => sramKeys x | none => []) ++ has 5 ((i.pennants.getD []).flatMap pennantKeys) ++
    has 6 (i.layers.flatMap fun l => layerKeys l s) ++ has 7 (match i.sched with | some x => x.values | none => []) ++
    has 8 [((Reg.Lnk.pairPod.at lnkBase).key, 0)] ++ has 9 (match i.power with | some x => x.values | none => []) ++
    has 10 (seedKeys i (usedHoists s) s)

/-- A load that fails while it applies: every field that it wrote returns to its reset value. -/
def undoSections (i : EnsImage) (upto : Nat) (s : State) : State :=
  let s := { s with regs := (writtenKeys i upto s).foldl (fun m k => SMap.erase k m) s.regs }
  let s := if 4 ≤ upto then unplaceAll s else s
  let s := if 5 ≤ upto then (i.pennants.getD []).foldl (fun s e => updPnt e.pnt (fun r => { r with act := [] }) s) s else s
  let s := updEns (fun e => { e with image := none }) s
  let s := if 9 ≤ upto then updPwr (fun p => { p with rth := [] }) s else s
  { s with sched := { s.sched with recipes := [], tenantCount := 0, classes := [] } }

/-- The second pass ends in a failure with the sections of order below `k` applied. -/
def applyFails (i : EnsImage) (k err : Nat) (s : State) : State :=
  let t := undoSections i (k - 1) (applySections i (k - 1) s)
  failBase err (countLoadClamps s t)

/-- Whole digest words of the image's bytes, with its signature (Table 10-17). -/
def setDigest (i : EnsImage) (s : State) : State :=
  let d := Config.shake256 (i.bytes ++ i.signature)
  (List.range 16).foldl (fun s k => setF (Reg.Glb.ensDigest.at (4 * k)) (ofLe ((d.drop (4 * k)).take 4)) s) s

/-- The hoist's VCORE gate is open and stays so. -/
def gateOpen (h : Nat) (s : State) : Bool := s.pwr.core.contains h && !(s.pwr.ramping.any fun x => x.1 = h && !x.2.1)

/-- The last section is applied: the rules of the commit groups hold (R273, R279), the image is ACTIVE, and the hoists it
uses are powered (Tables 10-6 and 19-10). -/
def activateImage (i : EnsImage) (s : State) : State :=
  let first := !s.cfg.imageEver
  let s := countLoadClamps s (groupRules true (applySections i 10 s))
  let s := setF Reg.Glb.ensSeq i.seq (setDigest i s)
  let s := setF Reg.Glb.imageActive 1 (setEnsState 3 (updEns (fun e => { e with load := none }) s))
  let s := signal 0 (setF Reg.Glb.state 3 { s with cfg := { s.cfg with imageEver := true } })
  let s := (usedHoists s).foldl (fun s h => if gateOpen h s then s else switchGate h false true s) s
  let s := dataCheck (powerupCheck s)
  if first then requestAct .snapshot s else s

/-! ### The ends of the passes -/

/-- Values that an accepted amendment's internal commit carries, after their clamps. -/
def amendValues (a : EnsImage) : List (Nat × Nat) :=
  (match a.sched with | some x => x.values | none => []) ++ (match a.power with | some x => x.values | none => []) ++ a.seeds

/-- Clamp a list of image values. -/
def clampValues : List (Nat × Nat) → State → List (Nat × Nat) × State
  | [], s => ([], s)
  | x :: l, s =>
    let c := clamped x.1 x.2 s
    let r := clampValues l c.2
    ((x.1, c.1) :: r.1, r.2)

/-- The layer's recipe control word holds HOLD = 1 (R148). -/
def holdBit (l : Nat) (s : State) : Bool := match watchAddr l s with | some w => (sramWord (w + 8) s).toNat % 2 = 1 | none => false

/-- Layers of an amendment whose registers follow its tables: those not held, each with its recipe in force. -/
def amendRecipes (a : EnsImage) (s : State) : List (Nat × Nat) :=
  (a.layers.filter fun l => !(holdBit l.slot s)).map fun l => (l.slot, (SMap.get dfltRecipe s.sched.recipes l.slot).k)

/-- The internal commit of an accepted amendment forms (R271, R276). A change of LEND reclaims the lent space first. -/
def acceptAmend (a : EnsImage) (s : State) : State :=
  let before := s
  let (layers, s) := clampLayers a.layers s
  let (route, s) := clampOpt clampRouting a.route s
  let (sched, s) := clampOpt (fun (x : SchedSection) s => let t := limited 1 4096 x.tenants s; ({ x with tenants := t.1 }, t.2)) a.sched s
  let a := { a with layers := layers, route := route, sched := sched }
  let watch := (a.layers.filter fun l => !(holdBit l.slot s)).flatMap watchKeys
  let (vals, s) := clampValues (amendValues a ++ watch) s
  let s := countLoadClamps before s
  let c : IntCommit := ⟨true, amendRecipes a s, vals⟩
  let s := updEns (fun e => { e with load := none, amending := some a }) s
  let s := { s with cfg := { s.cfg with internals := s.cfg.internals ++ [c] } }
  match a.sram with
  | some x => if x.lend % 256 = getF (Reg.Kvc.lend.at kvcBase) s then s else reclaim (updEns (fun e => { e with lendNext := some (x.lend % 256) }) s)
  | none => s

/-- ENS_VERIFY_END: the first pass is complete. -/
def verifyEnd (s : State) : State :=
  match s.ens.load with
  | none => s
  | some l =>
    if l.amend then
      match s.ens.image with
      | some b => let e := amendError b l.image s; if e = 0 then acceptAmend l.image s else failAmend e s
      | none => failAmend 13 s
    else if ensState s ≠ 1 then s
    else
      let e := baseError l.image s
      if e = 0 then setEnsState 2 s else failBase e s

def execEnsVerifyEnd (s : State) : Host.Outcome State Fault Refusal := .next (verifyEnd s)

/-- ENS_APPLY_END: every section's digest agreed, or that of the section of the given order did not. -/
def applyEnd (bad : Option Nat) (s : State) : State :=
  match s.ens.load with
  | none => s
  | some l =>
    if ensState s ≠ 2 then s
    else
      match bad with
      | none => activateImage l.image s
      | some k => applyFails l.image k 3 s

def execEnsApplyEnd (bad : Option Nat) (s : State) : Host.Outcome State Fault Refusal := .next (applyEnd bad s)

/-- A restart of the management core ends a load; an amendment whose internal commit has formed stands (Table 10-11). -/
def loadRestarted (applied : Nat) (s : State) : State :=
  match s.ens.load with
  | none => s
  | some l =>
    if l.amend then setF Reg.Glb.ensAmend 0 (updEns (fun e => { e with load := none }) s)
    else if ensState s = 2 then applyFails l.image (min applied 10 + 1) 14 s
    else failBase 14 s

/-! ### DEACTIVATE (R272) -/

/-- DEACTIVATE is taken. -/
def canDeactivate (s : State) : Bool :=
  ensState s = 3 && s.sched.steps.isEmpty && (!(isHead s) || s.sched.seqs.all fun e => e.2.state = .free) &&
    s.kv.dir.isEmpty && s.kv.lent.isEmpty && s.mnt.granted.isEmpty

/-- An INSTALLED slot becomes DORMANT, and must be attached again. -/
def slotDormant (r : EpSlot) : EpSlot := if r.state = .installed then { r with state := .dormant, attachEnded := false } else r

/-- A hoist loses its gates. -/
def unpowerHoist (s : State) (h : Nat) : State :=
  let s := if convOn h s then convOff h s else s
  switchGate h false false s

/-- ENS_DEACTIVATE. -/
def ensDeactivate (s : State) : State :=
  if canDeactivate s then
    let s := (usedHoists s).foldl unpowerHoist s
    let s := setF Reg.Glb.seqRun 0 (setF Reg.Glb.ctrlRun 0 (setF Reg.Glb.imageActive 0 (setF Reg.Glb.ensAmend 0 s)))
    let s := (List.range 20).foldl (fun s n => portDark n s) s
    let s := eraseAll { s with
      wgt := { s.wgt with slots := SMap.mapV dfltSlot slotDormant s.wgt.slots, peers := [], live := [], clearing := [] }
      cfg := { s.cfg with internals := [] } }
    let s := setF Reg.Glb.state 1 (setEnsState 0 (updEns (fun e => { e with image := none, load := none, lendNext := none, amending := none }) s))
    requestAct .snapshot (dataCheck s)
  else countIgnored 0x10C s

def execEnsDeactivate (s : State) : Host.Outcome State Fault Refusal := .next (ensDeactivate s)

end Sys2Proof.Machine
end

