-- ==== Sys2Proof/Machine/Tiers.lean ====
section
/-! DEFINITION. Key/value tiers: fetched blocks, the end of a copy and the switch to it, lent blocks and the queries over
them, block-copy messages, idle pauses and expiry (R209 to R220, R230, R415). -/

namespace Sys2Proof.Machine
open Sys2Proof

/-! ### Fetches (R213, R214) -/

/-- A block that fails authentication: the steps naming it fail with cause 9, its sequence ends, and it is discarded. -/
def authFail (l q b : Nat) (s : State) : State :=
  let steps := stepsNaming l q b s
  let ten := ((blockOf l q b s).map fun x => x.ten).getD 0xFFFF
  let s := { s with kv := { s.kv with fetching := s.kv.fetching.filter fun x => ¬ x.2 = (l, q, b) } }
  let s := report 0x0016 l 0 (addF (Reg.Kvc.authFailCnt.at kvcBase) 1 s)
  let s := emit 0x0101 ten (seqNo q) (lastStep s) l s
  let s := steps.foldl (fun s n => if headFor n s then failStep n 9 [q] s else failHere n 9 s) s
  let s := endFrom q 9 s
  freeWhere (fun x => x.lslot = l && x.seq = q && x.blk = b) s

/-- CXL_FETCH_DONE: the tag and the header agree, and the plain body goes to the staging area; or R213 applies. -/
def fetchDone (n l q b : Nat) (ok : Bool) (plain : List Byte) (s : State) : State :=
  if ¬ s.kv.fetching.contains (n, l, q, b) then s
  else
    match blockOf l q b s with
    | none => { s with kv := { s.kv with fetching := s.kv.fetching.filter fun x => ¬ x = (n, l, q, b) } }
    | some x =>
      let lines := slotLines l x.fmt s
      let s := meterAdd x.ten 7 (256 * (lines + 1)) s
      if ¬ ok ∨ ¬ hasSecret x.ten s then authFail l q b s
      else
        let loc := hotLines s + (firstFit lines (stageLines s) (stagedRuns s)).getD 0
        sramPut (loc * 256) (plain.take (lines * 256)) { s with kv := { s.kv with
          fetching := s.kv.fetching.filter (fun y => ¬ y = (n, l, q, b)), staged := s.kv.staged ++ [⟨n, l, q, b, loc⟩] } }

def execCxlFetchDone (n : Nat) (l : LayerSlot) (q : SeqKey) (b : Nat) (ok : Bool) (plain : List Byte) (s : State) :
    Host.Outcome State Fault Refusal := .next (fetchDone n l.toNat q.toNat b ok plain s)

/-! ### Moves (R215, R216) -/

/-- Tell a lender that this part's entry of a block has switched away from it. -/
def tellLender (port l q b : Nat) (s : State) : State :=
  sendOn port ⟨0x05, false, true, getF (portF Reg.Port.peerPod port) s, myPod s, l, 0, 0, 1, .block l q b⟩ s

/-- Switch one block whose copy is done and that no wave names: the entry takes its new place and the source is freed. -/
def switchBlock (b : Block) (s : State) : State :=
  let lines := slotLines b.lslot b.fmt s
  let st := match b.dest with | .hot => BlockState.hot | .peer _ => .lent | .cxl => .cxl
  let port := match b.dest with | .peer p => p | _ => 0
  let put := fun (x : Block) => if x = b then
    { x with state := st, loc := b.destLoc, peer := port, copied := false, demote := false, promote := false } else x
  let s := if b.src = .hot then clearLines b.loc lines s else if b.src = .lent then tellLender b.peer b.lslot b.seq b.blk s else s
  let s := mapBlocks put s
  -- A killed block restored from the partner moves within the hot tier and is no demotion (R415).
  if b.src = .hot ∧ b.dest = .hot then
    { s with flt := { s.flt with restoring := s.flt.restoring.filter fun x => ¬ x = (b.lslot, b.seq, b.blk) } }
  else addF ((if b.dest = .hot then Reg.Kvc.promoteCnt else Reg.Kvc.demoteCnt).at kvcBase) 1 s

/-- BLOCK_SWITCH: every move whose copy is done and whose block no wave names (R215). -/
def switchBlocks (s : State) : State :=
  (s.kv.dir.filter fun b => b.state = .moving && b.copied && !(waveNames b.lslot b.seq b.blk s)).foldl (fun s b => switchBlock b s) s

/-- K_kv of a tenant (R402). -/
def kvKey (t : Nat) (s : State) : List Byte :=
  let secret := ((s.sec.secrets.find? fun x => x.1 = t).map fun x => x.2).getD []
  (Config.shake256 (leBytes 8 0x544C564B564B4559 ++ secret ++ leBytes 2 t)).take 32

/-- Words 0 and 1 of the directory entry of a block in the CXL tier, with LOC 0 (Tables 8-2 and 8-4). -/
def dirBytes (b : Block) : List Byte :=
  leBytes 8 (b.ten % 2 ^ 12 + seqNo b.seq % 2 ^ 15 * 2 ^ 12 + b.blk % 2 ^ 12 * 2 ^ 27 + b.fmt % 8 * 2 ^ 39 + b.fill % 2 ^ 9 * 2 ^ 42 +
    4 * 2 ^ 51 + b.lslot % 2 ^ 6 * 2 ^ 55) ++ leBytes 8 (if b.sel then 2 ^ 44 else 0)

/-- Write a block to its place in the CXL tier: the header line of Table 8-4 and the encrypted body (R212). -/
def writeTier (b : Block) (counter : Nat) (body : List Byte) (s : State) : State :=
  let nonce := leBytes 8 counter ++ idDigest.take 4
  let aad := dirBytes b ++ leBytes 4 0
  let key := kvKey b.ten s
  hostPut (getF (Reg.Kvc.cxlBase.at kvcBase) s + b.destLoc * 256)
    (dirBytes b ++ nonce ++ leBytes 4 0 ++ Config.gcmTag key nonce aad body ++ List.replicate 208 0 ++ Config.gcmCipher key nonce aad body) s

/-- A copy of one of this part's blocks ends. A body written to the CXL tier takes the next counter value; one read from
it must pass its tag. -/
def copyDone (l q b : Nat) (ok : Bool) (plain : List Byte) (s : State) : State :=
  match blockOf l q b s with
  | none => s
  | some x =>
    if x.state ≠ .moving ∨ x.copied then s
    else
      let m := MntAct.move l q b x.dest
      let lines := slotLines l x.fmt s
      let toCxl := decide (x.dest = .cxl)
      let s := if toCxl || decide (x.src = .cxl) then meterAdd x.ten 7 (256 * (lines + 1)) s else s
      let s := if ok then
          let k := takeNonce s
          let nonce := if toCxl then k.1 else x.nonce
          let s := if toCxl then
              writeTier x k.1 (if x.src = .hot then sramTake (lines * 256) (x.loc * 256) s else plain) k.2
            else s
          let s := if x.dest = .hot ∧ x.src = .cxl then sramPut (x.destLoc * 256) (plain.take (lines * 256)) s else s
          mapBlocks (fun y => if y = x then { y with copied := true, nonce := nonce } else y) s
        else moveFail l q b s
      let s := releaseAct m s
      if s.sched.steps.isEmpty then switchBlocks s else s

/-- A copy of a block kept for a peer to the CXL tier ends: its owner is told (R216). -/
def lentCopyDone (pod l q b : Nat) (ok : Bool) (s : State) : State :=
  match s.kv.lent.find? (fun x => x.pod = pod ∧ x.lslot = l ∧ x.seq = q ∧ x.blk = b ∧ x.demoting) with
  | none => s
  | some x =>
    let m := MntAct.lentMove pod l q b
    if ok then
      let k := takeNonce s
      releaseAct m (sendTo pod 0x05 l 0 1 (.block l q b) (meterAdd x.ten 7 (256 * (x.lines + 1)) k.2))
    else requestAct m (releaseAct m (addF (Reg.Kvc.moveFailCnt.at kvcBase) 1 s))

/-- BLOCK_COPY_DONE. -/
def execBlockCopyDone (owner : Option (BitVec 10)) (l : LayerSlot) (q : SeqKey) (b : Nat) (ok : Bool) (plain : List Byte) (s : State) :
    Host.Outcome State Fault Refusal :=
  .next (match owner with
    | none => copyDone l.toNat q.toNat b ok plain s
    | some pod => lentCopyDone pod.toNat l.toNat q.toNat b ok s)

/-! ### Lent blocks (R211) -/

/-- First line of the lent space: it follows the hot tier proper and the staging area (R265). -/
def lentBase (s : State) : Nat := hotLines s + stageLines s

/-- Runs of lines that lent blocks take, from the start of the lent space. -/
def lentRuns (s : State) : List (Nat × Nat) := s.kv.lent.map fun x => (x.loc - lentBase s, x.lines)

/-- The lent block of a borrower. -/
def lentOf (pod l q b : Nat) (s : State) : Option LentBlock :=
  s.kv.lent.find? fun x => x.pod = pod ∧ x.lslot = l ∧ x.seq = q ∧ x.blk = b

/-- Keep a borrower's block in the lent space, where there is room and the space is not being reclaimed. -/
def keepLent (pod ten l q b fmt first fill : Nat) (bytes : List Byte) (s : State) : State :=
  let n := (bytes.length + 255) / 256
  match firstFit n (getF (Reg.Kvc.lend.at kvcBase) s * 4096) (lentRuns s) with
  | some d =>
    if s.lnk.reclaiming ∨ s.ens.lendNext.isSome then s
    else
      let loc := lentBase s + d
      sramPut (loc * 256) bytes { s with kv := { s.kv with lent := s.kv.lent ++ [⟨pod, ten, q, l, b, fmt, first, fill, n, loc, false⟩] } }
  | none => s

/-- Free a lent block's lines: the borrower reads it no longer. -/
def dropLent (x : LentBlock) (s : State) : State :=
  reclaimDone (clearLines x.loc x.lines { s with kv := { s.kv with lent := s.kv.lent.filter fun y => ¬ y = x } })

/-- A borrower's step whose query this part cannot serve fails, where the borrower is of the same instance. -/
def failPeer (src step cause : Nat) (s : State) : State :=
  if (instancePods false s).contains src then failHere step cause s else s

/-- PEER_TIER_QUERY: a holder of this part scores a borrower's query over a lent block and returns the partial; the
activity is the block's tenant's. `lim` is the visibility limit in slots. A block of another tenant is not read (Table
10-4). -/
def peerQuery (src v step ten l q b head grp lim holder : Nat) (catt : Word) (qs : List Nat) (s : State) : State :=
  let s := hear src s
  match lentOf src l q b s with
  | none => s
  | some x =>
    let d := qs.length
    let g := x.lines / max 1 (blockLines 1 d x.fmt)
    if x.ten ≠ ten then failPeer src step 11 s
    else if (List.range x.lines).any fun i => isPoisoned ((x.loc + i) * 256) s then failPeer src step 4 s
    else
      let code := kvCode x.fmt
      let slots := (List.range 256).filter fun i => decide (x.first ≤ i ∧ i < x.fill ∧ i < lim)
      let ks := slots.map fun i => kvVec code g d (x.loc * 256) i grp false s
      let vs := slots.map fun i => kvVec code g d (x.loc * 256) i grp true s
      let qf := qs.map fun y => toF32 (decodeF bf16 y)
      let scores := ks.map fun k => mulF32 catt.toNat (dotF32 qf k.1)
      let p := attendBlock (newPartial d) scores (vs.map fun y => y.1)
      let s := addF (vecF Reg.Vec.kvDecSatCnt v) (((ks ++ vs).map fun y => y.2).sum) s
      let s := countOps ten (2 * slots.length * d) (slots.length + 2 * d) (slots.length + 1) s
      let out := [head, holder, p.m, p.s] ++ p.o.map fun y => (toFloat bf16 .rne (f32 y)).1
      sendTo src 0x02 l step ((32 + 2 * d + 63) / 64) (.partials ten) (updVec v (fun r => { r with out := out }) s)

def execPeerTierQuery (src : BitVec 10) (v : HoistIx) (step : Nat) (ten : TenantId) (l : LayerSlot) (q : SeqKey) (b head grp lim holder : Nat)
    (catt : Word) (qs : List (BitVec 16)) (s : State) : Host.Outcome State Fault Refusal :=
  .next (peerQuery src.toNat v.toNat step ten.toNat l.toNat q.toNat b head grp lim holder catt (qs.map BitVec.toNat) s)

/-! ### Block-copy messages (type 0x05) -/

/-- A killed block cannot be restored: its sequence ends with DETAIL 4 (R415). -/
def restoreFail (l q b : Nat) (s : State) : State :=
  let s := { s with flt := { s.flt with restoring := s.flt.restoring.filter fun x => ¬ x = (l, q, b) } }
  freeWhere (fun x => x.lslot = l && x.seq = q && x.blk = b) (endFrom q 4 s)

/-- The partner's positions of a killed block go to a newly allocated hot block; the entry switches at the next step
boundary (R415). -/
def restoreBlock (l q b : Nat) (bytes : List Byte) (s : State) : State :=
  match blockOf l q b s with
  | none => s
  | some x =>
    match firstFit (slotLines l x.fmt s) (hotLines s) (hotRuns s) with
    | none => restoreFail l q b s
    | some d =>
      sramPut (d * 256) (bytes.take (slotLines l x.fmt s * 256))
        (mapBlocks (fun y => if y = x then { y with state := .moving, src := .hot, dest := .hot, destLoc := d, copied := true } else y) s)

/-- A handed-back block is entered in the directory as a sealed hot block (R305). -/
def takeBack (ten l q b fmt first fill : Nat) (bytes : List Byte) (s : State) : State :=
  let s := allocBlock ten q b l fmt first none s
  match s.kv.dir.find? (fun x => x.lslot = l && x.seq = q && x.blk = b && x.state = .opened && x.fmt = fmt) with
  | none => s
  | some x =>
    sramPut (x.loc * 256) (bytes.take (slotLines l fmt s * 256))
      (mapBlocks (fun y => if y = x then { y with state := .hot, fill := fill } else y) s)

/-- BLOCK_COPY. -/
def blockCopy (src l q b : Nat) (u : CopyUse) (s : State) : State :=
  let s := hear src s
  match u with
  | .lend ten fmt first fill bytes => keepLent src ten.toNat l q b fmt.toNat first.toNat fill.toNat bytes s
  | .want =>
    match lentOf src l q b s with
    | some x => sendTo src 0x05 l 0 (x.lines * 4) (.block l q b) s
    | none => s
  | .back bytes =>
    match blockOf l q b s with
    | some x =>
      if x.state = .moving ∧ x.src = .lent ∧ x.dest = .hot then sramPut (x.destLoc * 256) (bytes.take (slotLines l x.fmt s * 256)) s
      else s
    | none => s
  | .toCxl nonce =>
    match blockOf l q b s with
    | some x =>
      if x.state = .lent then
        let loc := (cxlFit l x.fmt s).getD 0
        let s := mapBlocks (fun y => if y = x then
          { y with state := .moving, src := .lent, dest := .cxl, destLoc := loc, copied := true, nonce := nonce } else y) s
        if s.sched.steps.isEmpty then switchBlocks s else s
      else s
    | none => s
  | .freed => match lentOf src l q b s with | some x => dropLent x s | none => s
  | .handback ten fmt first fill bytes => takeBack ten.toNat l q b fmt.toNat first.toNat fill.toNat bytes s
  | .askRestore =>
    if isMirrored s ∧ src = getF (Reg.Lnk.pairPod.at lnkBase) s ∧ s.lnk.mirror.any (fun e => e.item.lslot.toNat = l ∧ e.item.seq.toNat = q ∧ e.item.blk.toNat = b) then
      sendTo src 0x05 l 0 (slotLines l (getF (Reg.Kvc.lfmt.at (kvcBase + 4 * l)) s) s * 4) (.block l q b) s
    else sendTo src 0x05 l 0 0 (.block l q b) s
  | .restore bytes =>
    if ¬ s.flt.restoring.contains (l, q, b) then s
    else match bytes with | some d => restoreBlock l q b d s | none => restoreFail l q b s

def execBlockCopy (src : BitVec 10) (l : LayerSlot) (q : SeqKey) (b : BitVec 12) (u : CopyUse) (s : State) :
    Host.Outcome State Fault Refusal := .next (blockCopy src.toNat l.toNat q.toNat b.toNat u s)

/-! ### Pausing and expiry (R218, R220) -/

/-- IDLE_TIMEOUT: a sequence WAITING for KVC_IDLE seconds without an APPEND is paused; 0 turns this off, and a tenant
without a secret cannot pause (R403). -/
def idleTimeout (q : Nat) (s : State) : State :=
  let r := seqOf q s
  let idle := getF (Reg.Kvc.idle.at kvcBase) s
  if isHead s ∧ r.state = .waiting ∧ r.inStep = none ∧ 0 < idle ∧ r.waitSince + ticksS idle ≤ now s ∧ hasSecret r.ten s then
    pauseSeq q 2 (ttlOf 0 s) s
  else s

def execIdleTimeout (q : SeqId) (s : State) : Host.Outcome State Fault Refusal := .next (idleTimeout q.toNat s)

/-- PAUSE_EXPIRY: at the recorded expiry every part discards the sequence's blocks, and it becomes FREE; `others` is the
number of blocks that the other parts discard. -/
def pauseExpiry (q others : Nat) (s : State) : State :=
  let r := seqOf q s
  if isHead s ∧ r.state = .paused ∧ r.expiry ≤ now s then
    let n := blockCount q s + others
    emit 0x0008 r.ten q (lastStep s) n (endSeq q (addF (Reg.Kvc.expireCnt.at kvcBase) 1 s))
  else s

def execPauseExpiry (q : SeqId) (others : Nat) (s : State) : Host.Outcome State Fault Refusal := .next (pauseExpiry q.toNat others s)

end Sys2Proof.Machine
end

