-- ==== Sys2Proof/Machine/Boundary.lean ====
section
/-! DEFINITION. The step boundary: commits in their order, the recipe policy, moves of weight and key/value blocks, and
the step's accounts (R67, R146 to R149, R182, R193, R271, R276, R420). -/

namespace Sys2Proof.Machine
open Sys2Proof

/-! ### Recipes (R146 to R148, R267) -/

def recipeRec (l : Nat) (s : State) : RecipeRec := SMap.get dfltRecipe s.sched.recipes l
def setRecipe (l : Nat) (r : RecipeRec) (s : State) : State :=
  { s with sched := { s.sched with recipes := SMap.set dfltRecipe s.sched.recipes l r } }

/-- A stored recipe of a layer, if it is defined. -/
def storedRecipe (l k : Nat) (s : State) : Option Recipe :=
  match (layerOf l s).bind fun x => x.recipes[k]? with
  | some r => if r.defined ∧ k < 4 then some r else none
  | none => none

/-- The recipe index word shows the index in force (R148). -/
def showIndex (l k : Nat) (s : State) : State :=
  match watchAddr l s with | some w => sramPutWord (w + 16) (BitVec.ofNat 64 (k % 4)) s | none => s

/-- Apply a stored recipe to a layer's registers for the step `n`. A layer on HOLD, or a recipe that is not defined, is
left as it is. -/
def applyRecipe (n l k : Nat) (s : State) : State :=
  match storedRecipe l k s with
  | none => s
  | some r =>
    if holdBit l s then s
    else
      let v := clampValues (recipeKeys l r s) s
      let s := v.1.foldl applyValue v.2
      let s := sramPut (layerAddr l s + 18) (leBytes 1 r.qfmt)
        (sramPut (layerAddr l s + 6) (leBytes 1 (getF (Reg.Kvc.lfmt.at (kvcBase + 4 * l)) s)) s)
      let old := recipeRec l s
      if old.k = k then s
      else emitPart 0x0007 (l + k * 65536) (showIndex l k (setRecipe l { old with k := k, changed := some n, clean := 0 } s))

/-- The layer's registers match a recipe. -/
def recipeMatches (l : Nat) (r : Recipe) (s : State) : Bool :=
  (recipeKeys l r s).all fun x => getKey x.1 s = legal x.1 x.2

/-- The index that the layer's registers match, or 0. -/
def matchedIndex (l : Nat) (s : State) : Nat :=
  ((List.range 4).find? fun k => match storedRecipe l k s with | some r => recipeMatches l r s | none => false).getD 0

/-- The watch word of a layer. -/
def watchWord (l : Nat) (s : State) : Nat := match watchAddr l s with | some w => (sramWord w s).toNat | none => 0

/-- What Table 5-2 does with the recipe index of a layer that is not on HOLD, for the step `n`; MIN_HOLD spaces every
change (R147). -/
def policyNext (n recent : Nat) (p : Policy) (l : Nat) (r : RecipeRec) (s : State) : Nat :=
  let spaced : Bool := match r.changed with | some c => decide (c + p.minHold ≤ n) | none => true
  if decide (p.trigCount ≤ recent) && spaced && (storedRecipe l (r.k + 1) s).isSome then r.k + 1
  else if decide (0 < r.k) && decide (p.cleanSteps ≤ r.clean) && spaced && (storedRecipe l (r.k - 1) s).isSome then r.k - 1
  else r.k

/-- The recipe policy of one layer: the record of the watch word, and the index that it asks for, if it changes. -/
def policyLayer (n : Nat) (p : Policy) (l : Nat) (s : State) : Option Nat × State :=
  let r := recipeRec l s
  let v := watchWord l s
  let recent := v - (r.hist[p.trigWindow - 1]?).getD 0
  let clean := if r.hist.headD 0 < v then 0 else r.clean + 1
  let r := { r with hist := (v :: r.hist).take 4096, clean := clean }
  if holdBit l s then (none, setRecipe l { r with held := true } s)
  else if r.held then
    let k := matchedIndex l s
    (none, showIndex l k (setRecipe l { r with held := false, k := k } s))
  else
    let k := policyNext n recent p l r s
    (if k = r.k then none else some k, setRecipe l r s)

/-- RECIPE_POLICY for every layer of the part (R147), with the indices of the step's plan (R146): one internal commit
covers every layer (Table 10-11). -/
def recipePolicy (n : Nat) (planned : List (Nat × Nat)) (s : State) : State :=
  let x := (mySlots s).foldl (fun (acc : List (Nat × Nat) × State) l =>
    match (layerOf l s).map fun y => y.policy with
    | some p =>
      let y := policyLayer n p l acc.2
      (match y.1 with | some k => acc.1 ++ [(l, k)] | none => acc.1, y.2)
    | none => acc) ([], s)
  let own := x.1.filter fun e => !(planned.any fun y => y.1 = e.1)
  let all := own ++ planned.filter fun e => (mySlots s).contains e.1 && (recipeRec e.1 x.2).k ≠ e.2
  if all.isEmpty then x.2 else updCfg (fun c => { c with internals := c.internals ++ [⟨false, all, []⟩] }) x.2

/-! ### Commits (R271, R276) -/

/-- An accepted amendment takes effect: TRUST, placements, layer tables, ROUTE and the SCHED section. -/
def applyAmend (s : State) : State :=
  match s.ens.amending, s.ens.image with
  | some a, some b =>
    let m := amendMerge b a
    -- The section's LEND comes into force by R216; until then the register keeps the old value.
    let s := updEns (fun e => { e with image := some m, amending := none }) s
    let old := s
    let s := a.placements.foldl (fun s p =>
      let s := (slotArrays p.slot s).foldl (fun s x => updArr x (fun r => { r with reserved := none }) s) s
      let freed := s.arrs.filter fun e => e.2.spareSlot = some p.slot
      let s := freed.foldl (fun s e =>
        let t := updArr e.1 (fun r => { r with spareSlot := none }) s
        if arrState e.1 t = 7 then setArrState e.1 0 t else t) s
      let s := p.entries.foldl (placeEntry p.slot old) s
      p.entries.foldl (placeRetired p.slot old) s) s
    let s := match a.sched with
      | some x => { s with sched := { s.sched with
          tenantCount := x.tenants, classes := (x.classes.zipIdx).foldl (fun m c => SMap.set dfltClass m c.2 c.1) [] } }
      | none => s
    let s := match a.route with
      | some r =>
        let oldPod := fun (p : Nat) => ((b.route.map fun y => y.entries).getD [])[p]?.map fun (y : RouteEntry) => y.dpod
        let same := fun (p : Nat) => (r.entries[p]?.map fun (y : RouteEntry) => y.dpod) == oldPod p
        setF (Reg.Lnk.pairPod.at lnkBase) (r.partner % 1024)
          { s with lnk := { s.lnk with switched := s.lnk.switched.filter same } }
      | none => s
    let s := match a.power with
      | some x => updPwr (fun p => { p with
          rth := (x.rth.zipIdx).foldl (fun m v => SMap.set dfltRth m v.2 (clampRange 10000000 200000000 (v.1 * 1000000000 / 65536))) p.rth }) s
      | none => s
    signal 0 (setF Reg.Glb.ensSeq a.seq (setF Reg.Glb.ensAmend 0 s))
  | _, _ => setF Reg.Glb.ensAmend 0 (updEns (fun e => { e with amending := none }) s)

/-- One internal commit for the boundary of the step `n`. -/
def applyInternal (n : Nat) (s : State) (c : IntCommit) : State :=
  let s := if c.amend then applyAmend s else s
  applyValues c.values (c.recipes.foldl (fun s x => applyRecipe n x.1 x.2 s) s)

/-- Internal commits, in the order in which they were formed. -/
def applyInternals (n : Nat) (s : State) : State :=
  s.cfg.internals.foldl (applyInternal n) (updCfg (fun c => { c with internals := [] }) s)

/-- The commit may apply: without AT always, with AT at the boundary of a step not below the one it names. -/
def commitDue (n : Option Nat) (c : HostCommit) : Bool :=
  match c.atStep, n with
  | none, _ => true
  | some m, some n => decide (m ≤ n)
  | some _, none => false

/-- One host commit: its values, APPLIED, and LATE where the boundary is a later one than it names. -/
def applyHost (n : Option Nat) (c : HostCommit) (s : State) : State :=
  let late := match c.atStep, n with | some m, some n => decide (m < n) | _, _ => false
  let s := if late then setF (Reg.Sch.commitLate.at schBase) 1 s else s
  setF (Reg.Sch.commitApplied.at schBase) c.seq (applyValues c.values s)

/-- Host commits in GO order, up to the first that waits for its step. -/
def applyHosts (n : Option Nat) : List HostCommit → State → State
  | [], s => updCfg (fun c => { c with commits := [] }) s
  | c :: l, s => if commitDue n c then applyHosts n l (applyHost n c s) else updCfg (fun x => { x with commits := c :: l }) s

/-- The commits of a boundary: `n` is the step of the part's own instance, none on an idle part and at a boundary of the
lost instance's steps, where a commit with AT waits. -/
def applyCommits (n : Option Nat) (s : State) : State :=
  let s := applyInternals (n.getD (lastStep s)) s
  applyHosts n s.cfg.commits s

/-! ### Moves -/

/-- A new LEND value is set once the last lent block has moved (R271). -/
def applyLend (s : State) : State :=
  match s.ens.lendNext with
  | some v =>
    if ¬ s.lnk.reclaiming ∧ s.kv.lent.isEmpty then
      setF (Reg.Kvc.lend.at kvcBase) v (updEns (fun e => { e with lendNext := none }) s)
    else s
  | none => s

/-- ARRAY_BLOCK_MOVE (R67, Table 2-8, R251): the spare takes the block and its window, and enters SERVICE; the former
array goes to REVERIFY, or retires at its budget. -/
def moveArray (s : State) (a : Nat) : State :=
  let r := arrOf a s
  match r.heir with
  | none => s
  | some h =>
    if ¬ r.heirReady ∨ arrState a s ≠ 4 then s
    else
      let touch := decide ((arrOf h s).job = some (.spareFor a true))
      let s := setF (arrF Reg.Pnt.rows h) (getF (arrF Reg.Pnt.rows a) s) (setF (arrF Reg.Pnt.fs h) (getF (arrF Reg.Pnt.fs a) s) s)
      let s := setArrState h 1 (updArr h (fun x => { x with
        hold := r.hold, past := none, job := none, failedReads := 0, age := 0, overdue := false }) s)
      let s := updArr a (fun x => { x with hold := none, past := r.hold, heir := none, heirReady := false }) s
      let s := if atBudget a s then retire a 2 s else requestAct (.diag a) (setArrState a 5 s)
      if touch then lifeAdd 0x668 8 1 (addF (wgtF Reg.Wgt.touchCnt) 1 s) else s

/-- Every block whose spare is ready moves. -/
def moveArrays (s : State) : State := ((s.arrs.filter fun e => e.2.heirReady).map fun e => e.1).foldl moveArray s

/-- Banks of RELEASEd epochs are cleared once no wave names them (Table 9-8). -/
def clearReleased (s : State) : State := s.wgt.clearing.foldl (fun s e => clearBanks e s) s

/-- KV_TIER_FULL may be sent again once the tier has room (Table 8-8). -/
def relieveTiers (s : State) : State :=
  { s with kv := { s.kv with
      fullDir := s.kv.fullDir && decide (getF (Reg.Kvc.dirCap.at kvcBase) s ≤ s.kv.dir.length)
      fullHot := s.kv.fullHot && decide (hotFree s = 0)
      fullCxl := s.kv.fullCxl && ((mySlots s).all fun l => (cxlFit l (getF (Reg.Kvc.lfmt.at (kvcBase + 4 * l)) s) s).isNone) } }

/-! ### Releases and pauses (Table 7-2, R218, R321) -/

/-- A released sequence in no step becomes FREE; a held pause of a waiting one applies. -/
def settleIdle (s : State) (q : Nat) : State :=
  let r := seqOf q s
  if r.inStep.isSome then s
  else if r.releasing then completeCmds (fun c => c.1 = 3 && c.2.seq.toNat = q) 0 (endSeq q s)
  else if r.state = .waiting then
    match r.pausing with
    | some t => completeCmds (fun c => c.1 = 4 && c.2.seq.toNat = q) 0 (pauseSeq q 1 t s)
    | none => s
  else s

/-- Open RELEASE and PAUSE commands whose sequence has ended complete, with status 0 and 1. -/
def settleEnded (s : State) : State :=
  let freed := fun (c : CmdHead) => decide ((seqOf c.seq.toNat s).state = .free)
  completeCmds (fun c => c.1 = 4 && freed c.2) 1 (completeCmds (fun c => c.1 = 3 && freed c.2) 0 s)

/-- Releases and pauses that a boundary completes. -/
def settleSeqs (s : State) : State :=
  settleEnded ((s.sched.seqs.map fun e => e.1).foldl settleIdle s)

/-! ### Busy slots and lagging (R193, R420) -/

/-- Busy slots of a pennant since the last boundary: of its longest array. -/
def busyOf (p : Nat) (s : State) : Nat := ((List.range 16).map fun i => (arrOf (p * 16 + i) s).stepSlots).foldl max 0

/-- Twice the median of the busy counts of a layer's pennants that have read. -/
def layerMedian2 (ls : List (Nat × Nat)) (l : Nat) (s : State) : Nat :=
  let c := ((ls.filter fun x => x.2 = l).map fun x => busyOf x.1 s).filter fun n => 0 < n
  match median2 (c.map fun (n : Nat) => (n : Int)) with | some m => m.toNat | none => 0

/-- The bin of the stall histogram for a count and twice the median. -/
def stallBin (c m : Nat) : Nat :=
  if 200 * c < 110 * m then 0 else if 200 * c < 125 * m then 1 else if 200 * c < 150 * m then 2
  else if 200 * c < 200 * m then 3 else if 200 * c < 400 * m then 4 else 5

/-- A pennant's part in the lag rule: the consecutive steps above the ratio, and the report when they reach STEPS. -/
def lagUpdate (p : Nat) (above : Bool) (s : State) : State :=
  let n := if above then min (getF (pntF Reg.Pnt.lagCnt p) s + 1) 65535 else 0
  let s := setF (pntF Reg.Pnt.lagCnt p) n s
  let now' := decide (getF (Reg.Sch.lagSteps.at schBase) s ≤ n)
  let was := (pntOf p s).lagging
  let s := updPnt p (fun r => { r with lagging := now' }) s
  if now' ∧ ¬ was then
    let f := Reg.Sch.lagMap.at (schBase + 4 * (p / 32))
    let s := if (getF f s).testBit (p % 32) then s else setF f (getF f s + 2 ^ (p % 32)) s
    lifeAdd 0x730 8 1 (emitPart 0x0005 p s)
  else s

/-- The account of one pennant of the layers `ls`, from the counts before any is cleared. -/
def pennantAccount (ls : List (Nat × Nat)) (old : State) (s : State) (p : Nat) : State :=
  let c := busyOf p old
  let ms := ((ls.filter fun x => x.1 = p).map fun x => layerMedian2 ls x.2 old).filter fun m => 0 < m
  let above := decide (0 < c) && ms.any fun m => decide (getF (Reg.Sch.lagRatio.at schBase) old * m < 32 * c)
  let s := lagUpdate p above (setF (pntF Reg.Pnt.busySlots p) c s)
  match ms with
  | m :: _ =>
    if c = 0 then s
    else
      let b := stallBin c m
      lifeAdd (0x700 + 8 * b) 8 1 (addF ((pntF Reg.Pnt.stallH p).at (4 * b)) 1 s)
  | [] => s

/-- PNT_BUSY, LAGGING and the stall histograms of the step that has ended. -/
def stepAccounts (s : State) : State :=
  let ls := pennantLayers s
  let t := (ls.map fun x => x.1).eraseDups.foldl (pennantAccount ls s) s
  { t with arrs := SMap.mapV dfltArr (fun (r : ArrRec) => { r with stepSlots := 0, pause := 0 }) t.arrs }

/-- A restart of the norm watch: the running values are cleared, and the warm-up begins (R141). -/
def restartWatches (s : State) : State :=
  ((s.pnts.filter fun e => e.2.restart).map fun e => e.1).foldl (fun s p =>
    setF (pntF Reg.Pnt.wsWarm p) 1 (setF (pntF Reg.Pnt.watchL2 p) 0 (setF (pntF Reg.Pnt.watchLinf p) 0
      (updPnt p (fun r => { r with restart := false, warmSeen := 0 }) s)))) s

/-! ### The boundary -/

/-- The boundary of the step comes: it is in flight and not started, and every earlier step of its instance has started
(R182). -/
def boundaryDue (n : Nat) (s : State) : Bool :=
  (match stepOf n s with | some r => !r.started | none => false) &&
    s.sched.steps.all fun r => r.started || decide (n ≤ r.plan.step) || decide ((n < lostBase) ≠ (r.plan.step < lostBase))

/-- What every boundary does besides commits. -/
def boundaryWork (s : State) : State :=
  let s := moveArrays (switchBlocks (applyLend s))
  let s := restartWatches (stepAccounts s)
  touchUpStart (relieveTiers (settleSeqs (clearReleased (sweepBlocks s))))

/-- STEP_BOUNDARY. -/
def stepBoundary (n : Nat) (s : State) : State :=
  if ¬ boundaryDue n s then s
  else
    let own := decide (n < lostBase)
    let planned := match stepOf n s with | some r => r.plan.recipes | none => []
    let s := if own then recipePolicy n planned s else s
    let s := boundaryWork (applyCommits (if own then some n else none) s)
    let s := updStep n (fun r => { r with started := true }) s
    if own then { s with sched := { s.sched with boundary := some n } } else s

def execStepBoundary (n : Nat) (s : State) : Host.Outcome State Fault Refusal := .next (stepBoundary n s)

/-- COMMIT_IDLE_APPLY: within 2 µs on a part that has no step in flight and none planned (R182, R276). -/
def commitIdle (s : State) : State := if s.sched.steps.isEmpty then boundaryWork (applyCommits none s) else s

def execCommitIdleApply (s : State) : Host.Outcome State Fault Refusal := .next (commitIdle s)

/-! ### A plan reaches an idle part (R276) -/

/-- A commit with AT that names the step of a plan, or an earlier one, applies when the plan arrives at an idle part. -/
def atPlan (before : State) (s : State) : State :=
  if before.sched.steps.isEmpty then
    match s.sched.steps with
    | r :: _ => if r.plan.step < lostBase then applyHosts (some r.plan.step) s.cfg.commits s else s
    | [] => s
  else s

/-- STEP_COMPOSE. -/
def execStepCompose (c : Composition) (s : State) : Host.Outcome State Fault Refusal :=
  if 3 < c.wave then .fault .noSuchUnit else .next (atPlan s (stepCompose c s))

/-- STEP_PLAN. -/
def execStepPlan (src : BitVec 10) (p : Plan) (s : State) : Host.Outcome State Fault Refusal :=
  .next (atPlan s (stepPlan src.toNat p (hear src.toNat s)))

end Sys2Proof.Machine
end

