-- ==== Sys2Proof/Machine/Bunting.lean ====
section
/-! DEFINITION. Bunting tiles (R166 to R173, R414): banks, their loads and tags, and the vectors computed from them. -/

namespace Sys2Proof.Machine
open Sys2Proof

/-- A bank's key: tile × 2 + bank. -/
def bankKey (t : Nat) (b : Bool) : Nat := t * 2 + (if b then 1 else 0)
def bankOf (t : Nat) (b : Bool) (s : State) : Bank := SMap.get dfltBank s.banks (bankKey t b)
def setBank (t : Nat) (b : Bool) (r : Bank) (s : State) : State :=
  { s with banks := SMap.set dfltBank s.banks (bankKey t b) r }

/-- Steps in flight whose plans name a bank. -/
def bankSteps (t : Nat) (b : Bool) (s : State) : List Nat :=
  (s.sched.steps.filter fun r => r.plan.uses.any fun u => u.tile.toNat = t ∧ u.bank = b).map fun r => r.plan.step

/-- Steps naming a bank fail with cause 4. -/
def failBank (t : Nat) (b : Bool) (s : State) : State := (bankSteps t b s).foldl (fun s n => failHere n 4 s) s

/-! ### Loads (R168, R258, R259) -/

/-- BANK_LOAD_DONE: the last 64 B are written, or the source could not be read. Weights of a streamed configuration come
as the bytes that the load path carried; every other load comes from SRAM. -/
def bankLoadDone (t : Nat) (b : Bool) (ok : Bool) (streamed : List Byte) (s : State) : State :=
  let r := bankOf t b s
  if r.state ≠ .loading then s
  else if ok then
    let bytes := if r.kind = 2 then streamed else sramTake r.len r.src s
    setBank t b { r with state := .ready, data := putBytes 0 bytes [] } (addF (Reg.Bnt.loadCnt.at (bntBase t)) 1 s)
  else
    let s := failBank t b (report 0x0008 t r.src s)
    setBank t b (dfltBank 0) s

def execBankLoadDone (t : TileIx) (b ok : Bool) (streamed : List Byte) (s : State) : Host.Outcome State Fault Refusal :=
  if 1048576 < streamed.length then .fault .badLength else .next (bankLoadDone t.toNat b ok streamed s)

/-! ### Records (R169) -/

/-- A record's header fields. -/
structure RecHead where
  r : Nat
  s4 : Bool
  din : Nat
  dout : Nat
  alpha : Nat
  deriving DecidableEq, Repr

/-- The little-endian number at a byte of a bank. -/
def bankNat (r : Bank) (a n : Nat) : Nat := ofLe (takeBytes n a r.data)

/-- The header of a record. -/
def recHead (b : Bank) (a : Nat) : RecHead :=
  ⟨bankNat b (a + 4) 1, bankNat b (a + 5) 1 = 1, bankNat b (a + 8) 4, bankNat b (a + 12) 4, bankNat b (a + 16) 4⟩

/-- A length rounded up to 64 bytes. -/
def up64 (n : Nat) : Nat := (n + 63) / 64 * 64

/-- A raw weight: its two's complement value. -/
def rawWeight (b : Bank) (s4 : Bool) (a i : Nat) : Int :=
  if s4 then sInt 4 (bankNat b (a + i / 2) 1 / 16 ^ (i % 2)) else sInt 8 (bankNat b (a + i) 1)

/-- A weight as used: S8 −128 as −127, S4 −8 as −7 (R101, R42). -/
def useWeight (s4 : Bool) (w : Int) : Int := if s4 then max (-7) w else max (-127) w

/-- Index of a weight: blocks of 128 along the long side, each holding `n` runs of the block's width. -/
def weightIx (n long run i : Nat) : Nat := i / 128 * 128 * n + run * min 128 (long - i / 128 * 128) + i % 128

/-- The scale of an output: E8M0, then FP16. -/
def recScale (b : Bank) (a i : Nat) : ColParam := ⟨bankNat b (a + 3 * i) 1, bankNat b (a + 3 * i + 1) 2, 0⟩

/-! ### Stages (R166, R170) -/

/-- An input of a stage: its exponent and integers, or none where its maximum is NaN or infinite. -/
def stageIn (l : List FVal) : Option (Int × List Int) :=
  let a := maxAbs l
  if nonFinite a then none else some (inputExp 127 a, l.map (quantise 127 (inputExp 127 a)))

/-- One output: the exact sum in ACC-W units, to FP32, times the scale product. -/
def stageOut (e : Int) (xs ws : List Int) (c : ColParam) : Nat :=
  mulF32 (intF32 (256 * (List.zipWith (· * ·) xs ws).sum)) (scaleProduct e c).1

/-- A stage: weights by output and input index. A zero vector gives +0; a bad vector gives NaN. -/
def stage (x : List FVal) (n : Nat) (w : Nat → Nat → Int) (sc : Nat → ColParam) : List Nat :=
  match stageIn x with
  | none => List.replicate n (nanBits fp32)
  | some (e, xs) =>
    if xs.all (fun i => i = 0) then List.replicate n 0
    else (List.range n).map fun o => stageOut e xs ((List.range xs.length).map (w o)) (sc o)

/-- The quantised input of a stage is all zero. -/
def isZeroIn (x : List FVal) : Bool := match stageIn x with | some (_, xs) => xs.all (fun i => i = 0) | none => false

/-- The multiply-adds of a stage: none for a skipped vector. -/
def stageMacs (x : List FVal) (n : Nat) : Nat :=
  match stageIn x with
  | some (_, xs) => if xs.all (fun i => i = 0) then 0 else n * xs.length
  | none => 0

/-- What a record yields for a vector: its outputs and its multiply-adds. An adapter has two stages and α; the other
kinds one stage of d_out outputs. -/
def runRecord (b : Bank) (a : Nat) (x : List FVal) : List Nat × Nat :=
  let h := recHead b a
  let bytes := fun (n : Nat) => up64 (if h.s4 then (n + 1) / 2 else n)
  let x := x.take h.din
  if b.kind = 0 then
    let aw := a + 64
    let as := aw + bytes (h.r * h.din)
    let bw := as + up64 (3 * h.r)
    let bs := bw + bytes (h.r * h.dout)
    let y := (stage x h.r (fun o i => useWeight h.s4 (rawWeight b h.s4 aw (weightIx h.r h.din o i))) (recScale b as)).map f32
    let z := stage y h.dout (fun o i => useWeight h.s4 (rawWeight b h.s4 bw (weightIx h.r h.dout i o))) (recScale b bs)
    -- A zero input is skipped, with a delta of +0 (Table 6-5).
    (if isZeroIn x then List.replicate h.dout 0 else z.map (mulF32 h.alpha), stageMacs x h.r + stageMacs y h.dout)
  else
    let w := a + 64
    let sc := w + bytes (h.din * h.dout)
    (stage x h.dout (fun o i => useWeight h.s4 (rawWeight b h.s4 w (weightIx h.din h.dout i o))) (recScale b sc),
      stageMacs x h.dout)

/-- Weights of a record that are replaced as it is read (R101). -/
def recClamps (b : Bank) (a : Nat) : Nat :=
  let h := recHead b a
  let bytes := fun (n : Nat) => up64 (if h.s4 then (n + 1) / 2 else n)
  let bad := fun (at_ n : Nat) => ((List.range n).filter fun i =>
    decide (rawWeight b h.s4 at_ i = if h.s4 then -8 else -128)).length
  if b.kind = 0 then
    bad (a + 64) (h.r * h.din) + bad (a + 64 + bytes (h.r * h.din) + up64 (3 * h.r)) (h.r * h.dout)
  else bad (a + 64) (h.din * h.dout)

/-! ### Vectors (R167, R170, R171, R414) -/

/-- TAG_MISS: nothing is computed, and the step fails with cause 1. -/
def tagMiss (t step : Nat) (s : State) : State :=
  failHere step 1 (addF (Reg.Bnt.tagMissCnt.at (bntBase t)) 1 (setF (Reg.Bnt.tagMiss.at (bntBase t)) 1 s))

/-- An uncorrectable word in a bank: the steps that read it fail, and the bank is EMPTY, its tag kept until it is
unreferenced. -/
def bankBad (t : Nat) (u : Bool) (s : State) : State :=
  let s := failBank t u (report 0x0008 t 0 (domUncorrected 7 1 s))
  freeBanks (setBank t u { bankOf t u s with state := .empty, data := [] } s)

/-- Send a result to its destination. -/
def tileSend (t : Nat) (d : TileDst) (y : List Nat) (s : State) : State :=
  match d with
  | .delta p vid =>
    updPnt p.toNat (fun r => { r with coming := r.coming ++ [(vid, t, (List.range y.length).map fun i => (i, (y[i]?).getD 0))] }) s
  | .store fmt h a =>
    let x := convert fmt false 0 0 (y.map f32)
    storeVec .plain fmt (((storedVals fmt x).map fun v => absF32 (toF32 v)).foldl maxNanF32 0) x (some (h, a)) s

/-- BUNTING_VECTOR: a vector of a tenant, with the bank and tag that its plan entry names and its record's place in the
bank. -/
def buntingVector (t step : Nat) (use : BankUse) (ten rec : Nat) (segs : List Segment) (d : TileDst) (ecc : Ecc) (s : State) :
    State :=
  let b := bankOf t use.bank s
  if b.state = .loading then s
  else if ¬ (b.state = .ready ∧ b.kind = use.kind.toNat ∧ b.version = use.version.toNat ∧ (b.kind = 0 → b.ten = ten)) then
    tagMiss t step s
  else
    match ecc with
    | .uncorrectable => bankBad t use.bank s
    | _ =>
      let s := if ecc = .corrected then domCorrected 7 1 s else s
      let y := runRecord b rec (segs.flatMap segVals)
      let s := countClamps (if y.2 = 0 then 0 else recClamps b rec) (meterAdd ten 1 y.2 s)
      tileSend t d y.1 s

def execBuntingVector (t : TileIx) (step : Nat) (use : BankUse) (ten : TenantId) (rec : Nat) (segs : List Segment) (d : TileDst)
    (ecc : Ecc) (s : State) : Host.Outcome State Fault Refusal :=
  if 1048576 ≤ rec then .fault .badLength else .next (buntingVector t.toNat step use ten.toNat rec segs d ecc s)

end Sys2Proof.Machine
end

