-- ==== Sys2Proof/Machine/Startup.lean ====
section
/-! DEFINITION. Reset, the boot ROM, the start-up order and the restarts of cores (R34, R36, R394, R395, R443 to R449). -/

namespace Sys2Proof.Machine
open Sys2Proof

/-! ### RESET_N (R444, R445) -/

def execResetNAssert (s : State) : Host.Outcome State Fault Refusal := .next (conventionalReset s)

/-- RESET_N is released: LTIME starts at 0 and the boot ROM reads the factory area, with `corr` corrections; `ok` says
that every word could be read and that the lock word is in force (R394). -/
def resetRelease (corr : Nat) (ok : Bool) (s : State) : State :=
  if s.pins.resetN ∨ ¬ pwrGood s then s
  else
    let s := { s with pins := { s.pins with resetN := true }, ltime := 0 }
    let s := setF Reg.Glb.secKeySlots (cfgKeysWord s) (setF Reg.Glb.secFloor s.sec.floor s)
    let s := domCorrected 8 corr (setF Reg.Glb.secIdCorr corr s)
    if ok then s else report 0x0014 0 0 (domUncorrected 8 1 (setF Reg.Glb.secIdFail 1 s))

def execResetNRelease (corr : Nat) (ok : Bool) (s : State) : Host.Outcome State Fault Refusal := .next (resetRelease corr ok s)

/-! ### The boot ROM (R395, R396, R422) -/

/-- The ROM accepts a slot of the boot flash. -/
def slotAccepted (x : FwSlot) (s : State) : Bool :=
  x.headerOk && (x.keyIx == 1 || (x.keyIx == 0 && !s.sec.key0Revoked)) && decide (s.sec.floor ≤ x.svn.toNat) && x.sigOk

/-- A copy of the lifetime record whose CRC-32C fails is skipped, counted in domain 9 and reported (R409, R421). -/
def rejectCopy (s : State) (n : BitVec 4) : State :=
  report 0x0015 n.toNat 0 (domUncorrected 9 1 { s with flt := { s.flt with
    copies := SMap.upd dfltCopy s.flt.copies n.toNat (fun c => { c with valid := false }) } })

/-- The newest valid copy. -/
def newestCopy (s : State) : Option LifeCopy :=
  (s.flt.copies.filter fun e => e.2.valid).foldl (fun b e =>
    match b with | some c => if c.number < e.2.number then some e.2 else b | none => some e.2) none

/-- Counts of two records; each field saturates. -/
def addCounts (base : SMap Nat) (m : SMap Nat) (size : Nat → Nat) : SMap Nat :=
  base.foldl (fun m e =>
    if 0x1000 ≤ e.1 then m else SMap.upd dfltZero m e.1 (fun v => min (v + e.2) (2 ^ (8 * size e.1) - 1))) m

/-- The first byte and the size of the field of the lifetime record that a byte lies in (Table 17-4). -/
def lifeField (o : Nat) : Nat × Nat :=
  let in_ := fun (lo hi n : Nat) => if lo ≤ o ∧ o < hi then some ((o - lo) / n * n + lo, n) else none
  let port := (o - 0x400) % 16
  let portStart := o - port
  if o = 6 ∨ o = 7 then (6, 2)
  else if 0x400 ≤ o ∧ o < 0x540 then
    (if port < 8 then (portStart, 8) else if port < 12 then (portStart + 8, 4) else (portStart + 12, 4))
  else if 0x800 ≤ o ∧ o < 0x880 then (if o % 16 < 8 then (o / 4 * 4, 4) else (o / 8 * 8, 8))
  else
    ((in_ 0x10 0x18 8).or <| (in_ 0x18 0x1C 4).or <| (in_ 0x50 0xF0 4).or <| (in_ 0x100 0x1A0 4).or <|
      (in_ 0x200 0x2A0 8).or <| (in_ 0x300 0x3C0 8).or <| (in_ 0x600 0x680 8).or <| (in_ 0x700 0x738 8).or <|
      in_ 0x2000 0x6000 2).getD (o, 1)

/-- Load the newest valid copy; with none the record starts from zero and RESTART sets (R421). What was counted before the
first copy was ever written stays. -/
def loadRecord (s : State) : State :=
  match newestCopy s with
  | some c => { s with flt := { s.flt with
      life := addCounts c.counts s.flt.life (fun o => (lifeField o).2), snapshots := c.number } }
  | none => { s with flt := { s.flt with
      life := SMap.set dfltZero (if s.flt.copies.isEmpty then s.flt.life else s.flt.life.filter fun e => e.1 < 0x1000) 6 1 } }

/-- An entry of the last rail faults and THERMTRIP events (Table 17-4). -/
def lastEvent (kind source : Nat) (s : State) : State :=
  let slot := 0x800 + 16 * ((lifeGet 0x630 s + lifeGet 0x638 s) % 8)
  let put := fun (o v : Nat) (s : State) => { s with flt := { s.flt with life := SMap.set dfltZero s.flt.life o v } }
  put (slot + 8) (lifeGet 0x10 s) (put (slot + 4) (Config.latchCause kind source).toNat (put slot (kind + 256 * source) s))

/-- A rail fault or THERMTRIP that the stage latched is recorded at the next start (R357, R364). -/
def recordLatch (s : State) : State :=
  match s.pwr.latch with
  | .none => s
  | .rail n => updPwr (fun p => { p with latch := .none }) (report 0x000D n 0 (lastEvent 1 n s))
  | .trip n => updPwr (fun p => { p with latch := .none }) (report 0x000E n 0 (lastEvent 2 n s))

/-- Management firmware of a slot starts: SRAM reads zeros with valid check bytes, and the lifetime record is loaded
(Table 19-9, R212, R396). -/
def startFirmware (x : FwSlot) (b : Bool) (bad : List (BitVec 4)) (s : State) : State :=
  let s := updSec (fun c => { c with fwDig := x.fwDig, seqDig := x.seqDig, fwKey1 := decide (x.keyIx = 1) }) s
  let s := setF Reg.Glb.secSvn x.svn.toNat (setF Reg.Glb.secSlotB (if b then 1 else 0) s)
  let s := setF Reg.Glb.mgmtFwRun 1 (setF Reg.Glb.state 1 { s with sram := [], flt := { s.flt with poisoned := [], badStage := [] } })
  let s := setF (Reg.Kvc.nonce.at kvcBase) s.kv.reserved (freshNonce s)
  lifeAdd 0x18 4 1 (recordLatch (loadRecord (bad.foldl rejectCopy s)))

/-- BOOT_ROM_END: slot A, then slot B; with neither the part stays in ROM. `bad` names the lifetime copies that fail. -/
def bootRomEnd (a b : FwSlot) (bad : List (BitVec 4)) (s : State) : State :=
  if ¬ s.pins.resetN ∨ getF Reg.Glb.state s ≠ 0 ∨ isSet Reg.Glb.mgmtFwRun s ∨ isSet Reg.Glb.secBootFail s then s
  else if slotAccepted a s then startFirmware a false bad s
  else if slotAccepted b s then startFirmware b true bad s
  else setF Reg.Glb.secBootFail 1 s

def execBootRomEnd (a b : FwSlot) (bad : List (BitVec 4)) (s : State) : Host.Outcome State Fault Refusal :=
  .next (bootRomEnd a b bad s)

/-! ### Checking and lighting (R443, R447, R448, Table 19-10) -/

/-- Ports of the image's ENMASK. -/
def enPorts (s : State) : List Nat :=
  match s.ens.image with
  | some i => match i.route with | some r => (List.range 20).filter fun n => r.enmask.testBit n | none => []
  | none => []

/-- Light the ENMASK ports. -/
def lightPorts (s : State) : State := (enPorts s).foldl (fun s n => linkEnable n s) s

/-- POD_ADDRESS_WRITE: the board controller writes the board and slot numbers (R291); LIGHTING waits for them. -/
def podAddressWrite (board : BitVec 6) (slot : BitVec 4) (s : State) : State :=
  let s := setF (Reg.Lnk.topoSlot.at lnkBase) slot.toNat (setF (Reg.Lnk.topoBoard.at lnkBase) board.toNat
    (setF (Reg.Lnk.topoPod.at lnkBase) (board.toNat * 16 + slot.toNat) s))
  let late := !s.lnk.podKnown
  let s := { s with lnk := { s.lnk with podKnown := true } }
  if late ∧ getF Reg.Glb.state s = 6 then lightPorts s else s

def execPodAddressWrite (board : BitVec 6) (slot : BitVec 4) (s : State) : Host.Outcome State Fault Refusal :=
  .next (podAddressWrite board slot s)

/-- CHECKING may end (R447): no epoch slot is DORMANT or INSTALLING, or every DORMANT slot has had one ATTACH end since
the start. -/
def checkingOver (s : State) : Bool :=
  s.wgt.slots.all (fun e => e.2.state ≠ .dormant && e.2.state ≠ .installing) ||
    s.wgt.slots.all (fun e => e.2.state ≠ .dormant || e.2.attachEnded)

/-- CHECKING_END: LIGHTING, with the ENMASK ports enabled. -/
def checkingEnd (s : State) : State :=
  if getF Reg.Glb.state s = 5 ∧ checkingOver s then
    let s := setF Reg.Glb.state 6 s
    if s.lnk.podKnown then lightPorts s else s
  else s

def execCheckingEnd (s : State) : Host.Outcome State Fault Refusal := .next (checkingEnd s)

/-- Every ENMASK port is UP, HELD or DOWN. -/
def lightingOver (s : State) : Bool :=
  s.lnk.podKnown && (enPorts s).all fun n => decide (6 ≤ portState n s) && decide (portState n s ≤ 8)

/-- An epoch slot is INSTALLED. -/
def anyInstalled (s : State) : Bool := s.wgt.slots.any fun e => e.2.state = .installed

/-- LIGHTING_END: the sequencer cores are released; the part serves, or rests where no epoch is INSTALLED. -/
def lightingEnd (s : State) : State :=
  if getF Reg.Glb.state s = 6 ∧ lightingOver s ∧ getF Reg.Glb.seqRun s = 0 then
    let s := setF Reg.Glb.seqRun 0xF (setF Reg.Glb.ctrlRun 1 s)
    if anyInstalled s then setF Reg.Glb.state 7 s else s
  else s

def execLightingEnd (s : State) : Host.Outcome State Fault Refusal := .next (lightingEnd s)

/-! ### Cores (R34, R36) -/

/-- MGMT_CORE_RESTART: the arbiter holds new requests, and a load in progress ends; `applied` sections had been put in
force (R269). -/
def mgmtRestart (applied : Nat) (s : State) : State :=
  if isSet Reg.Glb.mgmtFwRun s then loadRestarted applied (setF Reg.Glb.arbHold 1 (setF Reg.Glb.mgmtFwRun 0 s)) else s

def execMgmtCoreRestart (applied : Nat) (s : State) : Host.Outcome State Fault Refusal := .next (mgmtRestart applied s)

/-- MANAGEMENT_FIRMWARE_RUNS_AGAIN: grants resume, and held mailbox and ENS requests are answered. -/
def mgmtAgain (s : State) : State :=
  if isSet Reg.Glb.mgmtFwRun s ∨ getF Reg.Glb.state s = 0 then s
  else
    let s := boxResume (arbitrate (setF Reg.Glb.arbHold 0 (setF Reg.Glb.mgmtFwRun 1 s)))
    match s.ens.held with
    | some i => loadNow i (updEns (fun e => { e with held := none }) s)
    | none => s

def execManagementFirmwareRunsAgain (s : State) : Host.Outcome State Fault Refusal := .next (mgmtAgain s)

/-- SEQUENCER_HALT: the cores of a mask halt; the control plane runs while one of them does (Table 1-6). -/
def seqHalt (mask : BitVec 4) (s : State) : State :=
  let left := (BitVec.ofNat 4 (getF Reg.Glb.seqRun s) &&& ~~~mask).toNat
  setF Reg.Glb.ctrlRun (if left = 0 then 0 else getF Reg.Glb.ctrlRun s) (setF Reg.Glb.seqRun left s)

def execSequencerHalt (mask : BitVec 4) (s : State) : Host.Outcome State Fault Refusal := .next (seqHalt mask s)

/-- SEQUENCER_CORE_RUNS_AGAIN: where the control plane had stopped, the waves that stopped with it fail and their
sequences are retried (R36). -/
def seqAgain (mask : BitVec 4) (s : State) : State :=
  if ¬ isSet Reg.Glb.imageActive s ∨ mask = 0 ∨ getF Reg.Glb.state s < 6 then s
  else
    let stopped := !(isSet Reg.Glb.ctrlRun s)
    let run := (BitVec.ofNat 4 (getF Reg.Glb.seqRun s) ||| mask).toNat
    let s := setF Reg.Glb.ctrlRun 1 (setF Reg.Glb.seqRun run s)
    if stopped then failAll Config.haltCause s else s

def execSequencerCoreRunsAgain (mask : BitVec 4) (s : State) : Host.Outcome State Fault Refusal := .next (seqAgain mask s)

/-- CRYSTAL_STOP: every domain that the 47 MHz crystal feeds stops, MCLK included (R439). -/
def crystalStop (s : State) : State := { s with pins := { s.pins with crystal := false } }

def execCrystalStop (s : State) : Host.Outcome State Fault Refusal := .next (crystalStop s)

end Sys2Proof.Machine
end

