-- ==== Sys2Proof/Machine/Faults.lean ====
section
/-! DEFINITION. Scrubbing, the fault queue's reading side and the lifetime record's copies (R416 to R423). -/

namespace Sys2Proof.Machine
open Sys2Proof

/-- SCRUB_PASS: the pass of a slice corrected `n` words and met lines that it could not correct. -/
def scrubPass (slice n : Nat) (bad : List (Nat × LineHolds)) (s : State) : State :=
  if holds (.scrub slice) s then
    let s := if n = 0 then s else correctedWord slice n s
    let s := bad.foldl (fun s l => if sliceOf l.1 = slice ∧ ¬ isPoisoned l.1 s then poisonLine l.1 l.2 none s else s) s
    releaseAct (.scrub slice) s
  else s

def execScrubPass (slice : SliceIx) (n : Nat) (bad : List (Nat × LineHolds)) (s : State) : Host.Outcome State Fault Refusal :=
  .next (scrubPass slice.toNat n bad s)

/-- GLB_FLTPOP: the oldest entry leaves the queue (R418). -/
def fltPop (s : State) : State := { s with flt := { s.flt with queue := s.flt.queue.drop 1 } }

def execGlbFltpop (s : State) : Host.Outcome State Fault Refusal := .next (fltPop s)

/-- Write the next copy of the lifetime record in rotation. -/
def writeCopy (s : State) : State :=
  let n := s.flt.snapshots + 1
  { s with flt := { s.flt with
      snapshots := n, lastSnapshot := now s, copies := SMap.set dfltCopy s.flt.copies (n % 16) ⟨n, s.flt.life, true⟩ } }

/-- LIFETIME_SNAPSHOT: every hour of LTIME the snapshot asks for its grant; with the grant the copy is written (R421). -/
def lifetimeSnapshot (s : State) : State :=
  if ¬ isSet Reg.Glb.mgmtFwRun s then s
  else if holds .snapshot s then releaseAct .snapshot (writeCopy s)
  else if s.flt.lastSnapshot + ticksS 3600 ≤ now s then requestAct .snapshot s
  else s

def execLifetimeSnapshot (s : State) : Host.Outcome State Fault Refusal := .next (lifetimeSnapshot s)

/-- A byte of a copy from 0x10 on: of the count whose field it lies in. -/
def countByte (c : LifeCopy) (o : Nat) : Byte :=
  let f := lifeField o
  BitVec.ofNat 8 (SMap.get dfltZero c.counts f.1 / 256 ^ (o - f.1))

/-- A byte of the newest valid copy (Table 17-4); nothing lies beyond 0x5FFF. -/
def copyByte (c : LifeCopy) (o : Nat) : Byte :=
  if 0x6000 ≤ o then 0
  else if 16 ≤ o ∨ o = 6 ∨ o = 7 then countByte c o
  else if o < 4 then BitVec.ofNat 8 (0x4C494645 / 256 ^ o)
  else if o = 4 then 1
  else if o = 5 then 0
  else if o < 12 then BitVec.ofNat 8 (c.number / 256 ^ (o - 8))
  else BitVec.ofNat 8 (crc32c ((List.range 0x5FF0).map fun i => countByte c (i + 16)) / 256 ^ (o - 12))

/-- Bytes of the newest valid copy; with none every byte reads 0. -/
def lifeBytes (o n : Nat) (s : State) : List Byte :=
  (List.range n).map fun i => match newestCopy s with | some c => copyByte c (o + i) | none => 0

/-- LIF_READ over I3C (R423). -/
def lifRead (o : BitVec 16) (n : Nat) (s : State) : State := { s with answer := .bytes (lifeBytes o.toNat n s) }

def execLifRead (o : BitVec 16) (n : Nat) (s : State) : Host.Outcome State Fault Refusal :=
  if n = 0 ∨ 256 < n then .fault .badLength else .next (lifRead o n s)

end Sys2Proof.Machine
end

