-- ==== Sys2Proof/Machine/Pairs.lean ====
section
/-! DEFINITION. The 64-bit pairs of Table 18-3 by offset. -/

namespace Sys2Proof.Machine
open Sys2Proof

/-- The pair whose LO half lies at an offset, of the register file (Table 18-3). -/
def pairAt (off : Nat) : Option FieldSpec := (fieldsAt off).find? fun r => r.field.w = 64

/-- The LO half of a pair that the part computes (Table 18-3). -/
def computedPair (off : Nat) : Bool := off = 0x60 || off = 0x18C || off = pwrBase + 0x808

/-- The LO half of a streamer queue's data (R344). -/
def sqDataLo (off : Nat) : Bool := (locate off).1 = .sq && off % 0x100 = 0x10

/-- The LO half of a pair. -/
def isPairLo (off : Nat) : Bool := (pairAt off).isSome || computedPair off || sqDataLo off

/-- The pair is one that can be written. -/
def pairWritable (r : FieldSpec) : Bool := match r.acc with | .ro => false | _ => true

/-- The offset of a pair's HI half that can be written. -/
def isPairHi (off : Nat) : Bool := match pairAt (off - 4) with | some f => pairWritable f | none => false

end Sys2Proof.Machine
end

