-- ==== Sys2Proof/Machine/Views.lean ====
section
/-! DEFINITION. What a register reads: its fields in the register file, and the registers whose content follows from
other state (chapters 08 to 18). -/

namespace Sys2Proof.Machine
open Sys2Proof

/-! ### Clock domains and reach of an offset (Table 18-1) -/

/-- The management window: the GLB window, CXL page 0, the MSI-X table, LIF and the MTR mailbox (R311). -/
def inWindow (off : Nat) : Bool :=
  off < 0x10000 || (0x60000 ≤ off && off < 0x61000) || (0x6F000 ≤ off && off < 0x70000) || (0x90000 ≤ off && off < 0xB0000)

/-- Offsets outside every block window: the ring root answers them (R427). -/
def rootOnly (off : Nat) : Bool := (0xB0000 ≤ off && off < 0x1000000) || 0x3000000 ≤ off

/-- Registers in the MCLK domain (Table 18-1). -/
def inMclk (off : Nat) : Bool :=
  off < 0x10000 || (0x40000 ≤ off && off < 0x50000) || (0x80800 ≤ off && off < 0xB0000)

/-- The clock, by its bit of GLB_CLKPRESENT, that an access crosses into; none for MCLK, for the management window
(R338) and for what the root answers itself. -/
def accessClock (off : Nat) : Option Nat :=
  if inWindow off || rootOnly off || inMclk off then none
  else if off < 0x60000 then some 8
  else if off < 0x70000 then some 9
  else if off < 0x80800 then some 8
  else some ((off - 0x1000000) / 0x400000)

/-- The accesses that the root holds for a requester. -/
def reqOf (r : Nat) (s : State) : ReqPort := SMap.get dfltReq s.cfg.reqs r
def updReq (r : Nat) (f : ReqPort → ReqPort) (s : State) : State := updCfg (fun c => { c with reqs := SMap.upd dfltReq c.reqs r f }) s

/-! ### Registers with computed content -/

/-- Set bits of a list of numbers. -/
def bitsOf (l : List Nat) : Nat := (l.eraseDups.map fun n => 2 ^ n).sum

/-- Resources that waiting requests name (R375). -/
def waitingRes (s : State) : List Nat := s.mnt.waiting.flatMap fun r => (actRes r.act s).getD []

/-- MNT_WAITSLICE: bit i for slice i. -/
def waitSlices (s : State) : Nat := bitsOf ((waitingRes s).filterMap fun x => if 600 ≤ x ∧ x < 664 then some (x - 600) else none)

/-- MNT_WAITPORT: bits 19:0 for the ports, bit 20 for the CXL path. -/
def waitPorts (s : State) : Nat := bitsOf ((waitingRes s).filterMap fun x => if 700 ≤ x ∧ x ≤ 720 then some (x - 700) else none)

/-- MNT_STAT (Table 14-16). -/
def mntStat (s : State) : Nat :=
  getF Reg.Glb.arbHold s * 2 ^ 31 + (if lp s = 0 then 0 else 2 ^ 30) +
    (if s.mnt.waiting.any fun r => r.act = .snapshot then 2 ^ 29 else 0) +
    min 511 s.mnt.granted.length * 2 ^ 20 + min 1023 s.mnt.waiting.length * 2 ^ 10 + min 1023 (claims s / 250)

/-- Blocks in the directory by tier: a moving block counts where it comes from. -/
def tierCount (t : BlockState) (s : State) : Nat :=
  (s.kv.dir.filter fun b => b.state = t ∨ (b.state = .moving ∧ b.src = t)).length

/-- Requesters with an access outstanding outside the management window, and those whose target clock is absent (Table
13-9). -/
def ringStat (s : State) : Nat :=
  let out := (List.range 4).filter fun r => !(reqOf r s).queue.isEmpty
  let stopped := out.filter fun r => match (reqOf r s).queue.head? with
    | some a => (match accessClock a.off with | some b => !clockPresent b s | none => false)
    | none => false
  bitsOf out * 2 ^ 28 + bitsOf stopped * 2 ^ 24

/-- GLB_RINGTGT: the oldest outstanding access of a requester. -/
def ringTarget (r : Nat) (s : State) : Nat :=
  match (reqOf r s).queue.head? with | some a => (if a.write then 2 ^ 31 else 0) + a.off | none => 0

/-- The oldest entry of the fault queue, word by word (Table 17-7). -/
def faultData (i : Nat) (s : State) : Nat :=
  match s.flt.queue.head? with
  | none => 0
  | some e =>
    if i = 0 then e.src % 65536 * 65536 + e.code % 65536 else if i = 1 then e.ltime % 2 ^ 32
    else if i = 2 then e.ltime / 2 ^ 32 % 2 ^ 32 else if i = 3 then e.detail % 2 ^ 32 else e.count

/-- Four bytes of a list as a register. -/
def wordOf (l : List Byte) (i : Nat) : Nat := ofLe ((l.drop (4 * i)).take 4)

/-- Registers of an epoch slot (Table 9-15): NUM, STATE, LIVE, PROG. -/
def epSlotWord (n k : Nat) (s : State) : Nat :=
  let r := slotRec n s
  let code := match r.state with | .empty => 0 | .installing => 1 | .installed => 2 | .dormant => 3 | .failed => 4
  let current := isHead s && decide (r.state = .installed) && decide (r.num = getF (Reg.Wgt.epoch.at wgtBase) s) && decide (r.num ≠ 0)
  if k = 0 then r.num
  else if k = 1 then code + (if r.arrays = 0 then 0 else 16) + (if r.tiles then 32 else 0) + (if current then 64 else 0)
  else if k = 2 then (if isHead s then min 65535 (epochLive r.num s) else 0)
  else r.arrays % 65536 * 65536 + r.readBack % 65536

/-- A word of the route entry of the selected position (Table 11-8). -/
def routeWord (i : Nat) (s : State) : Nat :=
  match (routes s)[getF (Reg.Lnk.routeSel.at lnkBase) s]? with
  | none => 0
  | some e =>
    let l := leBytes 2 e.dpod ++ leBytes 1 e.direct ++ leBytes 1 (e.nrel % 4 + e.upmask % 16 * 16) ++
      (List.range 3).flatMap (fun k => leBytes 1 ((e.relay[k]?).getD 0)) ++ leBytes 1 0 ++
      (List.range 4).flatMap (fun k => leBytes 1 ((e.weights[k]?).getD 0)) ++ leBytes 2 e.alt ++ leBytes 2 0
    wordOf l i

/-- CAL_WINDATA: the calibration store's pair for the selected array and column (Table 3-13). -/
def calWindow (p : Nat) (s : State) : Nat :=
  let w := getF (pntF Reg.Pnt.calWinAddr p) s
  let a := p * 16 + w / 1024
  let col := w % 1024
  if 535 < col then 0
  else
    let m := (arrOf a s).cal.vals
    let conv := convOf col (standinOf a s)
    (calG a col conv m).toNat % 65536 * 65536 + (calO a col conv m % 4096).toNat

/-- BNT_STAT: states and references of a tile's banks (Table 6-8). -/
def bntStat (t : Nat) (s : State) : Nat :=
  let code := fun (b : Nat) => match (SMap.get dfltBank s.banks (2 * t + b)).state with | .empty => 0 | .loading => 1 | .ready => 2
  code 1 * 2 ^ 28 + code 0 * 2 ^ 24 + bankRefs t true s % 8 * 2 ^ 20 + bankRefs t false s % 8 * 2 ^ 16

/-- BNT_TAG (Table 6-9). -/
def bntTag (t b : Nat) (s : State) : Nat :=
  let k := SMap.get dfltBank s.banks (2 * t + b)
  k.ten % 4096 * 2 ^ 20 + k.kind % 4 * 2 ^ 18 + k.version % 65536

/-- The array that an activity works for (PNT_STAT.WAITING). -/
def actArray : MntAct → Option Nat
  | .spareProg a => some a
  | .touchUp a => some a
  | .repair a => some a
  | .diag a => some a
  | .readback a => some a
  | .startup a => some a
  | .install a => some a
  | _ => none

/-- What a register of a window holds beside its fields in the register file, where the part computes it; none for a
register without such content. `o` is the offset in the window, `i` the number of the window's instance. -/
def computed (b : Blk) (i o : Nat) (s : State) : Option Nat :=
  match b with
  | .glb =>
    if o = 0x4C then some (ringStat s)
    else if o = 0x60 then some (now s % 2 ^ 32)
    else if o = 0x64 then some (now s / 2 ^ 32)
    else if 0x70 ≤ o ∧ o < 0x80 then some (ringTarget ((o - 0x70) / 4) s)
    else if o = 0x180 then some ((if s.flt.queue.isEmpty then 0 else 2 ^ 31) + s.flt.queue.length % 128 * 2 ^ 16)
    else if 0x188 ≤ o ∧ o ≤ 0x198 then some (faultData ((o - 0x188) / 4) s)
    else if 0x220 ≤ o ∧ o < 0x240 then some (wordOf (s.sec.nonce.getD []) ((o - 0x220) / 4))
    else if 0x400 ≤ o ∧ o < 0x500 then some (ofLe (takeBytes 4 (o - 0x400) s.sec.xfer))
    else if 0x800 ≤ o then some (wordOf s.sec.win ((o - 0x800) / 4))
    else none
  | .sch => if o = 4 then some ((if s.cfg.shadows.isEmpty then 0 else 2 ^ 31) + s.cfg.commits.length % 32 * 2 ^ 16) else none
  | .kvc =>
    if o = 0x20 then some (hotFree s % 65536)
    else if o = 0x24 then some (tierCount .lent s % 2 ^ 32)
    else if o = 0x28 then some (tierCount .cxl s % 2 ^ 32)
    else none
  | .wgt =>
    if 0x40 ≤ o ∧ o < 0x80 then some (epSlotWord ((o - 0x40) / 16) (o / 4 % 4) s)
    else if o = 0xC4 then some ((arrOf (getF (Reg.Wgt.arrSel.at wgtBase) s) s).age * 65536 / Config.ageUnit % 2 ^ 32)
    else if o = 0xC8 then some (pgmCycles (getF (Reg.Wgt.arrSel.at wgtBase) s) s)
    else none
  | .pwr =>
    if o = 0 then some (bitsOf s.pwr.pg)
    else if o = 8 then some (ratF32 (meanUw s) 1000000)
    else if o = 0xC then some (s.pwr.vin10mV % 65536)
    else if o = 0x18 then some (min 4095 (s.pwr.excess / 1000000))
    else if o = 0x1C then some s.pwr.rthBits
    else if 0x480 ≤ o ∧ o < 0x4A0 then some (max (getF (Reg.Pwr.regLth.at (pwrBase + (o - 0x480))) s) (lp s) * 4096)
    else if o = 0x804 then some (mntStat s)
    else if o = 0x808 then some (waitSlices s % 2 ^ 32)
    else if o = 0x80C then some (waitSlices s / 2 ^ 32)
    else if o = 0x810 then some (waitPorts s)
    else none
  | .lnk => if 0x18 ≤ o ∧ o < 0x28 then some (routeWord ((o - 0x18) / 4) s) else none
  | .cxl => if o = 4 then some (if s.host.held.isEmpty then 0 else 2 ^ 18) else none
  | .bell =>
    if o = 4 then some (getF (Reg.Ring.head.at (ringBase i)) s) else if o = 8 then some (getF (Reg.Ring.tail.at (ringBase i)) s) else none
  | .sq => if o = 4 then some ((sqOf i s).length * 2 ^ 16 + sqReady (sqOf i s) * 2 ^ 8) else if o = 0x10 then some 0 else none
  | .dlk =>
    if o = 0x18 then
      let k := getF (Reg.Dlk.snapSel.at dlkBase) s
      some ((((s.sync.snapshot[k / 4]?).getD [])[k % 4]?).getD 0)
    else none
  | .mtr => if 0x1000 ≤ o ∧ o < 0x2000 then some (wordOf s.mtr.win ((o - 0x1000) / 4)) else none
  | .pnt =>
    if o = 0x224 then some (calWindow i s)
    else if 0x80 ≤ o ∧ o < 0xC0 then
      some (if s.mnt.waiting.any (fun r => actArray r.act == some (i * 16 + (o - 0x80) / 4)) then 2 ^ 11 else 0)
    else none
  | .bnt => if o = 0 then some (bntStat i s) else if o = 8 then some (bntTag i 0 s) else if o = 0xC then some (bntTag i 1 s) else none
  | .ring => none
  | .port => none
  | .flg => none
  | .hoist => none
  | .vec => none
  | .none => none

/-- The part's own registers that lie at an offset: a field, a pair's half or computed content. -/
def assigned (off : Nat) (s : State) : Bool :=
  let l := locate off
  !(fieldsAt off).isEmpty || (pairAt (off - 4)).isSome || (computed l.1 l.2.1 (off - l.2.2) s).isSome

/-- The word that the fields of the register file spell at an offset. -/
def fieldWord (off : Nat) (s : State) : Nat :=
  ((fieldsAt off).map fun r => if r.field.w = 64 then getF r.field s % 2 ^ 32 else getF r.field s * 2 ^ r.field.lo).sum +
    (match pairAt (off - 4) with | some r => getF r.field s / 2 ^ 32 | none => 0)

/-- An MSI-X table register: the vector control word follows the masks, bit 0 set while masked (R324). -/
def msixWord (off : Nat) (s : State) : Nat :=
  let k := (off - 0x6F000) / 4
  if k % 4 = 3 then (if s.host.unmasked.contains (k / 4) then 0 else 1) else SMap.get dfltZero s.host.msixTable k

/-- The value of a register as a read finds it, without the read's side effects: fields, computed content, the MSI-X
table and pending bits and the lifetime window. A field that is only written reads 0 (R12). -/
def registerWord (off : Nat) (s : State) : Nat :=
  if 0x6F000 ≤ off ∧ off < 0x70000 then msixWord off s
  else if 0x60F00 ≤ off ∧ off < 0x60F20 then
    bitsOf (s.host.msixPending.filterMap fun v => if v / 32 = (off - 0x60F00) / 4 then some (v % 32) else none)
  else if 0x90000 ≤ off ∧ off < 0xA0000 then ofLe (lifeBytes (off - 0x90000) 4 s)
  else
    let l := locate off
    fieldWord off s + (computed l.1 l.2.1 (off - l.2.2) s).getD 0

end Sys2Proof.Machine
end

