-- ==== Sys2Proof/Machine/Registers.lean ====
section
/-! DEFINITION. Register accesses through the register ring: reach, access sizes, access codes, pairs, hung accesses and
their abort (R10 to R12, R274 to R281, R311, R337 to R342, R410, R426 to R431). -/

namespace Sys2Proof.Machine
open Sys2Proof

/-! ### Writes of fields -/

/-- The condition of Table 10-9 (and of Tables 12-8 and 12-12) that freezes a field, at the field's own instance. -/
def frozenNow (z : Frozen) (off : Nat) (s : State) : Bool :=
  let l := locate off
  let hoist := if l.1 = .pnt then l.2.1 / 16 else l.2.1
  match z with
  | .never => false
  | .convEn => convOn hoist s
  | .imageActive => isSet Reg.Glb.imageActive s
  | .bank0 => getF (pntF Reg.Pnt.tbank l.2.1) s = 0
  | .bank1 => getF (pntF Reg.Pnt.tbank l.2.1) s = 1
  | .watchEn => isSet (pntF Reg.Pnt.wEn l.2.1) s
  | .cxlBlocks => tierCount .cxl s ≠ 0
  | .cxlEn => isSet (Reg.Kvc.cxlEn.at kvcBase) s
  | .wgtBusy => isSet (Reg.Wgt.busy.at wgtBase) s
  | .ensBusy => getF Reg.Glb.ensState s = 1 || getF Reg.Glb.ensState s = 2 || isSet Reg.Glb.ensAmend s
  | .ringEn => isSet (Reg.Ring.en.at (ringBase l.2.1)) s
  | .imageEver => s.cfg.imageEver

/-- A value after its clamp, which is counted with the register's offset (R281). -/
def clampFor (r : FieldSpec) (v : Nat) (s : State) : Nat × State :=
  let w := applyClamp r.clamp (locate r.field.off).2.1 v
  (w, if w = v then s else countClamp r.field.off s)

/-- Put a value into the shadow of a step-latched field (R275). -/
def setShadow (key v : Nat) (s : State) : State := updCfg (fun c => { c with shadows := SMap.put key v c.shadows }) s

/-- What a write of `v` does to one field by its access code (Table 0-8); whether the field refused it as frozen. `s0`
is the state in which the write arrived. -/
def writeField (s0 : State) (v : Nat) (r : FieldSpec) (s : State) : State × Bool :=
  let old := getF r.field s
  match r.acc with
  | .ro => (s, false)
  | .own => (s, false)
  | .rw => let c := clampFor r v s; (setF r.field c.1 c.2, false)
  | .rwl => let c := clampFor r v s; (setF r.field c.1 c.2, false)
  | .w1c => (setF r.field (old - (old &&& v)) s, false)
  | .rws => let c := clampFor r v s; (setShadow r.field.key c.1 c.2, false)
  | .rwf =>
    if v = old then (s, false)
    else if frozenNow r.frz r.field.off s0 then (s, true)
    else let c := clampFor r v s; (setF r.field c.1 c.2, false)

/-- The 32-bit write of every field of a register; one count for all frozen fields it would change (R277). -/
def writeFields (off w : Nat) (s : State) : State :=
  let t := (fieldsAt off).foldl (fun (a : State × Bool) r =>
    let x := writeField s (w / 2 ^ r.field.lo % 2 ^ r.field.w) r a.1
    (x.1, a.2 || x.2)) (s, false)
  if t.2 then countIgnored off t.1 else t.1

/-! ### What a write starts -/

/-- Operation codes that a command register defines, by the offset of the register (Tables 9-11, 10-13, 11-14, 15-7,
16-9). -/
def opCodes (off : Nat) : Option Nat :=
  if off = 0x10C then some 3 else if off = 0x204 then some 8 else if off = wgtBase + 4 then some 5
  else if off = lnkBase + 0xC then some 3 else if off = mtrBase then some 4 else none

/-- A WO operation code that is not defined is ignored and counted (R278). The defined ones are rows of their own. -/
def opCheck (off w : Nat) (s : State) : State :=
  match opCodes off with
  | some n => if 1 ≤ w / 2 ^ 28 ∧ w / 2 ^ 28 ≤ n then s else countIgnored off s
  | none => s

/-- A reference source was changed: SETTLED clears and the monitor begins anew (R78). -/
def sourceChanged (h : Nat) (s : State) : State := setF (hoistF Reg.Hoist.refSettled h) 0 (setHoist h ⟨[], 0⟩ s)

/-- EN of the norm watch has set: warm-up begins (R141). -/
def watchStarts (p : Nat) (s : State) : State :=
  setF (pntF Reg.Pnt.wsWarm p) 1 (updPnt p (fun r => { r with warmSeen := 0 }) s)

/-- Waiting requests are tried for age again, and the arbiter evaluates (R373). -/
def ageAll (s : State) : State := arbitrate ((s.mnt.waiting.map fun r => r.act).foldl (fun s m => ageReq m s) s)

/-- What follows from the fields a register write has changed; `s` is the state before it, `t` after. -/
def afterWrite (off : Nat) (s t : State) : State :=
  let l := locate off
  let o := off - l.2.2
  match l.1 with
  | .glb => if o = 0x44 ∧ isSet Reg.Glb.halValid s ∧ ¬ isSet Reg.Glb.halValid t then setF Reg.Glb.halMore 0 t else t
  | .hoist =>
    if o = 0x100 ∧ ¬ getF (hoistF Reg.Hoist.refSrc l.2.1) s = getF (hoistF Reg.Hoist.refSrc l.2.1) t then sourceChanged l.2.1 t else t
  | .pnt =>
    if o = 0x240 ∧ ¬ isSet (pntF Reg.Pnt.wEn l.2.1) s ∧ isSet (pntF Reg.Pnt.wEn l.2.1) t then watchStarts l.2.1 t else t
  | .pwr =>
    if o = 0x14 then updPwr (fun p => { p with coolantAt := some (now t) }) t
    else if o = 0x800 then ageAll t
    else t
  | _ => t

/-- A 32-bit write of the MSI-X table; unmasking a pending vector sends it once the function mask is clear (R324). -/
def msixWrite (off w : Nat) (s : State) : State :=
  let k := (off - 0x6F000) / 4
  if k % 4 = 3 then
    let v := k / 4
    if w % 2 = 1 then { s with host := { s.host with unmasked := s.host.unmasked.filter fun x => ¬ x = v } }
    else
      let s := { s with host := { s.host with unmasked := if v ∈ s.host.unmasked then s.host.unmasked else v :: s.host.unmasked } }
      if v ∈ s.host.msixPending ∧ ¬ s.host.funcMask then
        signal v { s with host := { s.host with msixPending := s.host.msixPending.filter fun x => ¬ x = v } }
      else s
  else { s with host := { s.host with msixTable := SMap.set dfltZero s.host.msixTable k (w % 2 ^ 32) } }

/-! ### Pairs (R430, R431) -/

/-- A write of a LO half goes to the requester's hold. -/
def holdLo (r off w : Nat) (s : State) : State :=
  updReq r (fun p => { p with holds := SMap.set dfltNone p.holds off (some w) }) s

/-- A write of a HI half: the held LO, or the LO in force, and the HI apply as one 64-bit write; the hold empties. -/
def applyPair (r : Nat) (f : FieldSpec) (hi : Nat) (s : State) : State :=
  let old := getF f.field s
  let lo := (SMap.get dfltNone (reqOf r s).holds f.field.off).getD (old % 2 ^ 32)
  let v := lo + hi * 2 ^ 32
  let s := updReq r (fun p => { p with holds := SMap.set dfltNone p.holds f.field.off none }) s
  let x := writeField s v f s
  if x.2 then countIgnored (f.field.off + 4) x.1 else x.1

/-- A 64-bit value whose LO half lies at an offset: of the register file, or computed. -/
def pairValue (off : Nat) (s : State) : Nat :=
  match pairAt off with
  | some r => getF r.field s
  | none => registerWord off s + registerWord (off + 4) s * 2 ^ 32

/-- A read of a LO half: all 64 bits in one sample, the high word into the requester's latch. -/
def readLo (r off : Nat) (s : State) : State :=
  if sqDataLo off then sqDataRead (off / 0x100 % 0x40) s
  else
    let v := pairValue off s
    { updReq r (fun p => { p with latches := SMap.set dfltZero p.latches off (v / 2 ^ 32) }) s with answer := .value (v % 2 ^ 32) }

/-! ### One access -/

/-- A 32-bit write at its register (R427, R428). -/
def writeWord (r off w : Nat) (s : State) : State :=
  if 0x6F000 ≤ off ∧ off < 0x70000 then msixWrite off w s
  else
    match pairAt off, pairAt (off - 4) with
    | some f, _ => if pairWritable f then holdLo r off w s else s
    | none, some f => if pairWritable f then applyPair r f w s else s
    | none, none => afterWrite off s (opCheck off w (writeFields off w s))

/-- The windows that take accesses of 1 to 64 bytes (R428). -/
def byteWindow (off : Nat) : Bool :=
  (0x400 ≤ off && off < 0x500) || (0x800 ≤ off && off < 0x1000) || (0x90000 ≤ off && off < 0xA0000) ||
    (0xA1000 ≤ off && off < 0xA2000)

/-- A write into one of those windows: only SEC_XFER takes it; LIF ignores it uncounted (R423). -/
def writeWindow (off n v : Nat) (s : State) : State :=
  if 0x90000 ≤ off ∧ off < 0xA0000 then s
  else if n = 0 ∨ 64 < off % 64 + n then countIgnored off s
  else if off < 0x500 then { s with sec := { s.sec with xfer := putBytes (off - 0x400) (leBytes n v) s.sec.xfer } }
  else s

/-- A write performed at its target (R428). -/
def performWrite (r off n v : Nat) (s : State) : State :=
  if byteWindow off then writeWindow off n v s
  else if n = 4 ∧ off % 4 = 0 then writeWord r off (v % 2 ^ 32) s
  else if n = 8 ∧ off % 8 = 0 then writeWord r (off + 4) (v / 2 ^ 32 % 2 ^ 32) (writeWord r off (v % 2 ^ 32) s)
  else if off % 8 + n ≤ 8 ∧ ¬ assigned (off / 4 * 4) s ∧ ¬ (0x6F000 ≤ off ∧ off < 0x70000) then s
  else countIgnored off s

/-- An access performed at its target. -/
def perform (r : Nat) (a : RegAccess) (s : State) : State :=
  if a.write then performWrite r a.off a.size a.value s else readLo r a.off s

/-! ### Reach and waiting -/

/-- The ring carries accesses: the part is not held in reset, and its crystal runs (R446, R333). -/
def ringRuns (s : State) : Bool := s.pins.resetN && s.pins.crystal

/-- A requester reaches an offset (R311, R426): 0 the host, 1 the management core, 2 the board controller, 3 JTAG. -/
def reaches (r off : Nat) (s : State) : Bool :=
  if r = 0 then inWindow off || hostReach s
  else if r = 1 then true
  else if r = 2 then inMclk off || isSet Reg.Glb.imageActive s
  else inWindow off || isSet Reg.Glb.secDebug s

/-- The crossing that an access takes is open: the clock is present and both sides are in RUN (R339, R340). -/
def crossingOpen (off : Nat) (s : State) : Bool :=
  match accessClock off with
  | some b => clockPresent b s && decide ((crossingOf b s).near = .run) && decide ((crossingOf b s).far = .run)
  | none => true

/-- Put an access behind the requester's others. -/
def enqueue (r : Nat) (a : RegAccess) (s : State) : State := updReq r (fun p => { p with queue := p.queue ++ [a] }) s

/-- An access that the ring takes: what the root serves itself never waits (R338, R427); any other waits behind the
requester's held accesses, or for its crossing (R340, R429). -/
def takeAccess (r : Nat) (a : RegAccess) (s : State) : State :=
  if inWindow a.off || rootOnly a.off then perform r a s
  else if (reqOf r s).queue.isEmpty && crossingOpen a.off s then perform r a s
  else enqueue r a s

/-- A register access arrives. Outside the requester's reach the root answers: a read returns 0, a write is discarded
uncounted. A first parity failure is repeated and counted; a second one returns 0xFFFF_FFFF or discards the write, and is reported
(R409, R410). Behind 16 held
writes of the host its further posted writes wait in the CXL controller (Table 13-4). -/
def regAccess (r : Nat) (a : RegAccess) (par : Parity) (s : State) : State :=
  if ¬ ringRuns s then s
  else if ¬ reaches r a.off s then (if a.write then s else { s with answer := .value 0 })
  else if par = .badTwice then
    report 0x0017 r 0 (domUncorrected 11 1 (if a.write then s else { s with answer := .value 0xFFFFFFFF }))
  else
    let s := if par = .badOnce then domCorrected 11 1 s else s
    if a.write ∧ r = 0 ∧ hostStalled s then updCfg (fun c => { c with posted := c.posted ++ [.reg a.off a.size a.value] }) s
    else takeAccess r a s

/-- Perform a requester's held accesses in order, as far as their crossings are open. -/
def drainHeld (r : Nat) : List RegAccess → State → State
  | [], s => updReq r (fun p => { p with queue := [] }) s
  | a :: l, s => if crossingOpen a.off s then drainHeld r l (perform r a s) else updReq r (fun p => { p with queue := a :: l }) s

/-- One waiting posted write of the host. -/
def takePosted (p : Posted) (s : State) : State :=
  match p with
  | .bell n v => doorbellNow n v s
  | .bar2 off l => bar2WriteNow off l s
  | .reg off n v => takeAccess 0 ⟨true, off, n, v⟩ s

/-- The host's waiting posted writes go on in order while fewer than 16 are held (Table 13-4). -/
def drainPosted : List Posted → State → State
  | [], s => updCfg (fun c => { c with posted := [] }) s
  | p :: l, s => if hostStalled s then updCfg (fun c => { c with posted := p :: l }) s else drainPosted l (takePosted p s)

/-- The accesses of a requester go on. -/
def resumeHeld (r : Nat) (s : State) : State :=
  let s := drainHeld r (reqOf r s).queue s
  if r = 0 then drainPosted s.cfg.posted s else s

/-! ### The commands -/

/-- REGISTER_WRITE: `size` bytes at an offset of BAR0, by one requester. Fields whose write is a command of its own are
left to that command. -/
def execRegisterWrite (r : Requester) (off : BitVec 26) (size : BitVec 7) (v : Nat) (par : Parity) (s : State) :
    Host.Outcome State Fault Refusal :=
  if size = 0 ∨ 64 < size.toNat then .fault .badLength
  else .next (regAccess r.toNat ⟨true, off.toNat, size.toNat, v⟩ par s)

/-- PAIR_LO_READ: a read of the LO half of a 64-bit pair. -/
def execPairLoRead (r : Requester) (off : BitVec 26) (par : Parity) (s : State) : Host.Outcome State Fault Refusal :=
  if isPairLo off.toNat then .next (regAccess r.toNat ⟨false, off.toNat, 4, 0⟩ par s) else .fault .noSuchPair

/-- PAIR_HI_WRITE: a 32-bit write of the HI half of a writable pair, by its offset. -/
def execPairHiWrite (r : Requester) (off : BitVec 26) (v : Word) (par : Parity) (s : State) : Host.Outcome State Fault Refusal :=
  if isPairHi off.toNat then .next (regAccess r.toNat ⟨true, off.toNat, 4, v.toNat⟩ par s) else .fault .noSuchPair

/-- HUNG_ACCESS_RESUME: the clock has returned; the requester's waiting accesses complete in order (R340). -/
def hungAccessResume (r : Nat) (s : State) : State := if ringRuns s then resumeHeld r s else s

def execHungAccessResume (r : Requester) (s : State) : Host.Outcome State Fault Refusal := .next (hungAccessResume r.toNat s)

/-- The clock that a requester's oldest outstanding access waits for, where it is absent. -/
def stoppedClock (r : Nat) (s : State) : Option Nat :=
  match (reqOf r s).queue.head? with
  | some a => match accessClock a.off with | some b => if clockPresent b s then none else some b | none => none
  | none => none

/-- Abort the oldest access of a requester, and its held writes to the same domain (R342). -/
def abortRequester (r b : Nat) (s : State) : State :=
  let q := (reqOf r s).queue
  let gone := fun (a : RegAccess) => a.write && accessClock a.off == some b
  let s := match q.head? with
    | some a => if a.write then s else { s with answer := .value 0xFFFFFFFF }
    | none => s
  let left := (q.drop 1).filter fun a => !gone a
  let s := addF Reg.Glb.ringAbortCnt (q.length - left.length) (crossingReset b false s)
  resumeHeld r (updReq r (fun p => { p with queue := left }) s)

/-- One bit of GLB_RINGABORT. -/
def ringAbortBit (r : Nat) (s : State) : State :=
  match stoppedClock r s with | some b => abortRequester r b s | none => countIgnored 0x68 s

/-- GLB_RINGABORT. -/
def glbRingabort (mask : Nat) (s : State) : State :=
  if ringRuns s then ((List.range 4).filter fun r => mask.testBit r).foldl (fun s r => ringAbortBit r s) s else s

def execGlbRingabort (mask : BitVec 4) (s : State) : Host.Outcome State Fault Refusal := .next (glbRingabort mask.toNat s)

end Sys2Proof.Machine
end

