-- ==== Sys2Proof/Machine/Dispatch.lean ====
section
/-! DEFINITION. Dispatch: one arm per command, each one call of its meaning. -/

namespace Sys2Proof.Machine
open Sys2Proof

def exec (i : Instr) (s : State) : Host.Outcome State Fault Refusal :=
  match i with
  | .registerWrite r off size v par => Sys2Proof.Machine.execRegisterWrite r off size v par s
  | .pairLoRead r off par => Sys2Proof.Machine.execPairLoRead r off par s
  | .pairHiWrite r off v par => Sys2Proof.Machine.execPairHiWrite r off v par s
  | .hungAccessResume r => Sys2Proof.Machine.execHungAccessResume r s
  | .glbRingabort mask => Sys2Proof.Machine.execGlbRingabort mask s
  | .sramAccess port addr op ecc xfer holds ten step => Sys2Proof.Machine.execSramAccess port addr op ecc xfer holds ten step s
  | .bar2Write off bytes => Sys2Proof.Machine.execBar2Write off bytes s
  | .bar2Read off len => Sys2Proof.Machine.execBar2Read off len s
  | .flagRead port addr step => Sys2Proof.Machine.execFlagRead port addr step s
  | .flagSet port addr v step => Sys2Proof.Machine.execFlagSet port addr v step s
  | .flagAdd port addr v step => Sys2Proof.Machine.execFlagAdd port addr v step s
  | .cpost port addr n step => Sys2Proof.Machine.execCpost port addr n step s
  | .ctake port addr n step => Sys2Proof.Machine.execCtake port addr n step s
  | .wait x => Sys2Proof.Machine.execWait x s
  | .waitWake line => Sys2Proof.Machine.execWaitWake line s
  | .waitPoll addr => Sys2Proof.Machine.execWaitPoll addr s
  | .quantiseVector p t segs => Sys2Proof.Machine.execQuantiseVector p t segs s
  | .arrayRead a idle lates res cal => Sys2Proof.Machine.execArrayRead a idle lates res cal s
  | .sliceRetry a lates => Sys2Proof.Machine.execSliceRetry a lates s
  | .suspectWindowEnd a => Sys2Proof.Machine.execSuspectWindowEnd a s
  | .dwellEnd a => Sys2Proof.Machine.execDwellEnd a s
  | .checkStandinStart a => Sys2Proof.Machine.execCheckStandinStart a s
  | .checkStandinEnd a => Sys2Proof.Machine.execCheckStandinEnd a s
  | .outputVector p ecc bad => Sys2Proof.Machine.execOutputVector p ecc bad s
  | .gatedPartnerVector p => Sys2Proof.Machine.execGatedPartnerVector p s
  | .adapterDelta p vid late => Sys2Proof.Machine.execAdapterDelta p vid late s
  | .pntAccselWrite p col => Sys2Proof.Machine.execPntAccselWrite p col s
  | .accSnapshot p => Sys2Proof.Machine.execAccSnapshot p s
  | .pntActdataAccess p v => Sys2Proof.Machine.execPntActdataAccess p v s
  | .watchRestart p => Sys2Proof.Machine.execWatchRestart p s
  | .calForce p => Sys2Proof.Machine.execCalForce p s
  | .convEnable h en => Sys2Proof.Machine.execConvEnable h en s
  | .referenceReading h uv vana => Sys2Proof.Machine.execReferenceReading h uv vana s
  | .delayLineCount a c count => Sys2Proof.Machine.execDelayLineCount a c count s
  | .calibrationCycleEnd a meas lates => Sys2Proof.Machine.execCalibrationCycleEnd a meas lates s
  | .initialCalibrationEnd => Sys2Proof.Machine.execInitialCalibrationEnd s
  | .calibrationAgeLimit a => Sys2Proof.Machine.execCalibrationAgeLimit a s
  | .hoistGateRampDone h vana => Sys2Proof.Machine.execHoistGateRampDone h vana s
  | .maintRequest m => Sys2Proof.Machine.execMaintRequest m s
  | .maintActivityEnd m => Sys2Proof.Machine.execMaintActivityEnd m s
  | .maintAge m => Sys2Proof.Machine.execMaintAge m s
  | .arrayProgramDone a ok => Sys2Proof.Machine.execArrayProgramDone a ok s
  | .relaxEnd a => Sys2Proof.Machine.execRelaxEnd a s
  | .readbackDone a rows ok => Sys2Proof.Machine.execReadbackDone a rows ok s
  | .diagnosticReadDone a ok => Sys2Proof.Machine.execDiagnosticReadDone a ok s
  | .startupCheckDone a ok => Sys2Proof.Machine.execStartupCheckDone a ok s
  | .driftAgeTick => Sys2Proof.Machine.execDriftAgeTick s
  | .scrubPass slice n bad => Sys2Proof.Machine.execScrubPass slice n bad s
  | .lifetimeSnapshot => Sys2Proof.Machine.execLifetimeSnapshot s
  | .promptEntry ring h tokens => Sys2Proof.Machine.execPromptEntry ring h tokens s
  | .stepCompose c => Sys2Proof.Machine.execStepCompose c s
  | .stepPlan src p => Sys2Proof.Machine.execStepPlan src p s
  | .stepBoundary n => Sys2Proof.Machine.execStepBoundary n s
  | .commitIdleApply => Sys2Proof.Machine.execCommitIdleApply s
  | .operationList v n ops flag add => Sys2Proof.Machine.execOperationList v n ops flag add s
  | .buntingVector t step use ten rec segs d ecc => Sys2Proof.Machine.execBuntingVector t step use ten rec segs d ecc s
  | .bankLoadDone t b ok streamed => Sys2Proof.Machine.execBankLoadDone t b ok streamed s
  | .partialRecord src v cid p => Sys2Proof.Machine.execPartialRecord src v cid p s
  | .stepCommit n => Sys2Proof.Machine.execStepCommit n s
  | .stepFail n cause => Sys2Proof.Machine.execStepFail n cause s
  | .stepTimeout n => Sys2Proof.Machine.execStepTimeout n s
  | .headroomStaleTimeout => Sys2Proof.Machine.execHeadroomStaleTimeout s
  | .cxlFetchDone n lslot q blk ok plain => Sys2Proof.Machine.execCxlFetchDone n lslot q blk ok plain s
  | .blockCopyDone owner lslot q blk ok plain => Sys2Proof.Machine.execBlockCopyDone owner lslot q blk ok plain s
  | .idleTimeout q => Sys2Proof.Machine.execIdleTimeout q s
  | .pauseExpiry q others => Sys2Proof.Machine.execPauseExpiry q others s
  | .wgtInstall n => Sys2Proof.Machine.execWgtInstall n s
  | .wgtAttach n => Sys2Proof.Machine.execWgtAttach n s
  | .wgtRelease n => Sys2Proof.Machine.execWgtRelease n s
  | .wgtAbort n => Sys2Proof.Machine.execWgtAbort n s
  | .addSpare a => Sys2Proof.Machine.execAddSpare a s
  | .imageComponentRead n c readable => Sys2Proof.Machine.execImageComponentRead n c readable s
  | .sourceRetry n c readable => Sys2Proof.Machine.execSourceRetry n c readable s
  | .imageComponent src c => Sys2Proof.Machine.execImageComponent src c s
  | .resendRequest pod lslot ix => Sys2Proof.Machine.execResendRequest pod lslot ix s
  | .ensLoad img => Sys2Proof.Machine.execEnsLoad img s
  | .ensDeactivate => Sys2Proof.Machine.execEnsDeactivate s
  | .ensAbort => Sys2Proof.Machine.execEnsAbort s
  | .ensVerifyEnd => Sys2Proof.Machine.execEnsVerifyEnd s
  | .ensApplyEnd bad => Sys2Proof.Machine.execEnsApplyEnd bad s
  | .commitGo discard => Sys2Proof.Machine.execCommitGo discard s
  | .commitGoAt discard => Sys2Proof.Machine.execCommitGoAt discard s
  | .commitDiscard => Sys2Proof.Machine.execCommitDiscard s
  | .flitReceive port f => Sys2Proof.Machine.execFlitReceive port f s
  | .nakResend port => Sys2Proof.Machine.execNakResend port s
  | .linkEnable port => Sys2Proof.Machine.execLinkEnable port s
  | .linkDisable port => Sys2Proof.Machine.execLinkDisable port s
  | .linkRetrain port => Sys2Proof.Machine.execLinkRetrain port s
  | .lightWindow port pwr => Sys2Proof.Machine.execLightWindow port pwr s
  | .lightLowTimeout port => Sys2Proof.Machine.execLightLowTimeout port s
  | .laneLock port => Sys2Proof.Machine.execLaneLock port s
  | .deskew port skew => Sys2Proof.Machine.execDeskew port skew s
  | .fecLock port => Sys2Proof.Machine.execFecLock port s
  | .peerIdentity port pod peer ack creds => Sys2Proof.Machine.execPeerIdentity port pod peer ack creds s
  | .trainingAttemptTimeout port => Sys2Proof.Machine.execTrainingAttemptTimeout port s
  | .downRetry port => Sys2Proof.Machine.execDownRetry port s
  | .laneUnlock port => Sys2Proof.Machine.execLaneUnlock port s
  | .lightInputLoss lin1 w => Sys2Proof.Machine.execLightInputLoss lin1 w s
  | .lightInputReturn lin1 w => Sys2Proof.Machine.execLightInputReturn lin1 w s
  | .activationVectors port m => Sys2Proof.Machine.execActivationVectors port m s
  | .draftProposals src n q l => Sys2Proof.Machine.execDraftProposals src n q l s
  | .peerTierQuery src v step ten lslot q blk head grp lim holder catt qs => Sys2Proof.Machine.execPeerTierQuery src v step ten lslot q blk head grp lim holder catt qs s
  | .blockCopy src lslot q blk u => Sys2Proof.Machine.execBlockCopy src lslot q blk u s
  | .mirroredEntries src n l => Sys2Proof.Machine.execMirroredEntries src n l s
  | .mirroredSequenceRecords src n l => Sys2Proof.Machine.execMirroredSequenceRecords src n l s
  | .commitReady n pos => Sys2Proof.Machine.execCommitReady n pos s
  | .acceptance n l => Sys2Proof.Machine.execAcceptance n l s
  | .commitMessage n lens => Sys2Proof.Machine.execCommitMessage n lens s
  | .abortMessage n => Sys2Proof.Machine.execAbortMessage n s
  | .headroomMessage src pos watts theta rth kappa => Sys2Proof.Machine.execHeadroomMessage src pos watts theta rth kappa s
  | .forwardedEvent src b => Sys2Proof.Machine.execForwardedEvent src b s
  | .mirrorAcknowledgement src n => Sys2Proof.Machine.execMirrorAcknowledgement src n s
  | .heartbeat src => Sys2Proof.Machine.execHeartbeat src s
  | .heartbeatTimer port => Sys2Proof.Machine.execHeartbeatTimer port s
  | .discard src q => Sys2Proof.Machine.execDiscard src q s
  | .routeSwitch src pos => Sys2Proof.Machine.execRouteSwitch src pos s
  | .lossTimeout rep pod => Sys2Proof.Machine.execLossTimeout rep pod s
  | .mirrorRecordWrite ten n => Sys2Proof.Machine.execMirrorRecordWrite ten n s
  | .resyncComplete => Sys2Proof.Machine.execResyncComplete s
  | .reclaim => Sys2Proof.Machine.execReclaim s
  | .lost pod => Sys2Proof.Machine.execLost pod s
  | .handback => Sys2Proof.Machine.execHandback s
  | .handbackDone => Sys2Proof.Machine.execHandbackDone s
  | .ringDoorbell ring v => Sys2Proof.Machine.execRingDoorbell ring v s
  | .tenantSet h a => Sys2Proof.Machine.execTenantSet h a s
  | .classSet h cls prio target => Sys2Proof.Machine.execClassSet h cls prio target s
  | .release h => Sys2Proof.Machine.execRelease h s
  | .pause h ttl => Sys2Proof.Machine.execPause h ttl s
  | .resume h => Sys2Proof.Machine.execResume h s
  | .arrayQueue h a => Sys2Proof.Machine.execArrayQueue h a s
  | .stageCopy h off len readable => Sys2Proof.Machine.execStageCopy h off len readable s
  | .stageCopyDone tagOk ten version plain => Sys2Proof.Machine.execStageCopyDone tagOk ten version plain s
  | .tenantKey h readable rec secret => Sys2Proof.Machine.execTenantKey h readable rec secret s
  | .fence h => Sys2Proof.Machine.execFence h s
  | .undefinedCommand op h => Sys2Proof.Machine.execUndefinedCommand op h s
  | .ringEnableWrite ring en => Sys2Proof.Machine.execRingEnableWrite ring en s
  | .eventQueueDrain => Sys2Proof.Machine.execEventQueueDrain s
  | .coalescingTimeout ring => Sys2Proof.Machine.execCoalescingTimeout ring s
  | .cxlLinkLoss => Sys2Proof.Machine.execCxlLinkLoss s
  | .cxlLinkReturn width fast => Sys2Proof.Machine.execCxlLinkReturn width fast s
  | .uioCompletion u ok => Sys2Proof.Machine.execUioCompletion u ok s
  | .uioTimeout u => Sys2Proof.Machine.execUioTimeout u s
  | .ideIntegrityFailure => Sys2Proof.Machine.execIdeIntegrityFailure s
  | .ideKeyManagement => Sys2Proof.Machine.execIdeKeyManagement s
  | .getMeasurements nonce => Sys2Proof.Machine.execGetMeasurements nonce s
  | .clockAbsenceTimeout clk => Sys2Proof.Machine.execClockAbsenceTimeout clk s
  | .clockPresenceWindow clk edges => Sys2Proof.Machine.execClockPresenceWindow clk edges s
  | .crossingReset clk far => Sys2Proof.Machine.execCrossingReset clk far s
  | .crossingResync clk => Sys2Proof.Machine.execCrossingResync clk s
  | .sqPacketWrite q words => Sys2Proof.Machine.execSqPacketWrite q words s
  | .sqEntrySettle q => Sys2Proof.Machine.execSqEntrySettle q s
  | .sqDataRead q => Sys2Proof.Machine.execSqDataRead q s
  | .sqLevelWrite q v => Sys2Proof.Machine.execSqLevelWrite q v s
  | .sqDrop q => Sys2Proof.Machine.execSqDrop q s
  | .sqFlush q => Sys2Proof.Machine.execSqFlush q s
  | .sqEnableWrite q en => Sys2Proof.Machine.execSqEnableWrite q en s
  | .deadlockFault busy qs => Sys2Proof.Machine.execDeadlockFault busy qs s
  | .deadlockFreezeLift => Sys2Proof.Machine.execDeadlockFreezeLift s
  | .vinRise v => Sys2Proof.Machine.execVinRise v s
  | .vinLoss v => Sys2Proof.Machine.execVinLoss v s
  | .railPowerGood n => Sys2Proof.Machine.execRailPowerGood n s
  | .railFault n => Sys2Proof.Machine.execRailFault n s
  | .droopTrip r => Sys2Proof.Machine.execDroopTrip r s
  | .droopRelease r ns => Sys2Proof.Machine.execDroopRelease r ns s
  | .sensorSample n raw => Sys2Proof.Machine.execSensorSample n raw s
  | .sensorSilentTimeout n => Sys2Proof.Machine.execSensorSilentTimeout n s
  | .sensorFaultClear n => Sys2Proof.Machine.execSensorFaultClear n s
  | .thermalUpdate => Sys2Proof.Machine.execThermalUpdate s
  | .bandFall r => Sys2Proof.Machine.execBandFall r s
  | .powerSample mW mA vin => Sys2Proof.Machine.execPowerSample mW mA vin s
  | .waveLevelUpdate => Sys2Proof.Machine.execWaveLevelUpdate s
  | .waveHoldRelease n => Sys2Proof.Machine.execWaveHoldRelease n s
  | .headroomPublish => Sys2Proof.Machine.execHeadroomPublish s
  | .rthUpdate => Sys2Proof.Machine.execRthUpdate s
  | .meterPowerOn ok => Sys2Proof.Machine.execMeterPowerOn ok s
  | .meterPowerFall openFj => Sys2Proof.Machine.execMeterPowerFall openFj s
  | .activityIntervalClose => Sys2Proof.Machine.execActivityIntervalClose s
  | .counterFrame ok => Sys2Proof.Machine.execCounterFrame ok s
  | .meterSecond fj vDiff iDiff aboveV => Sys2Proof.Machine.execMeterSecond fj vDiff iDiff aboveV s
  | .totalsSave => Sys2Proof.Machine.execTotalsSave s
  | .readRecord i3c chunk => Sys2Proof.Machine.execReadRecord i3c chunk s
  | .readTotals i3c chunk => Sys2Proof.Machine.execReadTotals i3c chunk s
  | .readParams i3c chunk => Sys2Proof.Machine.execReadParams i3c chunk s
  | .readStatus i3c => Sys2Proof.Machine.execReadStatus i3c s
  | .sealNonce => Sys2Proof.Machine.execSealNonce s
  | .sealApply p key sig => Sys2Proof.Machine.execSealApply p key sig s
  | .sealCopyProgrammed ok => Sys2Proof.Machine.execSealCopyProgrammed ok s
  | .sealNonceExpiry => Sys2Proof.Machine.execSealNonceExpiry s
  | .attest => Sys2Proof.Machine.execAttest s
  | .attestReport meterOk => Sys2Proof.Machine.execAttestReport meterOk s
  | .newnonce => Sys2Proof.Machine.execNewnonce s
  | .enroll r slot => Sys2Proof.Machine.execEnroll r slot s
  | .revoke slot => Sys2Proof.Machine.execRevoke slot s
  | .commitSvn => Sys2Proof.Machine.execCommitSvn s
  | .debugUnlock => Sys2Proof.Machine.execDebugUnlock s
  | .revokeFwkey0 => Sys2Proof.Machine.execRevokeFwkey0 s
  | .getCert n => Sys2Proof.Machine.execGetCert n s
  | .glbFltpop => Sys2Proof.Machine.execGlbFltpop s
  | .lifRead o n => Sys2Proof.Machine.execLifRead o n s
  | .resetNAssert => Sys2Proof.Machine.execResetNAssert s
  | .resetNRelease corr ok => Sys2Proof.Machine.execResetNRelease corr ok s
  | .bootRomEnd a b bad => Sys2Proof.Machine.execBootRomEnd a b bad s
  | .podAddressWrite board slot => Sys2Proof.Machine.execPodAddressWrite board slot s
  | .checkingEnd => Sys2Proof.Machine.execCheckingEnd s
  | .lightingEnd => Sys2Proof.Machine.execLightingEnd s
  | .mgmtCoreRestart applied => Sys2Proof.Machine.execMgmtCoreRestart applied s
  | .sequencerHalt mask => Sys2Proof.Machine.execSequencerHalt mask s
  | .flitTime port => Sys2Proof.Machine.execFlitTime port s
  | .railPowerGoodLoss n => Sys2Proof.Machine.execRailPowerGoodLoss n s
  | .crystalStop => Sys2Proof.Machine.execCrystalStop s
  | .managementFirmwareRunsAgain => Sys2Proof.Machine.execManagementFirmwareRunsAgain s
  | .sequencerCoreRunsAgain mask => Sys2Proof.Machine.execSequencerCoreRunsAgain mask s

end Sys2Proof.Machine
end

