-- ==== Sys2Proof/Machine/Step.lean ====
section
/-! DEFINITION. One step: the command at the front of the queue, or an idle tick of LTIME. -/

namespace Sys2Proof.Machine
open Sys2Proof

/-- What happens on an empty queue: LTIME counts one crystal clock while the crystal runs and the part is not held in
reset (R333). -/
def idle (s : State) : State := if ringRuns s then { s with ltime := s.ltime + 1 } else s

/-- One step: take the command at the front of the queue and run it with the queue's rest. -/
def step (s : State) : Host.Outcome State Fault Refusal :=
  match s.pending with
  | [] => .next (idle s)
  | c :: l => exec c { s with pending := l }

/-- The state with the command that a word spells at the front of its queue; the state itself where it spells none. -/
def State.withFetchWord (s : State) (nbits w : Nat) : State :=
  match decodeTableWord nbits w with
  | some c => { s with pending := c :: s.pending }
  | none => s

end Sys2Proof.Machine
end

