-- ==== Sys2Proof/WellFormed.lean ====
section
/-! DEFINITION. Which commands the part can be given: every operand names a unit that the part has, and every length is
one that the command carries. A command that is not well-formed ends in a fault by name. -/

namespace Sys2Proof

/-- The command is one that the part can be given. -/
def wellFormed (i : Instr) : Bool :=
  match i with
  | .registerWrite _ _ size _ _ => decide (0 < size.toNat ∧ size.toNat ≤ 64)
  | .pairLoRead _ off _ => Machine.isPairLo off.toNat
  | .pairHiWrite _ off _ _ => Machine.isPairHi off.toNat
  | .hungAccessResume _ => true
  | .glbRingabort _ => true
  | .sramAccess port addr op _ _ _ _ _ => decide (port ≤ 56) && decide (0 < sramOpLen op ∧ addr % 256 + sramOpLen op ≤ 256)
  | .bar2Write _ bytes => decide (0 < bytes.length ∧ bytes.length ≤ 64)
  | .bar2Read _ len => decide (0 < len ∧ len ≤ 64)
  | .flagRead port _ _ => decide (port ≤ 56)
  | .flagSet port _ _ _ => decide (port ≤ 56)
  | .flagAdd port _ _ _ => decide (port ≤ 56)
  | .cpost port _ _ _ => decide (port ≤ 56)
  | .ctake port _ _ _ => decide (port ≤ 56)
  | .wait x => decide (x.port ≤ 56)
  | .waitWake _ => true
  | .waitPoll _ => true
  | .quantiseVector _ _ _ => true
  | .arrayRead _ _ _ _ _ => true
  | .sliceRetry _ _ => true
  | .suspectWindowEnd _ => true
  | .dwellEnd _ => true
  | .checkStandinStart _ => true
  | .checkStandinEnd _ => true
  | .outputVector _ _ _ => true
  | .gatedPartnerVector _ => true
  | .adapterDelta _ _ _ => true
  | .pntAccselWrite _ _ => true
  | .accSnapshot _ => true
  | .pntActdataAccess _ _ => true
  | .watchRestart _ => true
  | .calForce _ => true
  | .convEnable _ _ => true
  | .referenceReading _ _ _ => true
  | .delayLineCount _ c _ => decide (c ≤ 132)
  | .calibrationCycleEnd _ _ _ => true
  | .initialCalibrationEnd => true
  | .calibrationAgeLimit _ => true
  | .hoistGateRampDone _ _ => true
  | .maintRequest _ => true
  | .maintActivityEnd _ => true
  | .maintAge _ => true
  | .arrayProgramDone _ _ => true
  | .relaxEnd _ => true
  | .readbackDone _ _ _ => true
  | .diagnosticReadDone _ _ => true
  | .startupCheckDone _ _ => true
  | .driftAgeTick => true
  | .scrubPass _ _ _ => true
  | .lifetimeSnapshot => true
  | .promptEntry ring _ _ => decide (ring ≤ 7)
  | .stepCompose c => decide (c.wave ≤ 3)
  | .stepPlan _ _ => true
  | .stepBoundary _ => true
  | .commitIdleApply => true
  | .operationList _ _ _ _ _ => true
  | .buntingVector _ _ _ _ rec _ _ _ => decide (rec < 1048576)
  | .bankLoadDone _ _ _ streamed => decide (streamed.length ≤ 1048576)
  | .partialRecord _ _ _ _ => true
  | .stepCommit _ => true
  | .stepFail _ _ => true
  | .stepTimeout _ => true
  | .headroomStaleTimeout => true
  | .cxlFetchDone _ _ _ _ _ _ => true
  | .blockCopyDone _ _ _ _ _ _ => true
  | .idleTimeout _ => true
  | .pauseExpiry _ _ => true
  | .wgtInstall _ => true
  | .wgtAttach _ => true
  | .wgtRelease _ => true
  | .wgtAbort _ => true
  | .addSpare _ => true
  | .imageComponentRead _ _ _ => true
  | .sourceRetry _ _ _ => true
  | .imageComponent _ _ => true
  | .resendRequest _ _ _ => true
  | .ensLoad _ => true
  | .ensDeactivate => true
  | .ensAbort => true
  | .ensVerifyEnd => true
  | .ensApplyEnd _ => true
  | .commitGo _ => true
  | .commitGoAt _ => true
  | .commitDiscard => true
  | .flitReceive port _ => decide (port ≤ 19)
  | .nakResend port => decide (port ≤ 19)
  | .linkEnable port => decide (port ≤ 19)
  | .linkDisable port => decide (port ≤ 19)
  | .linkRetrain port => decide (port ≤ 19)
  | .lightWindow port _ => decide (port ≤ 19)
  | .lightLowTimeout port => decide (port ≤ 19)
  | .laneLock port => decide (port ≤ 19)
  | .deskew port _ => decide (port ≤ 19)
  | .fecLock port => decide (port ≤ 19)
  | .peerIdentity port _ _ _ creds => decide (port ≤ 19) && decide (creds.length = 4)
  | .trainingAttemptTimeout port => decide (port ≤ 19)
  | .downRetry port => decide (port ≤ 19)
  | .laneUnlock port => decide (port ≤ 19)
  | .lightInputLoss _ _ => true
  | .lightInputReturn _ _ => true
  | .activationVectors port _ => decide (port ≤ 19)
  | .draftProposals _ _ _ _ => true
  | .peerTierQuery _ _ _ _ _ _ _ _ _ _ _ _ _ => true
  | .blockCopy _ _ _ _ _ => true
  | .mirroredEntries _ _ _ => true
  | .mirroredSequenceRecords _ _ _ => true
  | .commitReady _ _ => true
  | .acceptance _ _ => true
  | .commitMessage _ _ => true
  | .abortMessage _ => true
  | .headroomMessage _ _ _ _ _ _ => true
  | .forwardedEvent _ _ => true
  | .mirrorAcknowledgement _ _ => true
  | .heartbeat _ => true
  | .heartbeatTimer port => decide (port ≤ 19)
  | .discard _ _ => true
  | .routeSwitch _ _ => true
  | .lossTimeout _ _ => true
  | .mirrorRecordWrite _ _ => true
  | .resyncComplete => true
  | .reclaim => true
  | .lost _ => true
  | .handback => true
  | .handbackDone => true
  | .ringDoorbell ring _ => decide (ring ≤ 10)
  | .tenantSet _ _ => true
  | .classSet _ _ _ _ => true
  | .release _ => true
  | .pause _ _ => true
  | .resume _ => true
  | .arrayQueue _ _ => true
  | .stageCopy _ _ _ _ => true
  | .stageCopyDone _ _ _ _ => true
  | .tenantKey _ _ rec _ => decide (rec.length = 256)
  | .fence _ => true
  | .undefinedCommand _ _ => true
  | .ringEnableWrite ring _ => decide (ring ≤ 10)
  | .eventQueueDrain => true
  | .coalescingTimeout ring => decide (ring ≤ 10)
  | .cxlLinkLoss => true
  | .cxlLinkReturn width _ => decide (width = 4 ∨ width = 8 ∨ width = 16)
  | .uioCompletion _ _ => true
  | .uioTimeout _ => true
  | .ideIntegrityFailure => true
  | .ideKeyManagement => true
  | .getMeasurements nonce => decide (nonce.length = 32)
  | .clockAbsenceTimeout clk => decide (clk ≤ 30)
  | .clockPresenceWindow clk _ => decide (clk ≤ 30)
  | .crossingReset clk _ => decide (clk ≤ 30)
  | .crossingResync clk => decide (clk ≤ 30)
  | .sqPacketWrite _ words => decide (0 < words.length ∧ words.length ≤ 32)
  | .sqEntrySettle _ => true
  | .sqDataRead _ => true
  | .sqLevelWrite _ _ => true
  | .sqDrop _ => true
  | .sqFlush _ => true
  | .sqEnableWrite _ _ => true
  | .deadlockFault _ _ => true
  | .deadlockFreezeLift => true
  | .vinRise _ => true
  | .vinLoss _ => true
  | .railPowerGood n => decide (n ≤ 5)
  | .railFault n => decide (n ≤ 5)
  | .droopTrip _ => true
  | .droopRelease _ _ => true
  | .sensorSample n _ => decide (n ≤ 71)
  | .sensorSilentTimeout n => decide (n ≤ 71)
  | .sensorFaultClear n => decide (n ≤ 71)
  | .thermalUpdate => true
  | .bandFall _ => true
  | .powerSample _ _ _ => true
  | .waveLevelUpdate => true
  | .waveHoldRelease _ => true
  | .headroomPublish => true
  | .rthUpdate => true
  | .meterPowerOn _ => true
  | .meterPowerFall _ => true
  | .activityIntervalClose => true
  | .counterFrame _ => true
  | .meterSecond _ _ _ _ => true
  | .totalsSave => true
  | .readRecord _ _ => true
  | .readTotals _ _ => true
  | .readParams _ _ => true
  | .readStatus _ => true
  | .sealNonce => true
  | .sealApply _ _ _ => true
  | .sealCopyProgrammed _ => true
  | .sealNonceExpiry => true
  | .attest => true
  | .attestReport _ => true
  | .newnonce => true
  | .enroll _ _ => true
  | .revoke _ => true
  | .commitSvn => true
  | .debugUnlock => true
  | .revokeFwkey0 => true
  | .getCert _ => true
  | .glbFltpop => true
  | .lifRead _ n => decide (0 < n ∧ n ≤ 256)
  | .resetNAssert => true
  | .resetNRelease _ _ => true
  | .bootRomEnd _ _ _ => true
  | .podAddressWrite _ _ => true
  | .checkingEnd => true
  | .lightingEnd => true
  | .mgmtCoreRestart _ => true
  | .sequencerHalt _ => true
  | .flitTime port => decide (port ≤ 19)
  | .railPowerGoodLoss n => decide (n ≤ 5)
  | .crystalStop => true
  | .managementFirmwareRunsAgain => true
  | .sequencerCoreRunsAgain _ => true

end Sys2Proof
end

