-- ==== Sys2Proof/Safety.lean ====
section
/-! DEFINITION. What counts as a safe run of the block: it never stops, and what it keeps has one form. -/

namespace Sys2Proof.Safety
open Sys2Proof Sys2Proof.Machine

/-- Every command that waits is one that the part can be given. -/
def queueOk (s : State) : Prop := ∀ c ∈ s.pending, wellFormed c = true

/-- `k` steps end in a state, without a fault or a refusal. -/
def runs (k : Nat) (s : State) : Prop := ∃ t, core.run k s = .next t

/-- SRAM in its canonical form: addresses strictly rising, and no entry that reads as an unlisted byte does. -/
def Memory.wf (s : State) : Bool := SMap.wf dfltByte s.sram

/-- The register file in its canonical form: keys strictly rising, and no entry that holds its reset value. -/
def registersWf (s : State) : Bool := SMap.wf resetField s.regs

/-- Three stores keep their canonical form: SRAM, the register file and what the part has written to host memory. -/
def storesWf (s : State) : Prop := Memory.wf s = true ∧ registersWf s = true ∧ SMap.wf dfltByte s.host.mem = true

/-! ### What a command leaves alone -/

/-- Every field of the register file reads as before, but for the fields listed. -/
def sameFields (l : List Field) (s t : State) : Prop := ∀ f : Field, f.key ∉ l.map Field.key → getF f t = getF f s

/-- Every byte of SRAM reads as before, but for the `n` bytes from `a` on. -/
def sameBytes (a n : Nat) (s t : State) : Prop := ∀ k, (k < a ∨ a + n ≤ k) → sramByte k t = sramByte k s

/-- The fields that reporting writes: ring 10's TAIL, the count of lost events, and the fault collector's overflow flag and
lost count (R316, R319, R418). -/
def reportFields : List Field :=
  [Reg.Ring.tail.at (ringBase 10), Reg.Cxl.evtLostCnt.at cxlBase, Reg.Glb.fltOverflow, Reg.Glb.fltLostCnt]

/-- A state without what reporting can touch: the register file (whose fields are compared one by one), the event queue,
the interrupt signals and host memory, the ports' message queues, and the fault queue with its lifetime counts. -/
def quiet (s : State) : State :=
  { s with
    regs := []
    host := { s.host with events := [], lost := 0, unsignalled := [], msixPending := [], msixSent := [], mem := [] }
    lnk := { s.lnk with ports := [] }
    flt := { s.flt with queue := [], sent := [], life := [] } }

/-- `t` is `s` but for what reporting touches: faults, events, their signals and the messages that carry them. -/
def reports (s t : State) : Prop := sameFields reportFields s t ∧ quiet t = quiet s

/-- The fields that taking a command entry writes: ring 8's HEAD and the count of commands (R314, Table 12-7). -/
def commandFields : List Field := [Reg.Ring.head.at (ringBase 8), Reg.Cxl.cmdCnt.at cxlBase]

/-- One command entry was taken between two states: HEAD and the count of commands are one up, and of the register file
only these, the clamp counter and what reporting touches changed. -/
def commandTaken (s t : State) : Prop :=
  (∀ f ∈ commandFields, getF f t = (getF f s + 1) % 2 ^ 32) ∧
    sameFields (commandFields ++ [Reg.Glb.clampCnt, Reg.Glb.clampLast] ++ reportFields) s t

/-! ### Results delivered -/

/-- Between two states a pennant has delivered the FP32 values `l` of a vector: converted to their destination format in
their rounding class, counted, held as its output and stored where the vector goes; `sats` scale products had left the
normal range (R118 to R123, R128, R139). -/
def pennantDelivers (p : Nat) (tag : VecTag) (l : List Nat) (sats : Nat) (s t : State) : Prop :=
  let c := destCode p tag s
  let sr := stochastic tag.cls tag.layer (pntF Reg.Pnt.srReq p) (pntF Reg.Pnt.srKv p) (pntF Reg.Pnt.srResid p) s
  let x := convert c sr (getF (pntF Reg.Pnt.rndSeed p) s) (getF (pntF Reg.Pnt.rndCtr p) s) (l.map f32)
  let m := ((storedVals c x).map fun v => absF32 (toF32 v)).foldl maxNanF32 0
  (pntOf p t).out = some ⟨tag.vid, tag.ten, tag.seq, c, x.elems, x.scales, m⟩ ∧
    getF (pntF Reg.Pnt.rndCtr p) t % 2 ^ 64 = (getF (pntF Reg.Pnt.rndCtr p) s + x.draws) % 2 ^ 64 ∧
    getF (pntF Reg.Pnt.cvtSatCnt p) t % 2 ^ 32 = (getF (pntF Reg.Pnt.cvtSatCnt p) s + sats + x.sats) % 2 ^ 32 ∧
    getF (pntF Reg.Pnt.cvtNanCnt p) t % 2 ^ 32 = (getF (pntF Reg.Pnt.cvtNanCnt p) s + x.nans) % 2 ^ 32 ∧
    getF (pntF Reg.Pnt.outVecCnt p) t % 2 ^ 32 = (getF (pntF Reg.Pnt.outVecCnt p) s + 1) % 2 ^ 32 ∧
    t.sram = (storeVec tag.cls c m x tag.addr s).sram

/-- The fields that a pennant's delivery writes. -/
def pennantFields (p : Nat) : List Field :=
  [pntF Reg.Pnt.rndCtr p, pntF Reg.Pnt.cvtSatCnt p, pntF Reg.Pnt.cvtNanCnt p, pntF Reg.Pnt.outVecCnt p]

/-- Between two states a vector unit has delivered the FP32 values `l` (R118 to R123, R160). -/
def unitDelivers (v : Nat) (d : VecDst) (l : List Nat) (s t : State) : Prop :=
  let c := match d.cls with | .kv k => kvCode (getF (Reg.Kvc.lfmt.at (kvcBase + 4 * k)) s) | _ => d.fmt
  let sr := stochastic d.cls d.layer (vecF Reg.Vec.srReq v) (vecF Reg.Vec.srKv v) (vecF Reg.Vec.srResid v) s
  let x := convert c sr (getF (vecF Reg.Vec.rndSeed v) s) (getF (vecF Reg.Vec.rndCtr v) s) (l.map f32)
  let m := ((storedVals c x).map fun a => absF32 (toF32 a)).foldl maxNanF32 0
  (vecOf v t).out = x.elems ∧
    getF (vecF Reg.Vec.rndCtr v) t % 2 ^ 64 = (getF (vecF Reg.Vec.rndCtr v) s + x.draws) % 2 ^ 64 ∧
    getF (vecF Reg.Vec.cvtSatCnt v) t % 2 ^ 32 = (getF (vecF Reg.Vec.cvtSatCnt v) s + x.sats) % 2 ^ 32 ∧
    getF (vecF Reg.Vec.cvtNanCnt v) t % 2 ^ 32 = (getF (vecF Reg.Vec.cvtNanCnt v) s + x.nans) % 2 ^ 32 ∧
    t.sram = (storeVec d.cls c m x d.addr s).sram

/-- The fields that a vector unit's delivery writes. -/
def unitFields (v : Nat) : List Field := [vecF Reg.Vec.rndCtr v, vecF Reg.Vec.cvtSatCnt v, vecF Reg.Vec.cvtNanCnt v]

end Sys2Proof.Safety
end

