-- ==== Sys2Proof/Certificates/Slice0/Obligations.lean ====
section
/-! DEFINITION. The statements about the block, family by family of its commands. -/

open Sys2Proof Sys2Proof.Machine Sys2Proof.Safety

/-- A request of a legal port that lies in one 256-byte line inside the SRAM completes. A read of a clean line answers the
bytes there and changes only the meter. A write stores its bytes, leaves every other byte, lets a line written whole
lose its poison, and changes nothing else but the meter and the deadlock window. At or above the end of SRAM a read
answers zeros, a write is discarded, and each records, counts and reports an address fault. (R22, R23, R27, R39, R40,
R411, R382) -/
def Obligations.SramAccess : Prop :=
  ∀ (s : State) (port addr : Nat) (holds : LineHolds) (ten : Option TenantId) (step : Option Nat), port ≤ 56 →
    (∀ n, 0 < n → addr % 256 + n ≤ 256 → addr < Config.sramEnd → isPoisoned addr s = false →
      exec (.sramAccess port addr (.read n) .clean .arrived holds ten step) s =
        .next { meterAdd (accountOf ten) 5 n s with answer := .bytes (sramTake n addr s) }) ∧
    (∀ l : List Byte, 0 < l.length → addr % 256 + l.length ≤ 256 → addr < Config.sramEnd →
      ∃ t, exec (.sramAccess port addr (.write l) .clean .arrived holds ten step) s = .next t ∧
        sramTake l.length addr t = l ∧ sameBytes addr l.length s t ∧
        (∀ k, k ∈ t.flt.poisoned ↔ k ∈ s.flt.poisoned ∧ ¬ (addr % 256 = 0 ∧ l.length = 256 ∧ k = addr / 256)) ∧
        t = { meterAdd (accountOf ten) 5 l.length s with
          sram := t.sram, flt := { s.flt with poisoned := t.flt.poisoned }, sync := { s.sync with windowStart := t.sync.windowStart } }) ∧
    (∀ (op : SramOp) (ecc : Ecc) (x : Xfer), 0 < sramOpLen op → addr % 256 + sramOpLen op ≤ 256 → Config.sramEnd ≤ addr →
      ∃ t, exec (.sramAccess port addr op ecc x holds ten step) s = .next t ∧ t.sram = s.sram ∧
        (∀ n, op = .read n → t.answer = .bytes (List.replicate n 0)) ∧ (∀ l, op = .write l → t.answer = s.answer) ∧
        (isSet Reg.Glb.halValid s = true → getF Reg.Glb.halMore t = 1 ∧ sameFields [Reg.Glb.halMore] s t ∧
          lifeGet 0x618 t = min (lifeGet 0x618 s + 1) (2 ^ 64 - 1)) ∧
        (isSet Reg.Glb.halValid s = false → getF Reg.Glb.halValid t = 1 ∧ getF Reg.Glb.halPort t = port ∧
          getF Reg.Glb.halAddrHi t = addr / 512 % 2 ^ 23 ∧ getF Reg.Glb.halWrite t = (match op with | .read _ => 0 | .write _ => 1) ∧
          sameFields ([Reg.Glb.halValid, Reg.Glb.halPort, Reg.Glb.halAddrHi, Reg.Glb.halWrite] ++ reportFields) s t) ∧
        quiet { t with answer := s.answer } = quiet s)

/-- On an aligned word of the flag-words-and-queues partition READ returns the word, SET writes its operand, ADD adds modulo
2^64, CPOST adds to the available count while the capacity is not passed, and CTAKE subtracts while enough is available.
Each leaves every byte outside the word, and changes nothing but SRAM and the deadlock window. An operation outside the
partition is not performed and counts in FLG_ADDRCNT; a CPOST past the capacity counts in FLG_OVERCNT and a CTAKE of
more than is available in FLG_UNDERCNT, the first one since FLG_FAULT was cleared being recorded there. SRAM is
unchanged in each case. Stated for an operation that no step issued; one that a step issued also fails the step. (R348,
Table 13-6, R349) -/
def Obligations.FlagWords : Prop :=
  (
  ∀ (s : State) (port addr : Nat) (step : Option Nat), port ≤ 56 → isFlagWord addr s = true →
    exec (.flagRead port addr step) s = .next { s with answer := .value (sramWord addr s).toNat } ∧
    (∀ (c : Instr) (w : Word64),
      ((∃ v, c = .flagSet port addr v step ∧ w = v) ∨
       (∃ v, c = .flagAdd port addr v step ∧ w = sramWord addr s + v) ∨
       (∃ n, c = .cpost port addr n step ∧ creditAvail (sramWord addr s) + n.toNat ≤ creditCap (sramWord addr s) ∧
          creditCap w = creditCap (sramWord addr s) ∧ creditAvail w = creditAvail (sramWord addr s) + n.toNat) ∨
       (∃ n, c = .ctake port addr n step ∧ n.toNat ≤ creditAvail (sramWord addr s) ∧
          creditCap w = creditCap (sramWord addr s) ∧ creditAvail w + n.toNat = creditAvail (sramWord addr s))) →
      ∃ t, exec c s = .next t ∧ sramWord addr t = w ∧ sameBytes addr 8 s t ∧
        t = { s with sram := t.sram, sync := { s.sync with windowStart := t.sync.windowStart } })) ∧ (
  ∀ (s : State) (port addr : Nat), port ≤ 56 →
    (isFlagWord addr s = false → ∀ c : Instr,
      (c = .flagRead port addr none ∨ (∃ v, c = .flagSet port addr v none) ∨ (∃ v, c = .flagAdd port addr v none) ∨
        (∃ n, c = .cpost port addr n none) ∨ (∃ n, c = .ctake port addr n none) ∨
        (∃ x : WaitSpec, c = .wait x ∧ x.port = port ∧ x.addr = addr ∧ x.step = none)) →
      ∃ t, exec c s = .next t ∧ t.sram = s.sram ∧
        getF (Reg.Flg.addrCnt.at flgBase) t = (getF (Reg.Flg.addrCnt.at flgBase) s + 1) % 2 ^ 32 ∧
        sameFields (Reg.Flg.addrCnt.at flgBase :: reportFields) s t ∧ quiet t = quiet s) ∧
    (isFlagWord addr s = true → ∀ (c : Instr) (isOver : Bool) (n : BitVec 32),
      ((c = .cpost port addr n none ∧ isOver = true ∧ creditCap (sramWord addr s) < creditAvail (sramWord addr s) + n.toNat) ∨
        (c = .ctake port addr n none ∧ isOver = false ∧ creditAvail (sramWord addr s) < n.toNat)) →
      ∃ t, exec c s = .next t ∧ t.sram = s.sram ∧
        getF (Reg.Flg.overCnt.at flgBase) t % 2 ^ 32 = (getF (Reg.Flg.overCnt.at flgBase) s + (if isOver then 1 else 0)) % 2 ^ 32 ∧
        getF (Reg.Flg.underCnt.at flgBase) t % 2 ^ 32 = (getF (Reg.Flg.underCnt.at flgBase) s + (if isOver then 0 else 1)) % 2 ^ 32 ∧
        getF (Reg.Flg.fltValid.at flgBase) t = 1 ∧
        (isSet (Reg.Flg.fltValid.at flgBase) s = false → getF (Reg.Flg.fltPort.at flgBase) t = port ∧
          getF (Reg.Flg.fltOver.at flgBase) t = (if isOver then 1 else 0) ∧ getF (Reg.Flg.fltAddr.at flgBase) t = addr / 8 % 2 ^ (Reg.Flg.fltAddr.at flgBase).w) ∧
        (isSet (Reg.Flg.fltValid.at flgBase) s = true → sameFields ([Reg.Flg.overCnt.at flgBase, Reg.Flg.underCnt.at flgBase] ++ reportFields) s t) ∧
        quiet t = quiet s))

/-- A WAIT whose condition holds changes nothing; one whose condition does not hold is registered once, with the word it
read, and the deadlock window begins anew. WAIT_WAKE completes exactly the monitored waiters of the line whose condition
now holds, and WAIT_POLL exactly the polling waiters of the word; the others stay, and nothing else changes. (R350,
Table 13-6) -/
def Obligations.Waits : Prop :=
  (∀ (s : State) (x : WaitSpec), x.port ≤ 56 → isFlagWord x.addr s = true →
    (condHolds x.cond x.target (sramWord x.addr s) = true → exec (.wait x) s = .next s) ∧
    (condHolds x.cond x.target (sramWord x.addr s) = false → ∃ t m, exec (.wait x) s = .next t ∧
      t.sync.waiters = s.sync.waiters ++ [⟨x, m, sramWord x.addr s⟩] ∧ (m = true → x.monitor = true) ∧
      getF (Reg.Flg.monFullCnt.at flgBase) t % 2 ^ 32 =
        (getF (Reg.Flg.monFullCnt.at flgBase) s + (if x.monitor ∧ m = false then 1 else 0)) % 2 ^ 32 ∧
      sameFields [Reg.Flg.monFullCnt.at flgBase] s t ∧
      t.sync.windowStart = now s ∧
      t = { s with regs := t.regs, sync := { s.sync with waiters := t.sync.waiters, windowStart := now s } })) ∧
  (∀ (s : State) (a : Nat) (c : Instr) (p : Waiter → Bool),
    (c = .waitWake a ∧ p = (fun w => w.monitored && w.spec.addr / 256 == a) ∨
      c = .waitPoll a ∧ p = (fun w => !w.monitored && w.spec.addr == a)) →
    ∃ t, exec c s = .next t ∧ t = { s with sync := { s.sync with waiters := t.sync.waiters } } ∧
      (t.sync.waiters.map fun w => (w.spec, w.monitored)) =
        ((s.sync.waiters.filter fun w => !(p w && condHolds w.spec.cond w.spec.target (sramWord w.spec.addr s))).map
          fun w => (w.spec, w.monitored)))

/-- An enabled queue takes a packet whole when it fits and drops it whole, counted, when it does not; a disabled queue
discards it. An entry settles in order. A read of SQ_DATA_LO gives the low half of the first settled entry, latches the
high half, removes the entry and keeps INPKT; with nothing settled it reads 0 and latches 0. DROP with a packet in
reading removes the rest of it, counted; FLUSH removes everything, counted; clearing EN empties the queue. (R346) -/
def Obligations.StreamerQueues : Prop :=
  ∀ (s : State) (q : SqIx),
    (∀ l : List Word64, 0 < l.length → l.length ≤ 32 →
      (isSet (Reg.Sq.en.at (sqBase q.toNat)) s = true → (sqOf q.toNat s).length + l.length ≤ 32 →
        ∃ t, exec (.sqPacketWrite q l) s = .next t ∧ t = setSq q.toNat (sqOf q.toNat t) s ∧
          (sqOf q.toNat t).take (sqOf q.toNat s).length = sqOf q.toNat s ∧
          (sqOf q.toNat t).length = (sqOf q.toNat s).length + l.length ∧
          ∀ (i : Nat) (w : Word64), l[i]? = some w → ∃ x : Word64, (sqOf q.toNat t)[(sqOf q.toNat s).length + i]? = some (x, false) ∧
            x.toNat % 2 ^ 62 = w.toNat % 2 ^ 62 ∧ x.toNat.testBit 63 = true ∧ x.toNat.testBit 62 = decide (i + 1 = l.length)) ∧
      (isSet (Reg.Sq.en.at (sqBase q.toNat)) s = true → 32 < (sqOf q.toNat s).length + l.length →
        exec (.sqPacketWrite q l) s =
          .next (addF (Reg.Sq.lostCnt.at (sqBase q.toNat)) 1 (setF (Reg.Sq.lost.at (sqBase q.toNat)) 1 s))) ∧
      (isSet (Reg.Sq.en.at (sqBase q.toNat)) s = false → exec (.sqPacketWrite q l) s = .next s)) ∧
    (∀ (w : Word64) (l : List (Word64 × Bool)), sqOf q.toNat s = (w, true) :: l →
      ∃ t, exec (.sqDataRead q) s = .next t ∧ t.answer = .value (w.toNat % 2 ^ 32) ∧ sqOf q.toNat t = l ∧
        getF (Reg.Sq.dataHi.at (sqBase q.toNat)) t = w.toNat / 2 ^ 32 ∧
        getF (Reg.Sq.inpkt.at (sqBase q.toNat)) t = (if w.toNat.testBit 62 then 0 else 1) ∧
        sameFields [Reg.Sq.dataHi.at (sqBase q.toNat), Reg.Sq.inpkt.at (sqBase q.toNat)] s t ∧
        t = { setSq q.toNat l s with regs := t.regs, answer := t.answer }) ∧
    ((∀ (w : Word64) (l : List (Word64 × Bool)), sqOf q.toNat s ≠ (w, true) :: l) →
      exec (.sqDataRead q) s = .next { setF (Reg.Sq.dataHi.at (sqBase q.toNat)) 0 s with answer := .value 0 }) ∧
    (isSet (Reg.Sq.inpkt.at (sqBase q.toNat)) s = true → ∀ (a l : List (Word64 × Bool)) (e : Word64 × Bool),
      (∀ x ∈ a, x.1.toNat.testBit 62 = false) → e.1.toNat.testBit 62 = true → sqOf q.toNat s = a ++ e :: l →
      exec (.sqDrop q) s = .next (setF (Reg.Sq.inpkt.at (sqBase q.toNat)) 0
        (addF (Reg.Sq.dropCnt.at (sqBase q.toNat)) (a.length + 1) (setSq q.toNat l s)))) ∧
    (isSet (Reg.Sq.inpkt.at (sqBase q.toNat)) s = false → exec (.sqDrop q) s = .next s) ∧
    exec (.sqFlush q) s =
      .next (setSq q.toNat [] (addF (Reg.Sq.dropCnt.at (sqBase q.toNat)) (sqOf q.toNat s).length s)) ∧
    exec (.sqEnableWrite q true) s = .next (setF (Reg.Sq.en.at (sqBase q.toNat)) 1 s) ∧
    exec (.sqEnableWrite q false) s = .next (setSq q.toNat [] (setF (Reg.Sq.en.at (sqBase q.toNat)) 0 s))

/-- SQ_ENTRY_SETTLE settles the first entry that has not settled, and sets LVL and signals vector 32 + q exactly when READY
rises to the level. SQ_LEVEL_WRITE takes a level up to 32, clamps a greater one with a count, and sets LVL and signals
at once when the level is at or below READY. (R343, R345, R281) -/
def Obligations.StreamerLevels : Prop :=
  ∀ (s : State) (q : SqIx),
    (∀ (a l : List (Word64 × Bool)) (w : Word64), (∀ e ∈ a, e.2 = true) → sqOf q.toNat s = a ++ (w, false) :: l →
      let lvl := getF (Reg.Sq.level.at (sqBase q.toNat)) s
      let u := setSq q.toNat (a ++ (w, true) :: l) s
      exec (.sqEntrySettle q) s =
        .next (if sqReady (sqOf q.toNat s) + 1 = lvl then signal (32 + q.toNat) (setF (Reg.Sq.lvl.at (sqBase q.toNat)) 1 u) else u)) ∧
    (∀ v : BitVec 6, ∃ t, exec (.sqLevelWrite q v) s = .next t ∧
      getF (Reg.Sq.level.at (sqBase q.toNat)) t = min v.toNat 32 ∧
      getF Reg.Glb.clampCnt t % 2 ^ 32 = (getF Reg.Glb.clampCnt s + (if 32 < v.toNat then 1 else 0)) % 2 ^ 32 ∧
      (0 < v.toNat → min v.toNat 32 ≤ sqReady (sqOf q.toNat s) → getF (Reg.Sq.lvl.at (sqBase q.toNat)) t = 1 ∧
        (32 + q.toNat ∈ t.host.msixPending ∨ 32 + q.toNat ∈ t.host.msixSent)) ∧
      (v.toNat = 0 ∨ sqReady (sqOf q.toNat s) < min v.toNat 32 →
        getF (Reg.Sq.lvl.at (sqBase q.toNat)) t = getF (Reg.Sq.lvl.at (sqBase q.toNat)) s ∧ t.host = s.host) ∧
      sameFields [Reg.Sq.level.at (sqBase q.toNat), Reg.Sq.lvl.at (sqBase q.toNat), Reg.Glb.clampCnt, Reg.Glb.clampLast] s t ∧
      quiet t = quiet s)

/-- An access of 1 to 64 bytes that lies in one 64-byte unit and in the flag-words-and-queues partition, with IDE
established where it is asked for, reads or writes SRAM at the BAR2 base; any other is denied: a read answers zeros, a
write stores nothing, and BAR2_DENYCNT counts one. A write while 16 posted writes are held waits behind them. (R312,
R313, R328, Table 13-4) -/
def Obligations.Bar2Accesses : Prop :=
  ∀ (s : State) (off : Nat),
    (∀ n, 0 < n → n ≤ 64 →
      (bar2Ok off n s = true → exec (.bar2Read off n) s =
        .next { meterAdd 0xFFFF 5 n s with answer := .bytes (sramTake n (bar2Addr off s) s) }) ∧
      (bar2Ok off n s = false → exec (.bar2Read off n) s =
        .next { addF (Reg.Cxl.bar2DenyCnt.at cxlBase) 1 s with answer := .bytes (List.replicate n 0) })) ∧
    (∀ l : List Byte, 0 < l.length → l.length ≤ 64 →
      (hostStalled s = false → bar2Ok off l.length s = true → ∃ t, exec (.bar2Write off l) s = .next t ∧
        sramTake l.length (bar2Addr off s) t = l ∧ sameBytes (bar2Addr off s) l.length s t ∧
        t = { meterAdd 0xFFFF 5 l.length s with sram := t.sram, sync := { s.sync with windowStart := t.sync.windowStart } }) ∧
      (hostStalled s = false → bar2Ok off l.length s = false →
        exec (.bar2Write off l) s = .next (addF (Reg.Cxl.bar2DenyCnt.at cxlBase) 1 s)) ∧
      (hostStalled s = true →
        exec (.bar2Write off l) s = .next { s with cfg := { s.cfg with posted := s.cfg.posted ++ [.bar2 off l] } }))

/-- Where the window conditions hold and no step is in flight, DEADLOCK_FAULT freezes the detector, takes the snapshot of at
most 256 waits with its length, counts and stamps the deadlock, and reports it; where they do not hold it changes
nothing. DEADLOCK_FREEZE_LIFT, with no step in flight, clears the freeze, releases the waits that steps registered, and
restarts the window. (R351, R352, Table 13-16) -/
def Obligations.DeadlockDetector : Prop :=
  (∀ (s : State) (busy : Bool) (qs : List QueueWait), deadlocked busy qs s = true → s.sched.steps = [] →
    ∃ t, exec (.deadlockFault busy qs) s = .next t ∧ getF (Reg.Dlk.frozen.at dlkBase) t = 1 ∧
      t.sync.snapshot.length = min 256 (s.sync.waiters.length + qs.length) ∧
      getF (Reg.Dlk.waits.at dlkBase) t = t.sync.snapshot.length ∧
      getF (Reg.Dlk.cnt.at dlkBase) t = (getF (Reg.Dlk.cnt.at dlkBase) s + 1) % 2 ^ 32 ∧
      getF (Reg.Dlk.last.at dlkBase) t = now s ∧
      sameFields ([Reg.Dlk.frozen.at dlkBase, Reg.Dlk.waits.at dlkBase, Reg.Dlk.cnt.at dlkBase, Reg.Dlk.last.at dlkBase] ++ reportFields) s t ∧
      quiet { t with sync := s.sync } = quiet s ∧ t.sync = { s.sync with snapshot := t.sync.snapshot }) ∧
  (∀ (s : State) (busy : Bool) (qs : List QueueWait), deadlocked busy qs s = false → exec (.deadlockFault busy qs) s = .next s) ∧
  (∀ s : State, isSet (Reg.Dlk.frozen.at dlkBase) s = true → s.sched.steps = [] →
    ∃ t, exec .deadlockFreezeLift s = .next t ∧ getF (Reg.Dlk.frozen.at dlkBase) t = 0 ∧ sameFields [Reg.Dlk.frozen.at dlkBase] s t ∧
      (∀ w, w ∈ t.sync.waiters ↔ w ∈ s.sync.waiters ∧ w.spec.step = none) ∧ t.sync.windowStart = now s ∧
      t = { s with regs := t.regs, sync := { s.sync with waiters := t.sync.waiters, windowStart := t.sync.windowStart } })

/-- CLOCK_ABSENCE_TIMEOUT clears the presence bit of a present clock and of no other, and for a planned stop does nothing
more; CLOCK_PRESENCE_WINDOW sets an absent clock's bit from 4 edges on. CROSSING_RESET puts the reset side into HELD,
discards the entries and counts them; CROSSING_RESYNC brings both sides to RUN where the clock is present and its region
not lost. (R339, R341, R419, Table 13-3, Table 13-8) -/
def Obligations.ClocksAndCrossings : Prop :=
  (∀ (s : State) (b : Nat), b ≤ 30 → clockPresent b s = true → plannedStop b s = true →
    ∃ t, exec (.clockAbsenceTimeout b) s = .next t ∧ clockPresent b t = false ∧
      (∀ c, c ≤ 30 → c ≠ b → clockPresent c t = clockPresent c s) ∧
      sameFields [Reg.Glb.clkAclk, Reg.Glb.clkHclk, Reg.Glb.clkCxl, Reg.Glb.clkMtclk, Reg.Glb.clkPort] s t ∧
      t = { s with regs := t.regs }) ∧
  (∀ s : State, clockPresent 8 s = true → ∃ t, exec (.clockAbsenceTimeout 8) s = .next t ∧ clockPresent 8 t = false ∧
    getF Reg.Glb.ctrlRun t = 0 ∧ getF Reg.Glb.seqRun t = 0 ∧
    sameFields ([Reg.Glb.clkHclk, Reg.Glb.ctrlRun, Reg.Glb.seqRun] ++ reportFields) s t ∧ quiet t = quiet s) ∧
  (∀ (s : State) (b edges : Nat), b ≤ 30 → clockPresent b s = false → 4 ≤ edges →
    ∃ t, exec (.clockPresenceWindow b edges) s = .next t ∧ clockPresent b t = true ∧
      (∀ c, c ≤ 30 → c ≠ b → clockPresent c t = clockPresent c s) ∧
      sameFields [Reg.Glb.clkAclk, Reg.Glb.clkHclk, Reg.Glb.clkCxl, Reg.Glb.clkMtclk, Reg.Glb.clkPort] s t ∧
      t = { s with regs := t.regs }) ∧
  (∀ (s : State) (b : Nat) (far : Bool), b ≤ 30 →
    ∃ t, exec (.crossingReset b far) s = .next t ∧
      crossingOf b t = (if far then ⟨(crossingOf b s).near, .held, 0⟩ else ⟨.held, (crossingOf b s).far, 0⟩) ∧
      getF Reg.Glb.xrstDropCnt t = (getF Reg.Glb.xrstDropCnt s + (crossingOf b s).entries) % 2 ^ 32 ∧
      (∀ c, c ≠ b → crossingOf c t = crossingOf c s) ∧ sameFields [Reg.Glb.xrstDropCnt] s t ∧
      t = { s with regs := t.regs, cfg := { s.cfg with crossings := t.cfg.crossings } }) ∧
  (∀ (s : State) (b : Nat), b ≤ 30 → clockPresent b s = true → b ∉ s.cfg.lostRegions →
    exec (.crossingResync b) s = .next (setCrossing b ⟨.run, .run, 0⟩ s))

/-- A doorbell that the host can ring moves a consumer ring's TAIL or a producer ring's HEAD where its value is in range,
does nothing where it is the value in force, and counts a clamp otherwise; out of the host's reach it does nothing, and
behind 16 held writes it waits. RING_ENABLE_WRITE writes EN. With room and one event waiting, the drain writes the event
at ring 10's TAIL and advances it; without room nothing changes. A moderation time that has run out signals the ring's
vector and starts over. (R314, R315, R319, R320, R325) -/
def Obligations.RingsAndEvents : Prop :=
  (∀ (s : State) (n : Nat) (v : BitVec 32), n ≤ 10 →
    let h := getF (Reg.Ring.head.at (ringBase n)) s
    let t := getF (Reg.Ring.tail.at (ringBase n)) s
    (hostReach s = false → exec (.ringDoorbell n v) s = .next s) ∧
    (hostReach s = true → hostStalled s = true →
      exec (.ringDoorbell n v) s = .next { s with cfg := { s.cfg with posted := s.cfg.posted ++ [.bell n v.toNat] } }) ∧
    (hostReach s = true → hostStalled s = false →
      (n ≤ 8 → v.toNat = t → exec (.ringDoorbell n v) s = .next s) ∧
      (n ≤ 8 → v.toNat ≠ t → cntDiff v.toNat h ≤ ringSize n s → 0 < cntDiff v.toNat t →
        exec (.ringDoorbell n v) s = .next (setF (Reg.Ring.tail.at (ringBase n)) v.toNat s)) ∧
      (n ≤ 8 → v.toNat ≠ t → ringSize n s < cntDiff v.toNat h →
        exec (.ringDoorbell n v) s = .next (countClamp (0x61000 + 0x1000 * n) s)) ∧
      (8 < n → v.toNat = h → exec (.ringDoorbell n v) s = .next s) ∧
      (8 < n → v.toNat ≠ h → 0 < cntDiff v.toNat h → cntDiff v.toNat h ≤ cntDiff t h →
        ∃ u, exec (.ringDoorbell n v) s = .next u ∧ getF (Reg.Ring.head.at (ringBase n)) u = v.toNat ∧
          sameFields ([Reg.Ring.head.at (ringBase n), Reg.Ring.tail.at (ringBase 9)] ++ reportFields) s u ∧
          quiet { u with host := { u.host with held := s.host.held } } = quiet s) ∧
      (8 < n → v.toNat ≠ h → cntDiff t h < cntDiff v.toNat h →
        exec (.ringDoorbell n v) s = .next (countClamp (0x61000 + 0x1000 * n) s)))) ∧
  (∀ (s : State) (n : Nat) (en : Bool), n ≤ 10 → ∃ u, exec (.ringEnableWrite n en) s = .next u ∧
    getF (Reg.Ring.en.at (ringBase n)) u = (if en then 1 else 0) ∧
    sameFields ([Reg.Ring.en.at (ringBase n), Reg.Ring.tail.at (ringBase 9)] ++ reportFields) s u ∧
    quiet { u with host := { u.host with held := s.host.held } } = quiet s ∧
    (en = false ∨ n < 9 → u = setF (Reg.Ring.en.at (ringBase n)) (if en then 1 else 0) s)) ∧
  (∀ s : State, (eventRoom s = false → exec .eventQueueDrain s = .next s) ∧
    (∀ e, eventRoom s = true → s.host.lost = 0 → s.host.events = [e] →
      let a := getF (Reg.Ring.base.at (ringBase 10)) s + getF (Reg.Ring.tail.at (ringBase 10)) s % ringSize 10 s * 32
      ∃ u, exec .eventQueueDrain s = .next u ∧ u.host.events = [] ∧
        getF (Reg.Ring.tail.at (ringBase 10)) u = (getF (Reg.Ring.tail.at (ringBase 10)) s + 1) % 2 ^ 32 ∧
        (getF (Reg.Ring.wb.at (ringBase 10)) s + 4 ≤ a ∨ a + 32 ≤ getF (Reg.Ring.wb.at (ringBase 10)) s →
          takeBytes 32 a u.host.mem = eventBytes e) ∧
        sameFields [Reg.Ring.tail.at (ringBase 10)] s u ∧ quiet u = quiet s)) ∧
  (∀ (s : State) (n : Nat), n ≤ 10 →
    let p := SMap.get dfltPair s.host.unsignalled n
    (0 < p.1 → p.2 + ticksUs (getF (Reg.Ring.coalTime.at (ringBase n)) s) ≤ now s →
      ∃ u, exec (.coalescingTimeout n) s = .next u ∧ SMap.get dfltPair u.host.unsignalled n = (0, 0) ∧
        (getF (Reg.Ring.vec.at (ringBase n)) s ∈ u.host.msixPending ∨ getF (Reg.Ring.vec.at (ringBase n)) s ∈ u.host.msixSent) ∧
        u = { s with host := { s.host with
          unsignalled := u.host.unsignalled, msixPending := u.host.msixPending, msixSent := u.host.msixSent } }) ∧
    (p.1 = 0 → exec (.coalescingTimeout n) s = .next s))

/-- Where the command ring can be read, TENANT_SET of a tenant below the table size that makes no third live adapter version
stores the clamped entry and completes with status 0, with one clamp counted per field out of range; a tenant outside
the table gets status 3. CLASS_SET stores the clamped priority and the target; a class above 7 gets status 3. On a part
that is not the head both complete with status 7 and store nothing. RELEASE of a live sequence of its tenant marks it
and stays open until the sequence ends. After a RELEASE a PAUSE of the sequence gets status 1. Without one, PAUSE of a
WAITING sequence whose tenant has a secret makes it PAUSED with its time to live, chooses its blocks for demotion and
completes; of a sequence in PREFILL or GENERATE it is held on the sequence. RESUME before expiry returns a PAUSED
sequence to WAITING and chooses its blocks for promotion. Other sequences stand. (R321, R323, R281, Table 12-4, R218,
R219, R403, Table 7-2, Table 12-6) -/
def Obligations.TenantAndSequenceCommands : Prop :=
  (
  ∀ (s : State) (h : CmdHead), canCommand s = true →
    (∀ a : TenantArgs, isHead s = true → h.ten.toNat < s.sched.tenantCount →
      (a.present = false ∨ a.version.toNat ∈ liveVersions h.ten.toNat s ∨ (liveVersions h.ten.toNat s).length < 2) →
      ∃ u, exec (.tenantSet h a) s = .next (cmdDone h 0 u) ∧ commandTaken s u ∧
        tenantOf h.ten.toNat u = ⟨a.valid, min a.cls.toNat 7, max a.weight.toNat 1, min a.maxSeq.toNat 32768,
          min a.quota.toNat 32768, a.accept, (a.stop.map BitVec.toNat).filter (fun w => w ≠ 0xFFFFFFFF),
          if a.present then some (a.version.toNat, a.staging.toNat * 64, a.length.toNat) else none,
          keptVersions h.ten.toNat (if a.present then some a.version.toNat else none) s⟩ ∧
        (∀ k, k ≠ h.ten.toNat → tenantOf k u = tenantOf k s) ∧
        getF Reg.Glb.clampCnt u % 2 ^ 32 = (getF Reg.Glb.clampCnt s + (if 7 < a.cls.toNat then 1 else 0) +
          (if a.weight.toNat = 0 then 1 else 0) + (if 32768 < a.maxSeq.toNat then 1 else 0) +
          (if 32768 < a.quota.toNat then 1 else 0)) % 2 ^ 32 ∧
        quiet { u with sched := s.sched } = quiet s ∧ u.sched = { s.sched with tenants := u.sched.tenants }) ∧
    (∀ a : TenantArgs, isHead s = true → s.sched.tenantCount ≤ h.ten.toNat →
      ∃ u, exec (.tenantSet h a) s = .next (cmdDone h 3 u) ∧ commandTaken s u ∧ quiet u = quiet s) ∧
    (∀ (cls prio : BitVec 8) (target : BitVec 32), isHead s = true → cls.toNat ≤ 7 →
      ∃ u, exec (.classSet h cls prio target) s = .next (cmdDone h 0 u) ∧ commandTaken s u ∧
        SMap.get dfltClass u.sched.classes cls.toNat = ⟨min prio.toNat 7, target.toNat⟩ ∧
        (∀ k, k ≠ cls.toNat → SMap.get dfltClass u.sched.classes k = SMap.get dfltClass s.sched.classes k) ∧
        quiet { u with sched := s.sched } = quiet s ∧ u.sched = { s.sched with classes := u.sched.classes }) ∧
    (∀ (cls prio : BitVec 8) (target : BitVec 32), isHead s = true → 7 < cls.toNat →
      ∃ u, exec (.classSet h cls prio target) s = .next (cmdDone h 3 u) ∧ commandTaken s u ∧ quiet u = quiet s) ∧
    (isHead s = false → ∀ c : Instr,
      ((∃ a, c = .tenantSet h a) ∨ (∃ k p w, c = .classSet h k p w) ∨ c = .release h ∨ (∃ w, c = .pause h w) ∨ c = .resume h) →
      ∃ u, exec c s = .next (cmdDone h 7 u) ∧ commandTaken s u ∧ quiet u = quiet s)) ∧ (
  ∀ (s : State) (h : CmdHead), canCommand s = true → isHead s = true → (seqOf h.seq.toNat s).ten = h.ten.toNat →
    let q := h.seq.toNat
    let r := seqOf q s
    (r.state ≠ .free → r.pausing = none →
      ∃ u, exec (.release h) s = .next { u with host := { u.host with openCmds := u.host.openCmds ++ [(3, h)] } } ∧
        commandTaken s u ∧ seqOf q u = { r with releasing := true, pausing := none } ∧ (∀ p, p ≠ q → seqOf p u = seqOf p s) ∧
        quiet { u with sched := s.sched } = quiet s ∧ u.sched = { s.sched with seqs := u.sched.seqs }) ∧
    (∀ ttl : BitVec 32, hasSecret r.ten s = true → r.releasing = false → r.state = .waiting → r.inStep = none →
      ∃ u, exec (.pause h ttl) s = .next (cmdDone h 0 u) ∧ commandTaken s u ∧
        seqOf q u = { r with state := .paused, pausing := none, expiry := now s + ticksS (ttlOf ttl.toNat s) } ∧
        (∀ p, p ≠ q → seqOf p u = seqOf p s) ∧
        (∀ b ∈ u.kv.dir, b.seq = q → b.demote = true ∧ b.promote = false ∧ b.state ≠ .opened) ∧
        (u.kv.dir.filter fun b => ¬ b.seq = q) = (s.kv.dir.filter fun b => ¬ b.seq = q) ∧
        quiet { u with sched := s.sched, kv := s.kv } = quiet s ∧ u.sched = { s.sched with seqs := u.sched.seqs } ∧
        u.kv = { s.kv with dir := u.kv.dir }) ∧
    (∀ ttl : BitVec 32, r.state ≠ .free → r.state ≠ .paused → r.releasing = true →
      ∃ u, exec (.pause h ttl) s = .next (cmdDone h 1 u) ∧ commandTaken s u ∧ quiet u = quiet s) ∧
    (∀ ttl : BitVec 32, hasSecret r.ten s = true → r.releasing = false → (r.state = .prefill ∨ r.state = .generate) →
      ∃ u, exec (.pause h ttl) s = .next { u with host := { u.host with openCmds := u.host.openCmds ++ [(4, h)] } } ∧
        commandTaken s u ∧ seqOf q u = { r with pausing := some (ttlOf ttl.toNat s) } ∧ (∀ p, p ≠ q → seqOf p u = seqOf p s) ∧
        quiet { u with sched := s.sched } = quiet s ∧ u.sched = { s.sched with seqs := u.sched.seqs }) ∧
    (r.state = .paused → now s < r.expiry →
      ∃ u, exec (.resume h) s = .next (cmdDone h 0 u) ∧ commandTaken s u ∧
        seqOf q u = { r with state := .waiting, waitSince := now s } ∧ (∀ p, p ≠ q → seqOf p u = seqOf p s) ∧
        (∀ b ∈ u.kv.dir, b.seq = q → b.demote = false ∧ b.promote = true) ∧
        (u.kv.dir.filter fun b => ¬ b.seq = q) = (s.kv.dir.filter fun b => ¬ b.seq = q) ∧
        quiet { u with sched := s.sched, kv := s.kv } = quiet s ∧ u.sched = { s.sched with seqs := u.sched.seqs } ∧
        u.kv = { s.kv with dir := u.kv.dir }))

/-- STAGE_COPY of a readable source into a staging range that overlaps no live adapter is in progress and stays open. At its
end a good container of the command's tenant puts its plaintext into the range, and anything else zeroes the range; no
byte outside it changes. FENCE completes at once with no command open, and stays open otherwise. An OP that Table 12-4
does not define completes with status 9. (R321, R323, R404, Table 12-4, Table 17-2) -/
def Obligations.StagingAndFence : Prop :=
  (∀ (s : State) (h : CmdHead), canCommand s = true →
    (∀ off len : BitVec 32, off.toNat * 64 + len.toNat ≤ partSize 2 s → overlapsLive (off.toNat * 64) len.toNat s = false →
      ∃ u, exec (.stageCopy h off len true) s = .next { u with host := { u.host with openCmds := u.host.openCmds ++ [(7, h)] } } ∧
        commandTaken s u ∧ u.host.staging = some (h, off.toNat * 64, len.toNat) ∧
        quiet { u with host := { u.host with staging := s.host.staging } } = quiet s) ∧
    (s.host.openCmds = [] → ∃ u, exec (.fence h) s = .next (cmdDone h 0 u) ∧ commandTaken s u ∧ quiet u = quiet s) ∧
    (s.host.openCmds ≠ [] →
      ∃ u, exec (.fence h) s = .next { u with host := { u.host with openCmds := u.host.openCmds ++ [(9, h)] } } ∧
        commandTaken s u ∧ quiet u = quiet s) ∧
    (∀ op : BitVec 8, op.toNat = 0 ∨ 9 < op.toNat →
      ∃ u, exec (.undefinedCommand op h) s = .next (cmdDone h 9 u) ∧ commandTaken s u ∧ quiet u = quiet s)) ∧
  (∀ (s : State) (h : CmdHead) (lo len : Nat) (tagOk : Bool) (ten : TenantId) (version : BitVec 16) (plain : List Byte),
    s.host.staging = some (h, lo, len) → plain.length = len →
    let a := partBase 2 s + lo
    let ok := tagOk && hasSecret h.ten.toNat s && decide (ten = h.ten) &&
      decide ((tenantOf h.ten.toNat s).adapter.map (fun x => x.1) = some version.toNat)
    ∃ u, exec (.stageCopyDone tagOk ten version plain) s = .next u ∧ u.host.staging = none ∧
      sramTake len a u = (if ok then plain else List.replicate len 0) ∧ sameBytes a len s u ∧ sameFields reportFields s u ∧
      (∀ l, l ∈ u.flt.badStage → l ∈ s.flt.badStage ∧ ¬ (a / 256 ≤ l ∧ l ≤ (a + len) / 256)) ∧
      (∀ c ∈ u.host.openCmds, c ∈ s.host.openCmds ∧ c.1 ≠ 7) ∧
      quiet { u with host := s.host, flt := s.flt, sram := s.sram } = quiet s)

/-- Link loss of an active link clears LINK and IDE_ON, sets LINKLOSS and counts; its return sets LINK, WIDTH and RATE; an
IDE integrity failure sets IDE_FAIL and loses the link; key management on an active link sets IDE_ON. A good UIO
completion ends its request, the first bad completion or timeout counts and leaves one more attempt. (R310, R327, R328) -/
def Obligations.LinkAndUio : Prop :=
  (∀ s : State, getF (Reg.Cxl.link.at cxlBase) s = 2 → ∀ c : Instr, c = .cxlLinkLoss ∨ c = .ideIntegrityFailure →
    ∃ t, exec c s = .next t ∧ getF (Reg.Cxl.link.at cxlBase) t = 0 ∧ getF (Reg.Cxl.linkLoss.at cxlBase) t = 1 ∧
      getF (Reg.Cxl.ideOn.at cxlBase) t = 0 ∧
      getF (Reg.Cxl.linkDownCnt.at cxlBase) t = (getF (Reg.Cxl.linkDownCnt.at cxlBase) s + 1) % 2 ^ 32 ∧
      getF (Reg.Cxl.ideFail.at cxlBase) t = (if c = .ideIntegrityFailure then 1 else getF (Reg.Cxl.ideFail.at cxlBase) s) ∧
      sameFields ([Reg.Cxl.link.at cxlBase, Reg.Cxl.linkLoss.at cxlBase, Reg.Cxl.ideOn.at cxlBase, Reg.Cxl.ideFail.at cxlBase,
        Reg.Cxl.linkDownCnt.at cxlBase] ++ reportFields) s t ∧ quiet t = quiet s) ∧
  (∀ (s : State) (width : Nat) (fast : Bool), getF (Reg.Cxl.link.at cxlBase) s ≠ 2 → (width = 4 ∨ width = 8 ∨ width = 16) →
    ∃ t, exec (.cxlLinkReturn width fast) s = .next t ∧ getF (Reg.Cxl.link.at cxlBase) t = 2 ∧
      getF (Reg.Cxl.width.at cxlBase) t = width ∧ getF (Reg.Cxl.rate.at cxlBase) t = (if fast then 1 else 0) ∧
      sameFields ([Reg.Cxl.link.at cxlBase, Reg.Cxl.width.at cxlBase, Reg.Cxl.rate.at cxlBase, Reg.Ring.tail.at (ringBase 9)] ++
        reportFields) s t ∧ quiet { t with host := { t.host with held := s.host.held } } = quiet s) ∧
  (∀ s : State, getF (Reg.Cxl.link.at cxlBase) s = 2 →
    ∃ t, exec .ideKeyManagement s = .next t ∧ getF (Reg.Cxl.ideOn.at cxlBase) t = 1 ∧
      sameFields ([Reg.Cxl.ideOn.at cxlBase, Reg.Ring.tail.at (ringBase 9)] ++ reportFields) s t ∧
      quiet { t with host := { t.host with held := s.host.held } } = quiet s) ∧
  (∀ (s : State) (u : UioUse),
    ((uioAttempts u s).isSome = true →
      ∃ t, exec (.uioCompletion u true) s = .next t ∧ uioAttempts u t = none ∧
        (∀ v, v ≠ u → uioAttempts v t = uioAttempts v s) ∧ t = { s with host := { s.host with uio := t.host.uio } }) ∧
    (uioAttempts u s = some 0 → ∀ (c : Instr) (f : Field),
      ((c = .uioCompletion u false ∧ f = Reg.Cxl.uioErrCnt.at cxlBase) ∨ (c = .uioTimeout u ∧ f = Reg.Cxl.uioTmoCnt.at cxlBase)) →
      ∃ t, exec c s = .next t ∧ uioAttempts u t = some 1 ∧ (∀ v, v ≠ u → uioAttempts v t = uioAttempts v s) ∧
        t = addF f 1 { s with host := { s.host with uio := t.host.uio } }))

/-- Where the head part can read the ring, an entry of OP 0 for a free sequence of a valid tenant with room, or of OP 1 for
its WAITING sequence, that names tokens within the length limit is accepted: the sequence is in PREFILL with its tokens,
depth limit, sampling fields and order number; no other sequence changes. An entry that a rule refuses changes no
sequence and sends PROMPT_REFUSED with the rule. Either way the ring's HEAD moves by one. (R179, R229, Table 7-2, Table
7-3) -/
def Obligations.PromptEntries : Prop :=
  ∀ (s : State) (ring : Nat) (h : PromptHeader) (tokens : List (BitVec 18)), ring ≤ 7 → isHead s = true → ringOn ring s = true →
    0 < ringUsed ring s →
    let q := h.seq.toNat
    let r := seqOf q s
    let tn := tenantOf h.ten.toNat s
    ((h.op = 0 ∧ tn.valid = true ∧ r.state = .free ∧ liveCount h.ten.toNat s + 1 ≤ tn.maxSeq ∧ h.ntok ≠ 0 ∧
        h.ntok.toNat ≤ Config.maxPositions ∧ getF (Reg.Wgt.epoch.at wgtBase) s ≠ 0) ∨
      (h.op = 1 ∧ tn.valid = true ∧ r.state = .waiting ∧ r.ten = h.ten.toNat ∧ h.ntok ≠ 0 ∧
        r.len + h.ntok.toNat ≤ Config.maxPositions) →
      ∃ t, exec (.promptEntry ring h tokens) s = .next t ∧
        (seqOf q t).state = .prefill ∧ (seqOf q t).ten = h.ten.toNat ∧ (seqOf q t).len = (if h.op = 0 then 0 else r.len) ∧
        (seqOf q t).prompt = (tokens.map BitVec.toNat).take h.ntok.toNat ∧ (seqOf q t).undo = some r.state ∧
        (seqOf q t).kmax = min h.kmax.toNat 8 ∧ (seqOf q t).samp = promptSampling h ∧ (seqOf q t).maxNew = h.maxnew.toNat ∧
        (h.op = 0 → (seqOf q t).epoch = getF (Reg.Wgt.epoch.at wgtBase) s ∧ (seqOf q t).adapter = tn.adapter.map (fun a => a.1)) ∧
        (seqOf q t).order = s.sched.orderNext ∧ (∀ p, p ≠ q → seqOf p t = seqOf p s) ∧
        t.sched = { s.sched with seqs := t.sched.seqs, orderNext := s.sched.orderNext + 1 } ∧
        getF (Reg.Ring.head.at (ringBase ring)) t = (getF (Reg.Ring.head.at (ringBase ring)) s + 1) % 2 ^ 32 ∧
        sameFields ([Reg.Ring.head.at (ringBase ring), Reg.Glb.clampCnt, Reg.Glb.clampLast] ++ reportFields) s t ∧
        quiet { t with sched := s.sched } = quiet s) ∧
    (∀ d, promptRule h s = some d →
      ∃ u, exec (.promptEntry ring h tokens) s = .next (emit 0x0003 h.ten.toNat q (lastStep u) d u) ∧
        getF (Reg.Ring.head.at (ringBase ring)) u = (getF (Reg.Ring.head.at (ringBase ring)) s + 1) % 2 ^ 32 ∧
        sameFields [Reg.Ring.head.at (ringBase ring)] s u ∧ quiet u = quiet s)

/-- Where the part may compose and the reduced composition is admissible and fits the budget, no offered chunk holds a bad
token, every epoch is installed, the plan's flag words lie in the partition and its loads name empty banks, STEP_COMPOSE
puts a step of the next number in flight: its entries are the composed sequences with their depths and chunks, each of
which is marked as in it, and no other sequence changes. (R177, R180, R181, R184, R190, R191, R305) -/
def Obligations.StepComposition : Prop :=
  ∀ (s : State) (c : Composition), mayCompose c.lost c.wave s = true →
    let s1 := setF (Reg.Sch.ratioCur.at schBase) (shareNext (leastAllowance c.costs s) s) s
    let chunk := min (getF (Reg.Sch.chunk.at schBase) s) (getF (Reg.Sch.limMaxPos.at schBase) s)
    let x0 : Shape := ⟨c.gens.map (fun g => (g, min g.drawn (nextDepth (seqOf g.seq.toNat s1) s1))),
      c.pres.map (fun p => (p, chunkLen chunk p s1))⟩
    let x := reduce c.costs s1 (32 + c.gens.length + c.pres.length) x0
    let n := if c.lost then s.lnk.lostNext else s.sched.nextStep
    let qs := x.gens.map (fun g => g.1.seq) ++ x.pres.map (fun p => p.1.seq)
    screenPrompts chunk c.pres s1 = (c.pres, s1) →
    admissible c x (shareNext (leastAllowance c.costs s) s) s1 = true → fits c.costs x s1 = true → stepOf n s = none →
    (∀ q ∈ qs, installedHere (seqOf q.toNat s).epoch s = true) → (∀ f ∈ c.flags, isFlagWord f.1 s = true) →
    (c.loads.map fun l => (l.tile, l.bank)).Nodup →
    (∀ l ∈ c.loads, (SMap.get dfltBank s.banks (l.tile.toNat * 2 + (if l.bank then 1 else 0))).state = .empty) →
    ∃ t, exec (.stepCompose c) s = .next t ∧
      (∃ r, stepOf n t = some r ∧ r.composedAt = now s ∧ r.accepted = none ∧ r.plan.wave = c.wave ∧
        (r.plan.entries.map fun e => (e.seq, e.gen, e.k, e.chunk)) =
          x.gens.map (fun g => (g.1.seq, true, g.2, 0)) ++ x.pres.map (fun p => (p.1.seq, false, 0, p.2))) ∧
      (t.sched.steps.map fun r => r.plan.step) = (s.sched.steps.map fun r => r.plan.step) ++ [n] ∧
      (if c.lost then t.lnk.lostNext = n + 1 ∧ t.sched.nextStep = s.sched.nextStep
        else t.sched.nextStep = n + 1 ∧ t.lnk.lostNext = s.lnk.lostNext) ∧
      (∀ q ∈ qs, seqOf q.toNat t = { seqOf q.toNat s with inStep := some n, stepped := n, undo := none }) ∧
      (∀ p, p ∉ qs.map BitVec.toNat → seqOf p t = seqOf p s) ∧
      (∀ k, (∀ f ∈ c.flags, k < f.1 ∨ f.1 + 8 ≤ k) → sramByte k t = sramByte k s ∨ sramByte k t = 0) ∧
      sameFields ([Reg.Sch.ratioCur.at schBase, Reg.Sch.budgetCut.at schBase] ++ reportFields) s t ∧
      t.wgt = { s.wgt with live := t.wgt.live } ∧ t.lnk = { s.lnk with ports := t.lnk.ports, lostNext := t.lnk.lostNext } ∧
      t.host.openCmds = s.host.openCmds ∧ t.arrs = s.arrs ∧ t.pnts = s.pnts ∧ t.vecs = s.vecs ∧ t.mnt = s.mnt ∧ t.mtr = s.mtr ∧
      t.sec = s.sec ∧ t.ens = s.ens ∧ t.cfg = s.cfg

/-- A part that does not compose the step and does not have it in flight takes a STEP_PLAN: the step is in flight with that
plan, not started, and the part remembers where plans come from. No sequence record, array or pennant changes; of SRAM
only the plan's flag words and the lines of blocks that its formats free. (R181, R224, R257, R348, Table 7-4) -/
def Obligations.StepPlans : Prop :=
  ∀ (s : State) (src : BitVec 10) (p : Plan), headFor p.step s = false → stepOf p.step s = none →
    ∃ t, exec (.stepPlan src p) s = .next t ∧
      (∃ r, stepOf p.step t = some r ∧ r.plan = p ∧ r.composedAt = now s ∧ r.started = false ∧ r.accepted = none) ∧
      (t.sched.steps.map fun r => r.plan) = (s.sched.steps.map fun r => r.plan) ++ [p] ∧ t.sched.seqs = s.sched.seqs ∧
      (if lostBase ≤ p.step then t.lnk.lostHeadPod = some src.toNat else t.sched.headPod = some src.toNat) ∧
      (∀ k, (∀ f ∈ p.flags, k < f.1 ∨ f.1 + 8 ≤ k) → sramByte k t = sramByte k s ∨ sramByte k t = 0) ∧
      sameFields ((p.loads.flatMap fun l => [Reg.Bnt.refuseCnt.at (bntBase l.tile.toNat), Reg.Bnt.refused.at (bntBase l.tile.toNat)]) ++
        [Reg.Flg.addrCnt.at flgBase] ++ reportFields) s t ∧
      t.arrs = s.arrs ∧ t.pnts = s.pnts ∧ t.vecs = s.vecs ∧ t.mnt = s.mnt ∧ t.mtr = s.mtr ∧ t.sec = s.sec ∧ t.ens = s.ens ∧
      t.cfg = s.cfg ∧ t.host.openCmds = s.host.openCmds

/-- COMMIT_READY at the part that composes the step adds the sending position to the parts that are ready. ACCEPTANCE of a
step in flight that holds none yet is held there with its counts and tokens; a step whose key/value entries are written
and that awaits no mirror acknowledgement has then sent its commit-ready. The other steps and every sequence record
stand. (R181, R301, R303) -/
def Obligations.ReadinessAndAcceptance : Prop :=
  (∀ (s : State) (n pos : Nat) (r : StepRec), headFor n s = true → stepOf n s = some r →
    ∃ t, exec (.commitReady n pos) s = .next t ∧
      (∃ r', stepOf n t = some r' ∧ (∀ p, p ∈ r'.ready ↔ p ∈ r.ready ∨ p = pos) ∧ r' = { r with ready := r'.ready, readyAt := r'.readyAt }) ∧
      (∀ m, m ≠ n → stepOf m t = stepOf m s) ∧ sameFields [] s t ∧
      t = { s with
        sched := { s.sched with steps := t.sched.steps }, lnk := { s.lnk with heard := t.lnk.heard, silent := t.lnk.silent } }) ∧
  (∀ (s : State) (n : Nat) (l : List Accepted) (r : StepRec), stepOf n s = some r → r.accepted = none →
    (r.kvDone = false ∨ (r.unacked = 0 ∧ r.readySent = false)) →
    ∃ t, exec (.acceptance n l) s = .next t ∧
      (∃ r', stepOf n t = some r' ∧ r'.accepted = some l ∧ r'.readySent = (r.readySent || r.kvDone) ∧
        r' = { r with accepted := r'.accepted, readySent := r'.readySent, ready := r'.ready, readyAt := r'.readyAt }) ∧
      (∀ m, m ≠ n → stepOf m t = stepOf m s) ∧ sameFields [] s t ∧
      t = { s with
        sched := { s.sched with steps := t.sched.steps }
        lnk := { s.lnk with heard := t.lnk.heard, silent := t.lnk.silent, ports := t.lnk.ports } })

/-- The head part commits a step that every part is ready for and that is the oldest of its instance: the step leaves flight
and no other does, SCH_LASTSTEP shows it where it is of the part's own instance, the count of steps is one up, and each
of its sequences that neither ends nor is held for a pause or release keeps its state's rules: its length grows by the
positions committed and it is in no step. Sequences outside the step stand. (R185, R194, R228, R318, Table 7-2) -/
def Obligations.StepCommit : Prop :=
  ∀ (s : State) (n : Nat) (r : StepRec), stepOf n s = some r → headFor n s = true → allReady r s = true →
    (∀ x ∈ s.sched.steps, n ≤ x.plan.step ∨ (lostBase ≤ n ∧ x.plan.step < lostBase)) →
    ∃ t, exec (.stepCommit n) s = .next t ∧
      (t.sched.steps.map fun x => x.plan) = (s.sched.steps.filter fun x => ¬ x.plan.step = n).map (fun x => x.plan) ∧
      getF (Reg.Sch.lastStep.at schBase) t = (if n < lostBase then n else getF (Reg.Sch.lastStep.at schBase) s) ∧
      getF (Reg.Sch.stepCnt.at schBase) t = (getF (Reg.Sch.stepCnt.at schBase) s + 1) % 2 ^ 32 ∧
      ((r.plan.entries.map fun e => e.seq).Nodup → ∀ e ∈ r.plan.entries,
        let x := seqOf e.seq.toNat s
        let d := commitEntry e (r.accepted.getD []) s
        d.2.2.2 = 0 → x.releasing = false → x.pausing = none →
          (seqOf e.seq.toNat t).len = e.len + d.2.1 ∧ (seqOf e.seq.toNat t).inStep = none ∧ (seqOf e.seq.toNat t).retry = 0 ∧
          (seqOf e.seq.toNat t).ten = x.ten ∧ (seqOf e.seq.toNat t).newCount = x.newCount + d.2.2.1) ∧
      (∀ q, q ∉ r.plan.entries.map (fun e => e.seq.toNat) → seqOf q t = seqOf q s) ∧
      (∀ k, sramByte k t = sramByte k s ∨ sramByte k t = 0) ∧
      t.arrs = s.arrs ∧ t.pnts = s.pnts ∧ t.mnt = s.mnt ∧ t.mtr = s.mtr ∧ t.sec = s.sec ∧ t.ens = s.ens ∧ t.cfg = s.cfg ∧ t.wgt = s.wgt

/-- At the head part STEP_FAIL of a step in flight, and STEP_TIMEOUT of one older than SCH_TMO.TIMEOUT, take the step out of
flight and count it; a sequence of it that is not being released and is below the retry limit counts one retry and is in
no step, and sequences outside it stand. On another part ABORT_MESSAGE takes the step out of flight; COMMIT_MESSAGE does
too and shows the step in SCH_LASTSTEP. (R182, R185, R186, Table 7-2, Table 7-9) -/
def Obligations.StepEnds : Prop :=
  (∀ (s : State) (n cause : Nat) (r : StepRec) (c : Instr), stepOf n s = some r → headFor n s = true →
    (c = .stepFail n cause ∨
      (c = .stepTimeout n ∧ r.composedAt + ticksUs (getF (Reg.Sch.tmoTimeout.at schBase) s) ≤ now s)) →
    ∃ t, exec c s = .next t ∧
      (t.sched.steps.map fun x => x.plan) = (s.sched.steps.filter fun x => ¬ x.plan.step = n).map (fun x => x.plan) ∧
      getF (Reg.Sch.failCnt.at schBase) t = (getF (Reg.Sch.failCnt.at schBase) s + 1) % 2 ^ 32 ∧
      ((r.plan.entries.map fun e => e.seq).Nodup → ∀ e ∈ r.plan.entries,
        let x := seqOf e.seq.toNat s
        x.releasing = false → x.retry < getF (Reg.Sch.tmoRetryMax.at schBase) s →
          seqOf e.seq.toNat t = { x with inStep := none, retry := x.retry + 1 }) ∧
      (∀ q, q ∉ r.plan.entries.map (fun e => e.seq.toNat) → seqOf q t = seqOf q s) ∧
      (∀ k, sramByte k t = sramByte k s ∨ sramByte k t = 0) ∧
      sameFields ([Reg.Sch.failCnt.at schBase, Reg.Sch.seqFailCnt.at schBase] ++ reportFields) s t ∧
      t.mnt = s.mnt ∧ t.mtr = s.mtr ∧ t.sec = s.sec ∧ t.ens = s.ens ∧ t.cfg = s.cfg ∧ t.wgt = s.wgt) ∧
  (∀ (s : State) (n : Nat) (lens : List Nat) (c : Instr), headFor n s = false → (stepOf n s).isSome = true →
    (c = .abortMessage n ∨ c = .commitMessage n lens) →
    ∃ t, exec c s = .next t ∧
      (t.sched.steps.map fun x => x.plan) = (s.sched.steps.filter fun x => ¬ x.plan.step = n).map (fun x => x.plan) ∧
      t.sched.seqs = s.sched.seqs ∧
      getF (Reg.Sch.lastStep.at schBase) t =
        (if c = .commitMessage n lens ∧ n < lostBase then n else getF (Reg.Sch.lastStep.at schBase) s) ∧
      (∀ k, sramByte k t = sramByte k s ∨ sramByte k t = 0) ∧ sameFields [Reg.Sch.lastStep.at schBase] s t ∧
      t.mnt = s.mnt ∧ t.mtr = s.mtr ∧ t.sec = s.sec ∧ t.ens = s.ens ∧ t.cfg = s.cfg ∧ t.wgt = s.wgt)

/-- With nothing else waiting, a live request that can be granted is granted with its resources and its claim, and one that
cannot waits; the end of a granted activity releases exactly its grant; a waiting request older than MNT_CTL.AGE that
still cannot be granted takes rank 0 once. Grants, waits and aged requests are counted. (R371, R372, R373, R374, Table
14-7) -/
def Obligations.MaintenanceArbiter : Prop :=
  (∀ (s : State) (m : MntAct) (res : List Nat), s.mnt.waiting = [] → actLive m s = true →
    s.mnt.granted.all (fun g => g.act ≠ m) = true →
    (grantable ⟨m, now s, false, false⟩ s = some res →
      ∃ t, exec (.maintRequest m) s = .next t ∧ t.mnt = ⟨[], s.mnt.granted ++ [⟨m, res, actClaim m⟩]⟩ ∧
        getF (Reg.Pwr.grantCnt.at pwrBase) t = (getF (Reg.Pwr.grantCnt.at pwrBase) s + 1) % 2 ^ 32 ∧
        t.sram = s.sram ∧ t.sched = s.sched ∧ t.wgt = s.wgt ∧ t.pwr = s.pwr ∧ t.mtr = s.mtr ∧ t.sec = s.sec ∧ t.ens = s.ens ∧
        t.cfg = s.cfg ∧ t.flt = s.flt) ∧
    (grantable ⟨m, now s, false, false⟩ s = none →
      ∃ t, exec (.maintRequest m) s = .next t ∧ t.mnt = ⟨[⟨m, now s, false, true⟩], s.mnt.granted⟩ ∧
        getF (Reg.Pwr.waitCnt.at pwrBase) t = (getF (Reg.Pwr.waitCnt.at pwrBase) s + 1) % 2 ^ 32 ∧
        sameFields ([Reg.Pwr.waitCnt.at pwrBase] ++ (match m with | .spareProg a => [arrF Reg.Pnt.stNoSpare a] | _ => []) ++
          reportFields) s t ∧ quiet { t with mnt := s.mnt } = quiet s)) ∧
  (∀ (s : State) (m : MntAct), s.mnt.waiting = [] → holds m s = true →
    ∃ t, exec (.maintActivityEnd m) s = .next t ∧ t.mnt = ⟨[], s.mnt.granted.filter fun g => ¬ g.act = m⟩ ∧
      (m ≠ .compaction → t = { s with mnt := t.mnt }) ∧ sameFields [Reg.Kvc.nonce.at kvcBase] s t ∧
      t = { s with mnt := t.mnt, regs := t.regs, kv := { s.kv with reserved := t.kv.reserved }, mtr := t.mtr,
                   lnk := { s.lnk with mirror := t.lnk.mirror } }) ∧
  (∀ (s : State) (r : MntReq), s.mnt.waiting = [r] → r.aged = false →
    r.arrival + ticksS (getF (Reg.Pwr.mntAge.at pwrBase) s) < now s → actLive r.act s = true → grantable r s = none →
    ∃ t, exec (.maintAge r.act) s = .next t ∧ t.mnt = ⟨[{ r with aged := true, waited := true }], s.mnt.granted⟩ ∧
      getF (Reg.Pwr.agedCnt.at pwrBase) t = (getF (Reg.Pwr.agedCnt.at pwrBase) s + 1) % 2 ^ 32 ∧
      sameFields ([Reg.Pwr.agedCnt.at pwrBase, Reg.Pwr.waitCnt.at pwrBase] ++
        (match r.act with | .spareProg a => [arrF Reg.Pnt.stNoSpare a] | _ => []) ++ reportFields) s t ∧
      quiet { t with mnt := s.mnt } = quiet s)

/-- A vector whose segments carry their maxima, none of whose arrays has a full buffer and whose step is not held, joins the
pennant's accumulations with its tag and input exponent. Where its maximum is finite, the arrays of its chain were idle
and zero vectors are read too, each of them holds the integers x = RNE(u × 2^−E) of its rows. No other pennant or array
changes. (R49, R110, R128, R129, R130) -/
def Obligations.QuantisedVectors : Prop :=
  ∀ (s : State) (p : PntIx) (tag : VecTag) (segs : List Segment),
    let arrs := chainArrays p.toNat tag s
    let a := (segs.map fun g => g.max.getD 0).foldl maxNanF32 0
    let w := getF (pntF Reg.Pnt.width p.toNat) s
    let e := inputExp (widthQ w) (f32 a)
    let xs := (segs.flatMap segVals).map (quantise (widthQ w) e)
    arrs ≠ [] → (∀ x ∈ s.pwr.held, x.1 ≠ tag.step) → (∀ g ∈ segs, g.max.isSome = true) →
    (∀ b ∈ arrs, (arrOf b s).buf.length < 8) →
    ∃ t, exec (.quantiseVector p tag segs) s = .next t ∧
      ((pntOf p.toNat t).accs.map fun v => (v.tag, v.e)) = ((pntOf p.toNat s).accs.map fun v => (v.tag, v.e)) ++ [(tag, e)] ∧
      (nonFinite (f32 a) = false → isSet (pntF Reg.Pnt.zeroVecEn p.toNat) s = false →
        ∀ b ∈ arrs, (arrOf b s).buf = [] → (arrOf b t).buf = [⟨tag.vid, tag.step, tag.ten, e, spanOf b xs s, false⟩]) ∧
      (nonFinite (f32 a) = true →
        getF (pntF Reg.Pnt.nanVecCnt p.toNat) t = (getF (pntF Reg.Pnt.nanVecCnt p.toNat) s + 1) % 2 ^ (pntF Reg.Pnt.nanVecCnt p.toNat).w) ∧
      (∀ b, b ∉ arrs → arrOf b t = arrOf b s) ∧ (∀ q, q ≠ p.toNat → pntOf q t = pntOf q s) ∧
      sameFields [pntF Reg.Pnt.nanVecCnt p.toNat, pntF Reg.Pnt.zeroVecCnt p.toNat, pntF Reg.Pnt.accEff p.toNat] s t ∧
      t = { s with regs := t.regs, arrs := t.arrs, pnts := t.pnts }

/-- An array that serves, with its converters on and its stores clean, reads the vector at the front of its buffer: the
vector leaves the buffer, the late codes are counted, and the read draws one free value for each averaged sample.
SLICE_RETRY of a read with a slice to be read again draws one more. Neither touches SRAM, the steps, the weights or the
configuration. (R48, R58, R61, R62, R75, R130) -/
def Obligations.ArrayReads : Prop :=
  (∀ (s : State) (a : ArrayIx) (idle : Bool) (lates : List (Nat × Nat)) (v : InVec) (l : List InVec),
    let p := a.toNat / 16
    (arrOf a.toNat s).buf = v :: l → v.bad = false →
    (v.xs.all (fun x => x = 0) = false ∨ isSet (pntF Reg.Pnt.zeroVecEn p) s = false) →
    convOn (a.toNat / 256) s = true → (serves a.toNat s = true ∨ arrState a.toNat s = 5) →
    standinOf a.toNat s = none → cflts a.toNat s = [] →
    ∃ t, exec (.arrayRead a idle lates .clean .clean) s = .next t ∧
      t.fresh = s.fresh + 2 ^ getF (pntF Reg.Pnt.avg p) s ∧ (∃ k, (arrOf a.toNat t).buf = l.drop k) ∧
      getF (pntF Reg.Pnt.lateCnt p) t = (getF (pntF Reg.Pnt.lateCnt p) s + lates.length) % 2 ^ (pntF Reg.Pnt.lateCnt p).w ∧
      t.sram = s.sram ∧ t.sched = s.sched ∧ t.wgt = s.wgt ∧ t.ens = s.ens ∧ t.cfg = s.cfg ∧ t.sec = s.sec ∧ t.vecs = s.vecs ∧
      t.banks = s.banks ∧ t.pwr = s.pwr ∧ t.hoists = s.hoists ∧ t.sync = s.sync) ∧
  (∀ (s : State) (a : ArrayIx) (lates : List (Nat × Nat)),
    let p := a.toNat / 16
    (∃ rd ∈ (arrOf a.toNat s).reads, ∃ sl ∈ rd.slices, sl.settled = false) →
    ∃ t, exec (.sliceRetry a lates) s = .next t ∧ t.fresh = s.fresh + 1 ∧
      getF (pntF Reg.Pnt.lateCnt p) t = (getF (pntF Reg.Pnt.lateCnt p) s + lates.length) % 2 ^ (pntF Reg.Pnt.lateCnt p).w ∧
      t.sram = s.sram ∧ t.sched = s.sched ∧ t.wgt = s.wgt ∧ t.ens = s.ens ∧ t.cfg = s.cfg ∧ t.sec = s.sec ∧ t.vecs = s.vecs ∧
      t.banks = s.banks ∧ t.pwr = s.pwr ∧ t.hoists = s.hoists ∧ t.sync = s.sync)

/-- SUSPECT_WINDOW_END of a SUSPECT array whose window has run returns it to SERVICE with its count at 0.
CHECK_STANDIN_START with one flagged checksum converter lets the check converter stand in for it, and CHECK_STANDIN_END
ends a stand-in that is no longer called for. DWELL_END moves the rotation on when a finished dwell does not confirm,
flags the checksum converter when it does, and clears a flagged one whose dwell does not confirm. (R65, R82, R83, R84,
R85) -/
def Obligations.SuspectsAndCheckConverter : Prop :=
  (∀ (s : State) (a : ArrayIx), arrState a.toNat s = 2 → s.mnt.waiting = [] →
    2 ^ (getF (pntF Reg.Pnt.confWindow (a.toNat / 16)) s + 10) ≤ (arrOf a.toNat s).winReads →
    exec (.suspectWindowEnd a) s = .next (setArrState a.toNat 1 (setF (arrF Reg.Pnt.stSuspCnt a.toNat) 0 s))) ∧
  (∀ (s : State) (a : ArrayIx) (m : Nat), standinOf a.toNat s = none → cflts a.toNat s = [m] → chkFlt a.toNat s = false →
    ∃ t, exec (.checkStandinStart a) s = .next t ∧ standinOf a.toNat t = some m ∧
      sameFields [arrF Reg.Pnt.cvStandin a.toNat, arrF Reg.Pnt.cvStandinM a.toNat] s t ∧ t = { s with regs := t.regs }) ∧
  (∀ (s : State) (a : ArrayIx) (m : Nat), standinOf a.toNat s = some m → (m ∉ cflts a.toNat s ∨ chkFlt a.toNat s = true) →
    exec (.checkStandinEnd a) s = .next (setF (arrF Reg.Pnt.cvStandin a.toNat) 0 s)) ∧
  (∀ (s : State) (a : ArrayIx) (d : Dwell),
    let r := arrOf a.toNat s
    let p := a.toNat / 16
    r.dwell = some d → d.need ≤ d.made →
    (d.wrong < d.confirm → d.col / 4 ∉ cflts a.toNat s →
      ∃ t, exec (.dwellEnd a) s = .next t ∧ arrOf a.toNat t = { r with dwell := none, rot := (r.rot + 1) % 16 } ∧
        (∀ b, b ≠ a.toNat → arrOf b t = arrOf b s) ∧ getF (arrF Reg.Pnt.cvDwellOn a.toNat) t = 0 ∧
        getF (pntF Reg.Pnt.dwellCnt p) t = (getF (pntF Reg.Pnt.dwellCnt p) s + 1) % 2 ^ (pntF Reg.Pnt.dwellCnt p).w ∧
        sameFields [arrF Reg.Pnt.cvDwellOn a.toNat, pntF Reg.Pnt.dwellCnt p] s t ∧
        t = { s with regs := t.regs, arrs := t.arrs }) ∧
    (d.confirm ≤ d.wrong → cflts a.toNat s = [] → chkFlt a.toNat s = false → r.cal.chkFailed = false →
      d.col < 16 →
      ∃ t, exec (.dwellEnd a) s = .next t ∧ cflts a.toNat t = [d.col / 4] ∧ (arrOf a.toNat t).dwell = none ∧
        getF (pntF Reg.Pnt.flagCnt p) t = (getF (pntF Reg.Pnt.flagCnt p) s + 1) % 2 ^ (pntF Reg.Pnt.flagCnt p).w ∧
        sameFields ([arrF Reg.Pnt.cvDwellOn a.toNat, arrF Reg.Pnt.cvCflt a.toNat, pntF Reg.Pnt.flagCnt p] ++ reportFields) s t ∧
        quiet { t with arrs := s.arrs } = quiet s) ∧
    (d.wrong < d.confirm → d.col / 4 ∈ cflts a.toNat s →
      ∃ t, exec (.dwellEnd a) s = .next t ∧ (∀ m, m ∈ cflts a.toNat t ↔ m ∈ cflts a.toNat s ∧ m ≠ d.col / 4) ∧
        (arrOf a.toNat t).dwell = none ∧
        getF (pntF Reg.Pnt.dwellCnt p) t = (getF (pntF Reg.Pnt.dwellCnt p) s + 1) % 2 ^ (pntF Reg.Pnt.dwellCnt p).w ∧
        sameFields [arrF Reg.Pnt.cvDwellOn a.toNat, arrF Reg.Pnt.cvCflt a.toNat, pntF Reg.Pnt.dwellCnt p] s t ∧
        t = { s with regs := t.regs, arrs := t.arrs }))

/-- CONV_EN is written 1 only with the reference SETTLED, and then the hoist's pennants owe an initial calibration; it is
written 0 only while no array of the hoist serves; another write is counted as ignored. A gate whose ramp ends is open
or closed as it was asked, and a VCORE gate clears SETTLED. SETTLED sets at the eighth steady reading in the window, and
clears with REF_LOST when, with the converters on, a reading leaves the window. (R78, R79, R80, R278, R358, Table 19-10) -/
def Obligations.ConvertersAndReferences : Prop :=
  (∀ (s : State) (h : HoistIx),
    (isSet (hoistF Reg.Hoist.refSettled h.toNat) s = false →
      exec (.convEnable h true) s = .next (countIgnored (hoistBase h.toNat + 0x100) s)) ∧
    (isSet (hoistF Reg.Hoist.refSettled h.toNat) s = true → convOn h.toNat s = false →
      ∃ t, exec (.convEnable h true) s = .next t ∧ convOn h.toNat t = true ∧
        (∀ i, i < 16 → (pntOf (h.toNat * 16 + i) t).initial = true) ∧ (∀ p, p / 16 ≠ h.toNat → pntOf p t = pntOf p s) ∧
        (∀ b, b / 256 ≠ h.toNat → arrOf b t = arrOf b s) ∧ (h.toNat, true, true) ∈ t.pwr.ramping ∧
        sameFields [hoistF Reg.Hoist.convEn h.toNat, Reg.Glb.state] s t ∧
        t = { s with regs := t.regs, pnts := t.pnts, arrs := t.arrs, pwr := { s.pwr with ramping := t.pwr.ramping } }) ∧
    ((∃ i, i < 256 ∧ serves (h.toNat * 256 + i) s = true) →
      exec (.convEnable h false) s = .next (countIgnored (hoistBase h.toNat + 0x100) s)) ∧
    ((∀ i, i < 256 → serves (h.toNat * 256 + i) s = false) → convOn h.toNat s = true → s.mnt.waiting = [] →
      ∃ t, exec (.convEnable h false) s = .next t ∧ convOn h.toNat t = false ∧
        t.mnt.granted = s.mnt.granted.filter (fun g => !(isHoistRound h.toNat g.act)) ∧ t.mnt.waiting = [] ∧
        (∀ i, i < 16 → (pntOf (h.toNat * 16 + i) t).round = false ∧ (pntOf (h.toNat * 16 + i) t).initial = false) ∧
        (∀ p, p / 16 ≠ h.toNat → pntOf p t = pntOf p s) ∧ (h.toNat, true, false) ∈ t.pwr.ramping ∧
        sameFields [hoistF Reg.Hoist.convEn h.toNat] s t ∧
        t = { s with regs := t.regs, pnts := t.pnts, mnt := t.mnt, pwr := { s.pwr with ramping := t.pwr.ramping } })) ∧
  (∀ (s : State) (h : HoistIx) (vana opening : Bool), (s.pwr.ramping.take 4).find? (fun x => x.1 = h.toNat ∧ x.2.1 = vana) =
      some (h.toNat, vana, opening) →
    ∃ t, exec (.hoistGateRampDone h vana) s = .next t ∧ (h.toNat, vana, opening) ∉ t.pwr.ramping ∧
      (vana = true → (h.toNat ∈ t.pwr.vana ↔ opening = true) ∧ t.pwr.core = s.pwr.core ∧ t.hoists = s.hoists ∧
        sameFields [Reg.Glb.state] s t) ∧
      (vana = false → (h.toNat ∈ t.pwr.core ↔ opening = true) ∧ t.pwr.vana = s.pwr.vana ∧ hoistOf h.toNat t = ⟨[], 0⟩ ∧
        isSet (hoistF Reg.Hoist.refSettled h.toNat) t = false ∧
        sameFields [hoistF Reg.Hoist.refSettled h.toNat, Reg.Glb.dataRun] s t) ∧
      t = { s with regs := t.regs, hoists := t.hoists,
                   pwr := { s.pwr with ramping := t.pwr.ramping, vana := t.pwr.vana, core := t.pwr.core } }) ∧
  (∀ (s : State) (h : HoistIx) (uv vana : Nat), h.toNat ∈ s.pwr.core →
    let r := hoistOf h.toNat s
    let inWin := refWindow (getF (hoistF Reg.Hoist.refSrc h.toNat) s) uv vana
    (isSet (hoistF Reg.Hoist.refSettled h.toNat) s = false → inWin = true → steady ((uv :: r.readings).take 8) = true →
      ∃ t, exec (.referenceReading h uv vana) s = .next t ∧ isSet (hoistF Reg.Hoist.refSettled h.toNat) t = true ∧
        hoistOf h.toNat t = ⟨(uv :: r.readings).take 8, uv⟩ ∧ (∀ k, k ≠ h.toNat → hoistOf k t = hoistOf k s) ∧
        sameFields [hoistF Reg.Hoist.refSettled h.toNat] s t ∧ t = { s with regs := t.regs, hoists := t.hoists, arrs := t.arrs }) ∧
    (isSet (hoistF Reg.Hoist.refSettled h.toNat) s = true → convOn h.toNat s = true → inWin = false →
      ∃ t, exec (.referenceReading h uv vana) s = .next t ∧ isSet (hoistF Reg.Hoist.refSettled h.toNat) t = false ∧
        isSet (hoistF Reg.Hoist.refLost h.toNat) t = true ∧ hoistOf h.toNat t = ⟨[], r.settledAt⟩ ∧
        sameFields ([hoistF Reg.Hoist.refSettled h.toNat, hoistF Reg.Hoist.refLost h.toNat] ++ reportFields) s t ∧
        quiet { t with hoists := s.hoists } = quiet s))

/-- In a round with the reference SETTLED, a cycle of distinct quantities that all meet their limits puts the measured
values in force, leaves every other value, and ends the array's waivers with LTIME as its last pass. An array in
REVERIFY does so under the grant of its diagnostic read, with step limits waived and outside any round. A delay-line
count within its limits puts the unit delay and the integration count in force. A forced round waives the step limits of
the sixteen arrays and asks for the round. An array older than its age limit sets its OLD bit and is reported. (R85,
R86, R89, R90, R91, R95, R97, Table 3-6) -/
def Obligations.Calibration : Prop :=
  (∀ (s : State) (a : ArrayIx) (meas : List (Nat × Nat × Int)) (lates : Nat),
    let p := a.toNat / 16
    let key := fun (m : Nat × Nat × Int) => m.1 * 1024 + m.2.1
    convOn (a.toNat / 256) s = true → ((pntOf p s).round = true ∨ (pntOf p s).initial = true) → calibrates a.toNat s = true →
    (arrOf a.toNat s).cal.done = false → isSet (hoistF Reg.Hoist.refSettled (a.toNat / 256)) s = true →
    s.mnt.waiting = [] → (meas.map key).Nodup →
    (∀ m ∈ meas, (absLimits m.1).1 ≤ m.2.2 ∧ m.2.2 ≤ (absLimits m.1).2 ∧ (waived a.toNat m.1 m.2.1 s = true ∨
      stepOk m.1 (calVal a.toNat m.1 m.2.1 (arrOf a.toNat s).cal.vals) m.2.2 = true)) →
    ∃ t, exec (.calibrationCycleEnd a meas lates) s = .next t ∧
      (∀ m ∈ meas, SMap.get (fun _ => none) (arrOf a.toNat t).cal.vals (key m) = some m.2.2) ∧
      (∀ k, k ∉ meas.map key → SMap.get (fun _ => none) (arrOf a.toNat t).cal.vals k =
        SMap.get (fun _ => none) (arrOf a.toNat s).cal.vals k) ∧
      (arrOf a.toNat t).cal.done = true ∧ (arrOf a.toNat t).cal.lastPass = now s ∧ (arrOf a.toNat t).cal.waiveBand = false ∧
      (arrOf a.toNat t).cal.waiveStale = false ∧ (arrOf a.toNat t).cal.waiveAll = false ∧
      (∀ b, b ≠ a.toNat → arrOf b t = arrOf b s) ∧ (∀ q, q ≠ p → pntOf q t = pntOf q s) ∧
      getF (pntF Reg.Pnt.lateCnt p) t = (getF (pntF Reg.Pnt.lateCnt p) s + lates) % 2 ^ (pntF Reg.Pnt.lateCnt p).w ∧
      sameFields [pntF Reg.Pnt.lateCnt p, arrF Reg.Pnt.cvDfltIdx a.toNat, arrF Reg.Pnt.cvDfltCnt a.toNat,
        arrF Reg.Pnt.cvChkFlt a.toNat, pntF Reg.Pnt.calOld p, pntF Reg.Pnt.calStale p, pntF Reg.Pnt.calCount p,
        pntF Reg.Pnt.calFailCnt p, pntF Reg.Pnt.calLast p] s t ∧
      t = { s with regs := t.regs, arrs := t.arrs, pnts := t.pnts, mnt := t.mnt }) ∧
  (∀ (s : State) (a : ArrayIx) (meas : List (Nat × Nat × Int)) (lates : Nat),
    let p := a.toNat / 16
    let key := fun (m : Nat × Nat × Int) => m.1 * 1024 + m.2.1
    convOn (a.toNat / 256) s = true → arrState a.toNat s = 5 → holds (.diag a.toNat) s = true →
    isSet (hoistF Reg.Hoist.refSettled (a.toNat / 256)) s = true → (meas.map key).Nodup →
    (∀ m ∈ meas, (absLimits m.1).1 ≤ m.2.2 ∧ m.2.2 ≤ (absLimits m.1).2) →
    ∃ t, exec (.calibrationCycleEnd a meas lates) s = .next t ∧
      (∀ m ∈ meas, SMap.get (fun _ => none) (arrOf a.toNat t).cal.vals (key m) = some m.2.2) ∧
      (∀ k, k ∉ meas.map key → SMap.get (fun _ => none) (arrOf a.toNat t).cal.vals k =
        SMap.get (fun _ => none) (arrOf a.toNat s).cal.vals k) ∧
      (arrOf a.toNat t).cal.lastPass = now s ∧ (∀ b, b ≠ a.toNat → arrOf b t = arrOf b s) ∧ (∀ q, pntOf q t = pntOf q s) ∧
      getF (pntF Reg.Pnt.lateCnt p) t = (getF (pntF Reg.Pnt.lateCnt p) s + lates) % 2 ^ (pntF Reg.Pnt.lateCnt p).w ∧
      sameFields [pntF Reg.Pnt.lateCnt p, arrF Reg.Pnt.cvDfltIdx a.toNat, arrF Reg.Pnt.cvDfltCnt a.toNat,
        arrF Reg.Pnt.cvChkFlt a.toNat, pntF Reg.Pnt.calOld p, pntF Reg.Pnt.calStale p] s t ∧
      t = { s with regs := t.regs, arrs := t.arrs, pnts := t.pnts }) ∧
  (∀ (s : State) (a : ArrayIx) (c count : Nat), c ≤ 132 → 0 < count →
    let tu : Int := ((65536 * 1000000000000000 / 47000000 + count / 2) / count : Nat)
    15000 ≤ tu → tu ≤ 25000 →
    (waived a.toNat 5 c s = true ∨ stepOk 5 (calVal a.toNat 5 c (arrOf a.toNat s).cal.vals) tu = true) →
    ∃ t, exec (.delayLineCount a c count) s = .next t ∧
      SMap.get (fun _ => none) (arrOf a.toNat t).cal.vals (5 * 1024 + c) = some tu ∧
      SMap.get (fun _ => none) (arrOf a.toNat t).cal.vals (6 * 1024 + c) =
        some ((2 * (tInt (bandOf (regionOf (a.toNat / 256)) s) : Int) + tu) / (2 * tu)) ∧
      (∀ b, b ≠ a.toNat → arrOf b t = arrOf b s) ∧ t = { s with arrs := t.arrs }) ∧
  (∀ (s : State) (p : PntIx), s.mnt.waiting = [] →
    ∃ t, exec (.calForce p) s = .next t ∧ (∀ i, i < 16 → (arrOf (p.toNat * 16 + i) t).cal.waiveAll = true) ∧
      (∀ b, b / 16 ≠ p.toNat → arrOf b t = arrOf b s) ∧
      (actLive (.round p.toNat false) s = true →
        (∃ r ∈ t.mnt.waiting, r.act = .round p.toNat false) ∨ (∃ g ∈ t.mnt.granted, g.act = .round p.toNat false)) ∧
      sameFields [Reg.Pwr.grantCnt.at pwrBase, Reg.Pwr.waitCnt.at pwrBase] s t ∧
      t = { s with regs := t.regs, arrs := t.arrs, pnts := t.pnts, mnt := t.mnt }) ∧
  (∀ (s : State) (a : ArrayIx), convOn (a.toNat / 256) s = true → calibrates a.toNat s = true →
    let f := pntF Reg.Pnt.calOld (a.toNat / 16)
    (getF f s).testBit (a.toNat % 16) = false →
    (arrOf a.toNat s).cal.lastPass + 2 ^ (getF (pntF Reg.Pnt.calAge (a.toNat / 16)) s + 20) < now s →
    ∃ t, exec (.calibrationAgeLimit a) s = .next t ∧ (getF f t).testBit (a.toNat % 16) = true ∧
      (∀ i, i < 16 → i ≠ a.toNat % 16 → (getF f t).testBit i = (getF f s).testBit i) ∧
      sameFields (f :: reportFields) s t ∧ quiet t = quiet s)

/-- INSTALL of an EMPTY slot with a placement and no overlap makes it INSTALLING with the number of WGT_INST_EPOCH and sets
BUSY; of another slot it fails with error 12, without a placement with error 8. ATTACH of a DORMANT slot begins its
check; RELEASE of an idle epoch that is not WGT_EPOCH empties its slot, erases its key and sends WGT_RELEASED; ABORT of
the install fails it with error 14. A command that may not run is counted as ignored and changes nothing else. (R238,
R254, R255, R401, Table 9-8) -/
def Obligations.EpochSlots : Prop :=
  (∀ (s : State) (n : EpochSlot),
    let r := slotRec n.toNat s
    let ign : Host.Outcome State Fault Refusal := .next (countIgnored (wgtBase + 4) s)
    (wgtOpen s = false → exec (.wgtInstall n) s = ign ∧ exec (.wgtAttach n) s = ign) ∧
    (r.state ≠ .dormant → exec (.wgtAttach n) s = ign) ∧
    (r.state = .empty ∨ r.state = .installing → exec (.wgtRelease n) s = ign) ∧
    ((r.state = .installed ∨ r.state = .dormant) → epochIdle r.num s = false ∨ getF (wgtF Reg.Wgt.epoch) s = r.num →
      exec (.wgtRelease n) s = ign) ∧
    (r.state ≠ .installing ∨ (s.wgt.inst.map fun i => i.slot) ≠ some n.toNat → exec (.wgtAbort n) s = ign) ∧
    (r.state = .failed → exec (.wgtRelease n) s = .next (setSlot n.toNat (dfltSlot n.toNat) s))) ∧
  (∀ (s : State) (n : EpochSlot), wgtOpen s = true →
    let r := slotRec n.toNat s
    (r.state ≠ .empty →
      ∃ t, exec (.wgtInstall n) s = .next t ∧ getF (wgtF Reg.Wgt.err) t = 12 ∧ getF (wgtF Reg.Wgt.errSlot) t = n.toNat ∧
        sameFields ([wgtF Reg.Wgt.err, wgtF Reg.Wgt.errSlot] ++ reportFields) s t ∧ quiet t = quiet s) ∧
    (∀ p, r.state = .empty → placementOf n.toNat s = some p → overlaps n.toNat s = false → keysRefused s = false →
      ∃ t, exec (.wgtInstall n) s = .next t ∧ getF (wgtF Reg.Wgt.busy) t = 1 ∧
        t.wgt.inst = some ⟨n.toNat, false, .root, none, [], [], [], [], none⟩ ∧
        slotRec n.toNat t = { dfltSlot 0 with state := .installing, num := getF (wgtF Reg.Wgt.instEp) s, placement := p.digest } ∧
        (∀ k, k ≠ n.toNat → slotRec k t = slotRec k s ∧ tablesOf k t = tablesOf k s) ∧ tablesOf n.toNat t = ⟨[], []⟩ ∧
        sameFields [wgtF Reg.Wgt.busy] s t ∧
        t = { s with regs := t.regs, wgt := { s.wgt with inst := t.wgt.inst, slots := t.wgt.slots, tables := t.wgt.tables } }) ∧
    (r.state = .empty → placementOf n.toNat s = none →
      ∃ t, exec (.wgtInstall n) s = .next t ∧ (slotRec n.toNat t).state = .failed ∧ t.wgt.inst = none ∧
        getF (wgtF Reg.Wgt.err) t = 8 ∧ getF (wgtF Reg.Wgt.errSlot) t = n.toNat ∧ getF (wgtF Reg.Wgt.busy) t = 0 ∧
        (∀ k, k ≠ n.toNat → slotRec k t = slotRec k s) ∧ t.sram = s.sram ∧ t.sched = s.sched ∧ t.ens = s.ens ∧ t.cfg = s.cfg) ∧
    (r.state = .dormant → keysRefused s = false →
      ∃ t, exec (.wgtAttach n) s = .next t ∧ getF (wgtF Reg.Wgt.busy) t = 1 ∧
        t.wgt.inst = some ⟨n.toNat, true, .root, none, [], [], [], [], none⟩ ∧ sameFields [wgtF Reg.Wgt.busy] s t ∧
        t = { s with regs := t.regs, wgt := { s.wgt with inst := t.wgt.inst } }) ∧
    (r.state = .dormant → keysRefused s = true →
      ∃ t, exec (.wgtAttach n) s = .next t ∧ getF (wgtF Reg.Wgt.err) t = 3 ∧ getF (wgtF Reg.Wgt.errSlot) t = n.toNat ∧
        t.wgt.inst = none ∧ slotRec n.toNat t = { r with attachEnded := true } ∧
        (∀ k, k ≠ n.toNat → slotRec k t = slotRec k s) ∧
        sameFields ([wgtF Reg.Wgt.busy, wgtF Reg.Wgt.err, wgtF Reg.Wgt.errSlot] ++ reportFields) s t ∧
        quiet { t with wgt := s.wgt, sec := s.sec } = quiet s)) ∧
  (∀ (s : State) (n : EpochSlot), s.mnt.waiting = [] →
    let r := slotRec n.toNat s
    ((r.state = .installed ∨ r.state = .dormant) → epochIdle r.num s = true → getF (wgtF Reg.Wgt.epoch) s ≠ r.num →
      ∃ t, exec (.wgtRelease n) s = .next t ∧ slotRec n.toNat t = dfltSlot n.toNat ∧ tablesOf n.toNat t = dfltTables n.toNat ∧
        n.toNat ∉ t.sec.slotKeys ∧ (∀ k, k ≠ n.toNat → slotRec k t = slotRec k s ∧ tablesOf k t = tablesOf k s ∧
          (k ∈ t.sec.slotKeys ↔ k ∈ s.sec.slotKeys)) ∧
        t.sram = s.sram ∧ t.sched = s.sched ∧ t.ens = s.ens ∧ t.cfg = s.cfg ∧ t.kv = s.kv ∧ t.pnts = s.pnts ∧
        t.hoists = s.hoists ∧ t.vecs = s.vecs ∧ t.pwr = s.pwr ∧ t.mtr = s.mtr ∧ t.sync = s.sync) ∧
    (∀ x, r.state = .installing → s.wgt.inst = some x → x.slot = n.toNat → x.attach = false →
      ∃ t, exec (.wgtAbort n) s = .next t ∧ slotRec n.toNat t = { r with state := .failed } ∧ t.wgt.inst = none ∧
        n.toNat ∉ t.sec.slotKeys ∧ getF (wgtF Reg.Wgt.err) t = 14 ∧ getF (wgtF Reg.Wgt.errSlot) t = n.toNat ∧
        getF (wgtF Reg.Wgt.busy) t = 0 ∧ (∀ g ∈ t.mnt.granted, ∀ a, g.act ≠ .install a) ∧
        sameFields ([wgtF Reg.Wgt.busy, wgtF Reg.Wgt.err, wgtF Reg.Wgt.errSlot] ++ reportFields) s t ∧
        quiet { t with wgt := s.wgt, sec := s.sec, arrs := s.arrs, mnt := s.mnt } = quiet s))

/-- A component that the part does not read now changes nothing; one that cannot be read is noted as lost with its time. The
root of an install passes checks 1 and 2 and the checks of errors 13 and 11 in this order, and the first that fails
gives the error; a good root leads to the wrap record, a good wrap record to the sections, with the slot's key held. A
section or chunk with a wrong digest fails with error 5, an undecryptable chunk with error 6. A wanted good chunk gives
the array its target levels. (R233, R235, R237, R238, R247, R249, Table 9-5) -/
def Obligations.ImageChecks : Prop :=
  (∀ (s : State) (n : EpochSlot) (c : ImgComp),
    (∀ ok, compWanted n.toNat (compId c) s = false → exec (.imageComponentRead n c ok) s = .next s) ∧
    ((∀ l i, compId c ≠ .chunk l i) → compWanted n.toNat (compId c) s = true → s.mnt.waiting = [] →
      ∃ t, exec (.imageComponentRead n c false) s = .next t ∧ getF (wgtF Reg.Wgt.noSrc) t = 1 ∧
        t.wgt.lost.head? = some (n.toNat, compId c, now s) ∧
        sameFields (wgtF Reg.Wgt.noSrc :: reportFields) s t ∧ quiet { t with wgt := { t.wgt with lost := s.wgt.lost } } = quiet s) ∧
    ((∀ l, l ∈ s.wgt.lost → l.1 = n.toNat → l.2.1 = compId c → now s < l.2.2 + ticksS 10) → ∀ ok,
      exec (.sourceRetry n c ok) s = .next s)) ∧
  (∀ (s : State) (n : EpochSlot) (b : List Byte) (x : InstRec) (c : Instr), s.wgt.inst = some x → x.slot = n.toNat →
    x.phase = .root → x.attach = false → isSet (wgtF Reg.Wgt.bcReader) s = false →
    (c = .imageComponentRead n (.root b) true ∨
      (isSet (wgtF Reg.Wgt.bcReceive) s = true ∧ ∃ src, c = .imageComponent src (.root b)) ∨
      (c = .sourceRetry n (.root b) true ∧ ∃ at', s.wgt.lost = [(n.toNat, .root, at')] ∧ at' + ticksS 10 ≤ now s)) →
    let r := parseRoot b
    let code := if r.formOk = false ∨ Config.ed448Verify r.pubkey (Config.shake256 r.signed) r.sig = false then 1
      else if trusted r.pubkey s = false then 2 else if heldImage n.toNat r s = true then 13
      else if permits r.tiles r.streamed s = false then 11 else 0
    (code = 0 → ∃ t y, exec c s = .next t ∧ t.wgt.inst = some y ∧ y.slot = n.toNat ∧ y.phase = .wrap ∧ y.root = some r ∧
      y.attach = false ∧ slotRec n.toNat t = { slotRec n.toNat s with
        root := Config.shake256 b, modelId := r.modelId, imageVer := r.imageVer, publisher := Config.shake256 r.pubkey,
        tiles := r.tiles } ∧
      (∀ k, k ≠ n.toNat → slotRec k t = slotRec k s) ∧
      t = { s with wgt := { s.wgt with inst := t.wgt.inst, slots := t.wgt.slots, lost := t.wgt.lost } }) ∧
    (code ≠ 0 → ∃ t, exec c s = .next t ∧ t.wgt.inst = none ∧ (slotRec n.toNat t).state = .failed ∧
      getF (wgtF Reg.Wgt.err) t = code ∧ getF (wgtF Reg.Wgt.errSlot) t = n.toNat ∧ getF (wgtF Reg.Wgt.busy) t = 0 ∧
      t.sram = s.sram ∧ t.sched = s.sched ∧ t.ens = s.ens ∧ t.cfg = s.cfg)) ∧
  (∀ (s : State) (n : EpochSlot) (b : List Byte) (key : Option (List Byte)) (x : InstRec) (r : ImgRoot),
    s.wgt.inst = some x → x.slot = n.toNat → x.phase = .wrap → x.root = some r → x.attach = false → 0 < r.sects.length →
    let code := if keysRefused s = true ∨ b.take 64 ≠ idDigest ∨ fieldAt b 180 16 ≠ r.modelId ∨ fieldAt b 196 8 ≠ r.imageVer ∨
      key = none then 3 else if (Config.shake256 (commitLabel ++ key.getD [])).take 32 ≠ r.keyCommit then 4 else 0
    (code = 0 → ∃ t, exec (.imageComponentRead n (.wrap b key) true) s = .next t ∧
      t.wgt.inst = some { x with phase := .sections (List.range r.sects.length) } ∧ n.toNat ∈ t.sec.slotKeys ∧
      t = { s with wgt := { s.wgt with inst := t.wgt.inst }, sec := { s.sec with slotKeys := t.sec.slotKeys } }) ∧
    (code ≠ 0 → ∃ t, exec (.imageComponentRead n (.wrap b key) true) s = .next t ∧ t.wgt.inst = none ∧
      (slotRec n.toNat t).state = .failed ∧ getF (wgtF Reg.Wgt.err) t = code ∧ n.toNat ∉ t.sec.slotKeys)) ∧
  (∀ (s : State) (n : EpochSlot) (ix : Nat) (b : List Byte) (body : SectBody) (x : InstRec) (r : ImgRoot) (e : SectEntry)
      (left : List Nat),
    s.wgt.inst = some x → x.slot = n.toNat → x.phase = .sections left → ix ∈ left → x.root = some r → r.sects[ix]? = some e →
    x.attach = false → isSet (wgtF Reg.Wgt.bcReader) s = false →
    (Config.shake256 b ≠ e.digest → ∃ t, exec (.imageComponentRead n (.sect ix b body) true) s = .next t ∧
      t.wgt.inst = none ∧ (slotRec n.toNat t).state = .failed ∧ getF (wgtF Reg.Wgt.err) t = 5) ∧
    (Config.shake256 b = e.digest → (∃ k ∈ left, k ≠ ix) → ∀ cs bs, body = .layer cs bs →
      ∃ t, exec (.imageComponentRead n (.sect ix b body) true) s = .next t ∧
        t.wgt.inst = some { x with phase := .sections (left.filter fun i => ¬ i = ix) } ∧
        tablesOf n.toNat t = ⟨(tablesOf n.toNat s).blocks ++ bs.map (fun b => (e.slot, b)),
          (tablesOf n.toNat s).chunks ++ cs.map (fun c => (e.slot, c))⟩ ∧
        t = { s with wgt := { s.wgt with inst := t.wgt.inst, tables := t.wgt.tables } })) ∧
  (∀ (s : State) (n : EpochSlot) (l i : Nat) (b : List Byte) (plain : Option (List Byte)) (c : Nat × ChunkEntry),
    isSet (wgtF Reg.Wgt.bcReader) s = false →
    ((tablesOf n.toNat s).chunks.find? fun c => c.1 = l ∧ c.2.index = i) = some c → installing n.toNat s = true →
    (Config.shake256 b ≠ c.2.digest → ∃ t, exec (.imageComponentRead n (.chunk l i b plain) true) s = .next t ∧
      t.wgt.inst = none ∧ (slotRec n.toNat t).state = .failed ∧ getF (wgtF Reg.Wgt.err) t = 5) ∧
    (Config.shake256 b = c.2.digest → plain = none → chunkNamed n.toNat l i s = true →
      ∃ t, exec (.imageComponentRead n (.chunk l i b plain) true) s = .next t ∧
        t.wgt.inst = none ∧ (slotRec n.toNat t).state = .failed ∧ getF (wgtF Reg.Wgt.err) t = 6) ∧
    (∀ a blk ent p x, Config.shake256 b = c.2.digest → plain = some p → wantChunk n.toNat l i s = [a] →
      wantedBlock a s = some blk → entryOf blk s = some ent → (arrOf a s).job = some .install → s.wgt.inst = some x →
      residuesMatch ent p (residuesOf blk x.residues) = true →
      ∃ t, exec (.imageComponentRead n (.chunk l i b plain) true) s = .next t ∧
        arrOf a t = { arrOf a s with
          target := targetLevels ent p, residues := residuesOf blk x.residues, resBad := false, phase := .programming
          relax := getF (wgtF Reg.Wgt.pgmRelax) s, repass := getF (wgtF Reg.Wgt.pgmRepass) s } ∧
        (∀ k, k ≠ a → arrOf k t = arrOf k s) ∧
        getF Reg.Glb.clampCnt t % 2 ^ 32 = (getF Reg.Glb.clampCnt s + clampedWeights ent p) % 2 ^ 32 ∧
        sameFields [Reg.Glb.clampCnt, Reg.Glb.clampLast] s t ∧
        t = { s with regs := t.regs, arrs := t.arrs, flt := { s.flt with life := t.flt.life } })) ∧
  (∀ (s : State) (pod : BitVec 10) (l i : Nat), exec (.resendRequest pod l i) s = .next
    (if isSet (wgtF Reg.Wgt.bcReader) s then sendTo pod.toNat 0x20 l 0 1 (.component (.chunk l i)) s else s))

/-- A program that ends well leaves the target levels in the array, counts a program and a program cycle, releases its grant
and starts the rest; after the RELAX that was in force when the program began the readback is asked for. A passed
readback of an install puts the block in the array and counts it; a failed one below the REPASS that was in force when
the program began asks for the rows to be programmed again and counts them. A repair that fails its program or its last
readback retires the array. Stated where touch-up is off or no array is near the age that asks for one. (R239, R240,
R241, R242, R252, Table 2-8) -/
def Obligations.ArrayPrograms : Prop :=
  (∀ (s : State) (a : ArrayIx) (j : Job),
    let r := arrOf a.toNat s
    r.job = some j → r.phase = .programming → (programAct a.toNat s).isSome = true → s.mnt.waiting = [] →
    (getF (pntF Reg.Pnt.calStale (a.toNat / 16)) s).testBit (a.toNat % 16) = false →
    (∃ t, exec (.arrayProgramDone a true) s = .next t ∧
      arrOf a.toNat t = { r with levels := r.target, phase := .resting, restAt := now s } ∧
      (∀ k, k ≠ a.toNat → arrOf k t = arrOf k s) ∧
      getF (wgtF Reg.Wgt.pgmCnt) t = (getF (wgtF Reg.Wgt.pgmCnt) s + 1) % 2 ^ 32 ∧
      pgmCycles a.toNat t = min (pgmCycles a.toNat s + 1) 65535 ∧ programAct a.toNat t = none ∧
      sameFields [wgtF Reg.Wgt.pgmCnt] s t ∧
      t = { s with regs := t.regs, arrs := t.arrs, mnt := t.mnt, flt := { s.flt with life := t.flt.life } }) ∧
    (j = .repair → ∃ t, exec (.arrayProgramDone a false) s = .next t ∧ arrState a.toNat t = 8 ∧
      (arrOf a.toNat t).job = none ∧ (arrOf a.toNat t).hold = none ∧
      getF (wgtF Reg.Wgt.retireCnt) t = (getF (wgtF Reg.Wgt.retireCnt) s + 1) % 2 ^ 32 ∧
      sameFields ([arrF Reg.Pnt.stState a.toNat, wgtF Reg.Wgt.pgmCnt, wgtF Reg.Wgt.retireCnt] ++ reportFields) s t ∧
      quiet { t with arrs := s.arrs, mnt := s.mnt } = quiet s)) ∧
  (∀ (s : State) (a : ArrayIx), s.mnt.waiting = [] →
    let r := arrOf a.toNat s
    let past := r.restAt + ticksS r.relax / 8 ≤ now s
    (r.job.isSome = true → r.phase = .resting → past →
      ∃ t, exec (.relaxEnd a) s = .next t ∧ arrOf a.toNat t = { r with phase := .reading } ∧
        (∀ k, k ≠ a.toNat → arrOf k t = arrOf k s) ∧
        (holds (.readback a.toNat) t = true ∨ ∃ q ∈ t.mnt.waiting, q.act = .readback a.toNat) ∧
        sameFields [Reg.Pwr.grantCnt.at pwrBase, Reg.Pwr.waitCnt.at pwrBase] s t ∧
        t = { s with regs := t.regs, arrs := t.arrs, mnt := t.mnt }) ∧
    (r.phase ≠ .resting ∨ ¬ past → exec (.relaxEnd a) s = .next s)) ∧
  (∀ (s : State) (a : ArrayIx) (rows : BitVec 11), s.mnt.waiting = [] → holds (.readback a.toNat) s = true →
    (isSet (wgtF Reg.Wgt.touchEn) s = false ∨ ∀ e ∈ s.arrs, e.2.age + s.arrs.length * 1680 < Config.ageUnit) →
    let r := arrOf a.toNat s
    (∀ b, r.job = some .install → r.reserved = some b →
      (∃ x, s.wgt.inst = some x ∧ x.slot = b.slot ∧ x.attach = false ∧ x.phase = .chunks) →
      ∃ t, exec (.readbackDone a rows true) s = .next t ∧
        arrOf a.toNat t = { r with job := none, hold := some b, past := none, age := 0, overdue := false } ∧
        (∀ k, k ≠ a.toNat → arrOf k t = arrOf k s) ∧ (slotRec b.slot t).readBack = (slotRec b.slot s).readBack + 1 ∧
        (let whole := decide ((slotRec b.slot s).arrays ≤ (slotRec b.slot s).readBack + 1)
         (slotRec b.slot t).state = (if whole then .installed else (slotRec b.slot s).state) ∧
         t.wgt.inst = (if whole then none else s.wgt.inst) ∧
         (whole = true → getF (wgtF Reg.Wgt.busy) t = 0 ∧ (getF Reg.Glb.state s = 6 → getF Reg.Glb.seqRun s ≠ 0 →
           getF Reg.Glb.state t = 7))) ∧
        t.sram = s.sram ∧ t.sched = s.sched ∧ t.ens = s.ens ∧ t.cfg = s.cfg ∧ t.sec = s.sec) ∧
    (∀ j, r.job = some j → r.failedReads + 1 < r.repass → atBudget a.toNat s = false →
      ∃ t, exec (.readbackDone a rows false) s = .next t ∧ (arrOf a.toNat t).failedReads = r.failedReads + 1 ∧
        (arrOf a.toNat t).job = some j ∧ (arrOf a.toNat t).levels = r.levels ∧ (arrOf a.toNat t).hold = r.hold ∧
        getF (wgtF Reg.Wgt.rowRepCnt) t = (getF (wgtF Reg.Wgt.rowRepCnt) s + rows.toNat) % 2 ^ 32 ∧
        (∀ k, arrState k t = arrState k s) ∧ t.sram = s.sram ∧ t.sched = s.sched ∧ t.wgt = s.wgt ∧ t.flt = s.flt) ∧
    (r.job = some .repair → r.repass ≤ r.failedReads + 1 →
      ∃ t, exec (.readbackDone a rows false) s = .next t ∧ arrState a.toNat t = 8 ∧ (arrOf a.toNat t).job = none ∧
        getF (wgtF Reg.Wgt.retireCnt) t = (getF (wgtF Reg.Wgt.retireCnt) s + 1) % 2 ^ 32 ∧
        sameFields ([arrF Reg.Pnt.stState a.toNat, wgtF Reg.Wgt.retireCnt] ++ reportFields) s t))

/-- A passed diagnostic read makes the array SPARE, and counts and marks it stale when it was in REVERIFY; a failed one
sends it to REPAIR. A start-up check that fails queues a serving array, and the last check of an attach makes its slot
INSTALLED. ADD_SPARE of an array that may be added asks for its diagnostic read, and is counted as ignored for any
other. Each second adds its band's age to an array that holds a block. With every pennant calibrated the start-up goes
on to its checks. ARRAY_QUEUE queues a serving array, completes with status 1 for one in another state and with status 3
for an index above 8,191. Stated where touch-up is off or no array is near the age that asks for one. (R65, R243, R250,
R251, R253, R447, Table 2-8, Table 12-4) -/
def Obligations.ArrayChecks : Prop :=
  (∀ (s : State) (a : ArrayIx), s.mnt.waiting = [] →
    (isSet (wgtF Reg.Wgt.touchEn) s = false ∨ ∀ e ∈ s.arrs, e.2.age + s.arrs.length * 1680 < Config.ageUnit) →
    let p := a.toNat / 16
    (holds (.diag a.toNat) s = true → atBudget a.toNat s = false →
      ∃ t, exec (.diagnosticReadDone a true) s = .next t ∧ arrState a.toNat t = 7 ∧ (arrOf a.toNat t).past = none ∧
        (arrOf a.toNat t).adding = false ∧ (∀ k, k ≠ a.toNat → arrOf k t = arrOf k s) ∧ holds (.diag a.toNat) t = false ∧
        (arrState a.toNat s = 5 → getF (pntF Reg.Pnt.nffCnt p) t = (getF (pntF Reg.Pnt.nffCnt p) s + 1) % 2 ^ (pntF Reg.Pnt.nffCnt p).w ∧
          (getF (pntF Reg.Pnt.calStale p) t).testBit (a.toNat % 16) = true ∧ (arrOf a.toNat t).cal.waiveStale = true) ∧
        sameFields ([arrF Reg.Pnt.stState a.toNat] ++ (if arrState a.toNat s = 5 then
          [pntF Reg.Pnt.nffCnt p, pntF Reg.Pnt.calStale p, Reg.Pwr.staleCnt.at pwrBase] else [])) s t ∧
        t = { s with regs := t.regs, arrs := t.arrs, mnt := t.mnt }) ∧
    (holds (.diag a.toNat) s = true →
      ∃ t, exec (.diagnosticReadDone a false) s = .next t ∧ arrState a.toNat t = 6 ∧ (arrOf a.toNat t).adding = false ∧
        (holds (.repair a.toNat) t = true ∨ ∃ q ∈ t.mnt.waiting, q.act = .repair a.toNat) ∧
        (∀ k, k ≠ a.toNat → arrOf k t = arrOf k s ∧ arrState k t = arrState k s) ∧
        t.sram = s.sram ∧ t.wgt = s.wgt ∧ t.flt = s.flt ∧ t.sched = s.sched) ∧
    (holds (.diag a.toNat) s = false → ∀ ok, exec (.diagnosticReadDone a ok) s = .next s) ∧
    (holds (.startup a.toNat) s = true → (arrState a.toNat s = 1 ∨ arrState a.toNat s = 2) → s.wgt.inst = none →
      ∃ t, exec (.startupCheckDone a false) s = .next t ∧ (arrState a.toNat t = 3 ∨ arrState a.toNat t = 4) ∧
        holds (.startup a.toNat) t = false ∧ t.sram = s.sram ∧ t.wgt = s.wgt ∧ t.sched = s.sched) ∧
    (∀ x, holds (.startup a.toNat) s = true → s.wgt.inst = some x → x.attach = true → x.phase = .checks [a.toNat] →
      ∃ t, exec (.startupCheckDone a true) s = .next t ∧ t.wgt.inst = none ∧
        slotRec x.slot t = { slotRec x.slot s with state := .installed, attachEnded := true } ∧
        (∀ k, k ≠ x.slot → slotRec k t = slotRec k s) ∧ getF (wgtF Reg.Wgt.busy) t = 0 ∧
        sameFields [wgtF Reg.Wgt.busy, Reg.Glb.state] s t ∧
        t = { s with regs := t.regs, wgt := { s.wgt with inst := none, slots := t.wgt.slots, lost := t.wgt.lost }, mnt := t.mnt }) ∧
    (let r := arrOf a.toNat s
     (arrState a.toNat s ≠ 0 ∨ r.reserved.isSome = true ∨ atBudget a.toNat s = true ∨ r.adding = true →
        exec (.addSpare a) s = .next (countIgnored (wgtBase + 4) s)) ∧
     (arrState a.toNat s = 0 → r.reserved = none → atBudget a.toNat s = false → r.adding = false →
        ∃ t, exec (.addSpare a) s = .next t ∧ arrOf a.toNat t = { r with adding := true } ∧
          (∀ k, k ≠ a.toNat → arrOf k t = arrOf k s) ∧
          (holds (.diag a.toNat) t = true ∨ ∃ q ∈ t.mnt.waiting, q.act = .diag a.toNat) ∧
          sameFields [Reg.Pwr.grantCnt.at pwrBase, Reg.Pwr.waitCnt.at pwrBase] s t ∧
          t = { s with regs := t.regs, arrs := t.arrs, mnt := t.mnt }))) ∧
  (∀ s : State, (isSet (wgtF Reg.Wgt.touchEn) s = false ∨ ∀ e ∈ s.arrs, e.2.age + s.arrs.length * 1680 < Config.ageUnit) →
    ∃ t, exec .driftAgeTick s = .next t ∧ t.pwr.topBand = [] ∧
    (∀ a, (arrOf a s).hold = none → arrOf a t = arrOf a s) ∧
    (∀ a b, (arrOf a s).hold = some b → (arrOf a t).age = (arrOf a s).age + (s.arrs.filter fun e => e.1 = a).length *
      ageStep (max (bandOf (regionOf (a / 256)) s) (SMap.get dfltZero s.pwr.topBand (regionOf (a / 256))))) ∧
    sameFields ([wgtF Reg.Wgt.overdue, wgtF Reg.Wgt.overdueCnt] ++ reportFields) s t ∧
    quiet { t with arrs := s.arrs, pwr := s.pwr } = quiet s) ∧
  (∀ s : State, s.wgt.inst = none →
    (getF Reg.Glb.state s = 4 → (∀ h ∈ usedHoists s, ∀ i, i < 16 → (pntOf (h * 16 + i) s).initial = false) →
      exec .initialCalibrationEnd s = .next (setF Reg.Glb.state 5 s)) ∧
    (getF Reg.Glb.state s ≠ 4 → exec .initialCalibrationEnd s = .next s)) ∧
  (∀ (s : State) (h : CmdHead) (a : BitVec 16), canCommand s = true →
    (8191 < a.toNat → ∃ u, exec (.arrayQueue h a) s = .next (cmdDone h 3 u) ∧ commandTaken s u ∧ quiet u = quiet s) ∧
    (a.toNat ≤ 8191 → (arrState a.toNat s = 1 ∨ arrState a.toNat s = 2) → s.mnt.waiting = [] →
      ∃ u, exec (.arrayQueue h a) s = .next (cmdDone h 0 u) ∧ (∀ f ∈ commandFields, getF f u = (getF f s + 1) % 2 ^ 32) ∧
        (arrState a.toNat u = 3 ∨ arrState a.toNat u = 4) ∧
        getF (arrF Reg.Pnt.stSuspCnt a.toNat) u =
          getF (pntF Reg.Pnt.suspLimit (a.toNat / 16)) s % 2 ^ (arrF Reg.Pnt.stSuspCnt a.toNat).w ∧
        u.sram = s.sram ∧ u.sched = s.sched ∧ u.wgt = s.wgt) ∧
    (a.toNat ≤ 8191 → arrState a.toNat s ≠ 1 → arrState a.toNat s ≠ 2 →
      ∃ u, exec (.arrayQueue h a) s = .next (cmdDone h 1 u) ∧ commandTaken s u ∧ quiet u = quiet s))

/-- With no vector ready, or with OUT_EN 0, nothing happens. Otherwise the oldest ready vector leaves its chain, and its
columns pass scale, adapter, bias and activation; without a gate they are pooled, converted, counted, held as the output
and stored; a gated producer's go to its partner without activation, a gated consumer's wait for the partner's and are
multiplied with them; sequence pooling collects vectors until the last. Columns with an uncorrectable entry are NaN from
then on. Stated with the norm watch off. (R117, R133, R134, R137, R138, R139, R171, Table 5-1) -/
def Obligations.OutputVectors : Prop :=
  (∀ (s : State) (p : PntIx) (ecc : Ecc) (bad : List Nat), readyVector p.toNat s = none ∨ isSet (pntF Reg.Pnt.outEn p.toNat) s = false →
    exec (.outputVector p ecc bad) s = .next s) ∧
  (∀ (s : State) (p' : PntIx) (ecc : Ecc) (bad : List Nat) (v : VecAcc),
    let p := p'.toNat
    readyVector p s = some v → isSet (pntF Reg.Pnt.outEn p) s = true → isSet (pntF Reg.Pnt.wEn p) s = false →
    let u := columnCheck p ecc bad s
    let d := (pntOf p s).deltas.find? fun d => d.1 = v.tag.vid
    let cols := (List.range 512).map (columnValue p v.e v.bad (chainSum p v.tag s) (if v.tag.adapter then d.map fun x => x.2.2 else none) u)
    let sats := (cols.map fun c => c.2.1).sum
    let y := cols.map fun c => c.1
    let z := y.map (activate p s)
    let mode := getF (pntF Reg.Pnt.pool p) s
    let pooled := poolColumns mode (getF (pntF Reg.Pnt.pgrp p) s)
    let adp := match d with | some x => [Reg.Bnt.adpSatCnt.at (bntBase x.2.1)] | none => []
    let frame := fun (t : State) =>
      (pntOf p t).accs = (pntOf p s).accs.filter (fun a => ¬ a.tag.vid = v.tag.vid) ∧
      sameFields (pennantFields p ++ adp) u t ∧
      (∀ b, b ∉ chainOf p s → b ≠ gatePartner p s → pntOf b t = pntOf b s) ∧
      (ecc = .uncorrectable → ∀ c ∈ bad, c ∈ (pntOf p t).badCols) ∧
      t = { u with regs := t.regs, pnts := t.pnts, sram := t.sram, flt := { u.flt with poisoned := t.flt.poisoned },
                   sync := { u.sync with windowStart := t.sync.windowStart } }
    (getF (pntF Reg.Pnt.gate p) s = 0 ∨ getF (pntF Reg.Pnt.gate p) s = 3 →
      (mode ≠ 3 → ∃ t, exec (.outputVector p' ecc bad) s = .next t ∧ pennantDelivers p v.tag (pooled z) sats u t ∧ frame t) ∧
      (mode = 3 → v.tag.lastOfSeq = false → ∃ t k, exec (.outputVector p' ecc bad) s = .next t ∧
        (pntOf p t).pool = (pntOf p s).pool ++ [(v.tag.step, v.tag.seq, k, z)] ∧ t.sram = s.sram ∧ frame t) ∧
      (mode = 3 → v.tag.lastOfSeq = true → ∃ t, exec (.outputVector p' ecc bad) s = .next t ∧
        pennantDelivers p v.tag (poolSeq (((pntOf p s).pool.filter fun x => x.1 = v.tag.step && x.2.1 = v.tag.seq).map
          (fun x => x.2.2.2) ++ [z])) sats u t ∧ frame t)) ∧
    (getF (pntF Reg.Pnt.gate p) s = 2 → ∃ t, exec (.outputVector p' ecc bad) s = .next t ∧
      (pntOf (gatePartner p s) t).partners = (pntOf (gatePartner p s) s).partners ++ [y] ∧ t.sram = s.sram ∧ frame t) ∧
    (getF (pntF Reg.Pnt.gate p) s = 1 → (pntOf p s).gateWait = [] →
      ((pntOf p s).partners = [] → ∃ t k, exec (.outputVector p' ecc bad) s = .next t ∧
        (pntOf p t).gateWait = [⟨v.tag, z, k⟩] ∧ t.sram = s.sram ∧ frame t) ∧
      (∀ w ws, (pntOf p s).partners = w :: ws → mode ≠ 3 → ∃ t, exec (.outputVector p' ecc bad) s = .next t ∧
        (pntOf p t).gateWait = [] ∧ (pntOf p t).partners = ws ∧
        pennantDelivers p v.tag (pooled (List.zipWith mulF32 z w)) sats u t ∧ frame t))) ∧
  (∀ (s : State) (p' : PntIx),
    let p := p'.toNat
    ((pntOf p s).gateWait = [] ∨ (pntOf p s).partners = [] → exec (.gatedPartnerVector p') s = .next s) ∧
    (∀ g gs w ws, (pntOf p s).gateWait = g :: gs → (pntOf p s).partners = w :: ws → isSet (pntF Reg.Pnt.wEn p) s = false →
      getF (pntF Reg.Pnt.pool p) s ≠ 3 → ∃ t, exec (.gatedPartnerVector p') s = .next t ∧
        (pntOf p t).gateWait = gs ∧ (pntOf p t).partners = ws ∧
        pennantDelivers p g.tag (poolColumns (getF (pntF Reg.Pnt.pool p) s) (getF (pntF Reg.Pnt.pgrp p) s)
          (List.zipWith mulF32 g.vals w)) 0 s t ∧
        (∀ b, b ≠ p → pntOf b t = pntOf b s) ∧ sameFields (pennantFields p) s t))

/-- A delta that a tile sent arrives and is kept for its vector, and a late one is counted. PNT_ACCSEL_WRITE selects a
column and asks for a snapshot; the snapshot sets DONE with the sums of the column. A PNT_ACTDATA access reads the entry
of the selected bank or writes it where the bank is not in use, and counts a refused write where it is; the index
advances and stays at 263. A watch restart is noted for the next step boundary. With the watch on, a vector that is
neither provisional nor wholly skipped, no NaN in its norms and WARM 0: a norm above RATIO times its reference sets its
bit, and so does, with LOW_EN, an L2 norm below the reference ÷ RATIO; each reference then moves by 2^−ALPHA of its
limited distance. A jump counts once and records its tenant and sequence. In warm-up the references are means, and WARM
clears after 2^ALPHA vectors. (R126, R136, R141, R173, R140, R142, R143) -/
def Obligations.PennantWindows : Prop :=
  (
  (∀ (s : State) (p' : PntIx) (vid late : Nat),
    let p := p'.toNat
    (((pntOf p s).coming.find? fun d => d.1 = vid) = none → exec (.adapterDelta p' vid late) s = .next s) ∧
    (∀ d, ((pntOf p s).coming.find? fun d => d.1 = vid) = some d → ∃ t, exec (.adapterDelta p' vid late) s = .next t ∧
      pntOf p t = { pntOf p s with coming := (pntOf p s).coming.filter (fun x => ¬ x = d), deltas := (pntOf p s).deltas ++ [d] } ∧
      (∀ b, b ≠ p → pntOf b t = pntOf b s) ∧
      (late = 0 → sameFields [] s t) ∧
      (0 < late → getF (Reg.Bnt.late.at (bntBase d.2.1)) t = 1 ∧
        getF (Reg.Bnt.lateCnt.at (bntBase d.2.1)) t = (getF (Reg.Bnt.lateCnt.at (bntBase d.2.1)) s + late) % 2 ^ (Reg.Bnt.lateCnt.at (bntBase d.2.1)).w ∧
        sameFields [Reg.Bnt.late.at (bntBase d.2.1), Reg.Bnt.lateCnt.at (bntBase d.2.1)] s t) ∧
      t = { s with regs := t.regs, pnts := t.pnts })) ∧
  (∀ (s : State) (p' : PntIx) (col : BitVec 9),
    let p := p'.toNat
    ∃ t, exec (.pntAccselWrite p' col) s = .next t ∧ getF (pntF Reg.Pnt.accSel p) t = col.toNat ∧
      getF (pntF Reg.Pnt.accDone p) t = 0 ∧ pntOf p t = { pntOf p s with snapReq := true } ∧
      (∀ b, b ≠ p → pntOf b t = pntOf b s) ∧ sameFields [pntF Reg.Pnt.accSel p, pntF Reg.Pnt.accDone p] s t ∧
      t = { s with regs := t.regs, pnts := t.pnts }) ∧
  (∀ (s : State) (p' : PntIx),
    let p := p'.toNat
    let c := getF (pntF Reg.Pnt.accSel p) s
    ((pntOf p s).snapReq = false → exec (.accSnapshot p') s = .next s) ∧
    ((pntOf p s).snapReq = true → ∃ t, exec (.accSnapshot p') s = .next t ∧ getF (pntF Reg.Pnt.accDone p) t = 1 ∧
      (getF (pntF Reg.Pnt.accN p) t : Int) = SMap.get dfltInt (pntOf p s).lastN c % 2 ^ 20 ∧
      (getF (pntF Reg.Pnt.accW p) t : Int) = SMap.get dfltInt (pntOf p s).lastW c % 2 ^ 64 ∧
      getF (pntF Reg.Pnt.accF p) t = fCode (pntOf p s).lastF ∧ (pntOf p t).snapReq = false ∧
      sameFields [pntF Reg.Pnt.accDone p, pntF Reg.Pnt.accN p, pntF Reg.Pnt.accW p, pntF Reg.Pnt.accF p] s t ∧
      t = { s with regs := t.regs, pnts := t.pnts })) ∧
  (∀ (s : State) (p' : PntIx),
    let p := p'.toNat
    let i := getF (pntF Reg.Pnt.actIdx p) s
    let b := getF (pntF Reg.Pnt.actBank p) s
    (exec (.pntActdataAccess p' none) s = .next (setF (pntF Reg.Pnt.actIdx p) (min 263 (i + 1))
      { s with answer := .value (tableEntry (pntOf p s) b i) })) ∧
    (∀ w : Word, b = getF (pntF Reg.Pnt.tbank p) s → exec (.pntActdataAccess p' (some w)) s =
      .next (setF (pntF Reg.Pnt.actIdx p) (min 263 (i + 1)) (countIgnored (pntBase p + 0x38) s))) ∧
    (∀ w : Word, b ≠ getF (pntF Reg.Pnt.tbank p) s → ∃ t, exec (.pntActdataAccess p' (some w)) s = .next t ∧
      getF (pntF Reg.Pnt.actIdx p) t = min 263 (i + 1) ∧
      (i ≤ 258 → tableEntry (pntOf p t) b i = w.toNat) ∧
      (∀ c j, j < 512 → i < 512 → c ≠ b ∨ j ≠ i → tableEntry (pntOf p t) c j = tableEntry (pntOf p s) c j) ∧
      (∀ k, k ≠ p → pntOf k t = pntOf k s) ∧ sameFields [pntF Reg.Pnt.actIdx p] s t ∧
      t = { s with regs := t.regs, pnts := t.pnts })) ∧
  (∀ (s : State) (p' : PntIx), ∃ t, exec (.watchRestart p') s = .next t ∧
    pntOf p'.toNat t = { pntOf p'.toNat s with restart := true } ∧ (∀ b, b ≠ p'.toNat → pntOf b t = pntOf b s) ∧
    t = { s with pnts := t.pnts })) ∧ (
  ∀ (s : State) (p' : PntIx) (v : VecAcc),
    let p := p'.toNat
    readyVector p s = some v → isSet (pntF Reg.Pnt.outEn p) s = true → isSet (pntF Reg.Pnt.wEn p) s = true →
    v.tag.prov = false → v.bad = true ∨ (∃ q ∈ chainOf p s, ∃ a, accOf q v.tag.vid s = some a ∧ a.skipped = false) →
    getF (pntF Reg.Pnt.gate p) s = 0 → getF (pntF Reg.Pnt.pool p) s = 0 → v.tag.adapter = false →
    isFlagWord (getF (pntF Reg.Pnt.watchLayer p) s * 8) s = true →
    isFlagWord (getF (pntF Reg.Pnt.watchTen p) s * 8 + 8 * v.tag.ten) s = true →
    let z := ((List.range 512).map (columnValue p v.e v.bad (chainSum p v.tag s) none s)).map fun c => activate p s c.1
    let n2 := norm2 z
    let ni := normInf z
    let r2 := getF (pntF Reg.Pnt.watchL2 p) s
    let ri := getF (pntF Reg.Pnt.watchLinf p) s
    let alpha := getF (pntF Reg.Pnt.wAlpha p) s
    let jumped := fun (t : State) => getF (pntF Reg.Pnt.watchCnt p) t = (getF (pntF Reg.Pnt.watchCnt p) s + 1) % 2 ^ 32 ∧
      getF (pntF Reg.Pnt.wlValid p) t = 1 ∧ getF (pntF Reg.Pnt.wlTen p) t = v.tag.ten % 2 ^ 12 ∧
      getF (pntF Reg.Pnt.wlSeq p) t = v.tag.seq % 2 ^ 15
    let quietly := fun (t : State) => ∀ f ∈ [pntF Reg.Pnt.watchCnt p, pntF Reg.Pnt.wlValid p, pntF Reg.Pnt.wlTen p,
      pntF Reg.Pnt.wlSeq p, pntF Reg.Pnt.wsL2 p, pntF Reg.Pnt.wsLinf p, pntF Reg.Pnt.wsLow p], getF f t = getF f s
    (isSet (pntF Reg.Pnt.wsWarm p) s = false → (isNanF32 n2 = true ∨ isNanF32 ni = true) →
      ∃ t, exec (.outputVector p' .clean []) s = .next t ∧ getF (pntF Reg.Pnt.wsNan p) t = 1 ∧ jumped t ∧
        getF (pntF Reg.Pnt.watchL2 p) t = r2 ∧ getF (pntF Reg.Pnt.watchLinf p) t = ri) ∧
    (isNanF32 n2 = false → isNanF32 ni = false → isSet (pntF Reg.Pnt.wsWarm p) s = false →
      let q := toF32 (.fin false (getF (pntF Reg.Pnt.wRatio p) s) (-4))
      let j2 := ltF32 (mulF32 q r2) n2
      let ji := ltF32 (mulF32 q ri) ni
      let jl := isSet (pntF Reg.Pnt.wLowEn p) s && ltF32 n2 (divF32 r2 q)
      let moved' := fun (r x : Nat) => addF32 r (scaleF32 (subF32 (limitF32 (divF32 r q) (mulF32 q r) x) r) (-(alpha : Int)))
      ∃ t, exec (.outputVector p' .clean []) s = .next t ∧
        getF (pntF Reg.Pnt.watchL2 p) t = moved' r2 n2 % 2 ^ 32 ∧ getF (pntF Reg.Pnt.watchLinf p) t = moved' ri ni % 2 ^ 32 ∧
        getF (pntF Reg.Pnt.wsL2 p) t = (if j2 then 1 else getF (pntF Reg.Pnt.wsL2 p) s) ∧
        getF (pntF Reg.Pnt.wsLinf p) t = (if ji then 1 else getF (pntF Reg.Pnt.wsLinf p) s) ∧
        getF (pntF Reg.Pnt.wsLow p) t = (if jl then 1 else getF (pntF Reg.Pnt.wsLow p) s) ∧
        ((j2 || ji || jl) = true → jumped t) ∧ ((j2 || ji || jl) = false → quietly t)) ∧
    (isNanF32 n2 = false → isNanF32 ni = false → isSet (pntF Reg.Pnt.wsWarm p) s = true →
      let n := (pntOf p s).warmSeen + 1
      ∃ t, exec (.outputVector p' .clean []) s = .next t ∧ quietly t ∧ (pntOf p t).warmSeen = n ∧
        getF (pntF Reg.Pnt.watchL2 p) t = addF32 r2 (divF32 (subF32 n2 r2) (intF32 n)) % 2 ^ 32 ∧
        getF (pntF Reg.Pnt.watchLinf p) t = addF32 ri (divF32 (subF32 ni ri) (intF32 n)) % 2 ^ 32 ∧
        getF (pntF Reg.Pnt.wsWarm p) t = (if 2 ^ alpha ≤ n then 0 else 1)))

/-- A list adds to the flag word that the plan names after its operations. A norm, a residual add and a rotary encoding of a
configured layer deliver their result in the destination format; attention over at least one visible slot of a block of
the tenant leaves the largest score as the holder's m, and a block of another tenant fails the step with cause 11;
selection with its tenant bit 0 takes every block; sampling at T = 0 without a draft takes the token of the largest
logit; the last key/value entry marks the step. Every other vector unit stands. A record of an unknown combination
changes nothing but that its sender was heard. One that is not what the plan lists, or comes twice, fails the step with
cause 3. One that the plan lists is kept, and with the last one the combination ends and delivers its root. (R153, R154,
R155, R159, R160, R161, R162, R217, R348, R156, R157, R158) -/
def Obligations.VectorUnits : Prop :=
  (
  ∀ (s : State) (v' : HoistIx) (n flag : Nat) (add : Word64), isFlagWord flag s = true →
    let v := v'.toNat
    let after := fun (u t : State) => t.sram = (flagAdd v flag add (some n) u).sram
    let same := fun (t : State) => (∀ w, w ≠ v → vecOf w t = vecOf w s) ∧ t.wgt = s.wgt ∧ t.ens = s.ens ∧ t.cfg = s.cfg ∧
      t.arrs = s.arrs ∧ t.pnts = s.pnts ∧ t.banks = s.banks ∧ t.sec = s.sec ∧ t.mnt = s.mnt ∧ t.pwr = s.pwr ∧ t.hoists = s.hoists
    (∃ t, exec (.operationList v' n [] flag add) s = .next t ∧ sramWord flag t = sramWord flag s + add ∧ sameBytes flag 8 s t ∧
      t = { s with sram := t.sram, sync := { s.sync with windowStart := t.sync.windowStart } }) ∧
    (∀ (o : VecOp) (l : List Nat) (d : VecDst) (ly : LayerSection) (lslot : Nat), layerOf lslot s = some ly →
      ((∃ ten x, o = .norm lslot ten x d ∧ l = normalise ly x) ∨
       (∃ ten x y addr, o = .residual lslot ten x y addr ∧ l = List.zipWith addF32 x y ∧ d = ⟨.resid, lslot, ly.resfmt, addr⟩) ∨
       (∃ ten pos x, o = .rotary lslot ten pos x d ∧ l = rotate ly pos x)) →
      ∃ t u, exec (.operationList v' n [o] flag add) s = .next t ∧ unitDelivers v d l s u ∧ after u t ∧
        (vecOf v t).out = (vecOf v u).out ∧ (vecOf v t).holders = (vecOf v s).holders ∧
        (vecOf v t).combines = (vecOf v s).combines ∧ (∀ f ∈ unitFields v, getF f t = getF f u) ∧
        sameFields (unitFields v) s t ∧ same t ∧ t.sched = s.sched) ∧
    (∀ (a : AttendOp) (ly : LayerSection) (b : Block), layerOf a.lslot s = some ly → heldBlock a.lslot a.seq a.blk a.first s = some b →
      b.ten = a.ten → (∀ i, i < slotLines a.lslot b.fmt s → isPoisoned (a.addr + 256 * i) s = false) →
      let top := if b.state = .opened then 256 else b.fill
      let slots := (List.range 256).filter fun i => decide (b.first ≤ i ∧ i < top ∧ a.blk * 256 + i ≤ a.pos)
      let q := a.q.map fun x => toF32 (decodeF (if queryFmt a.lslot s = 1 then e4m3 else bf16) x)
      let score := fun i => mulF32 ly.catt.toNat (dotF32 q (kvVec (kvCode b.fmt) ly.g ly.d a.addr i a.group false s).1)
      slots ≠ [] → ∃ t h, exec (.operationList v' n [.attend a] flag add) s = .next t ∧ h ∈ (vecOf v t).holders ∧
        h.step = n ∧ h.lslot = a.lslot ∧ h.seq = a.seq ∧ h.head = a.head ∧ h.pos = a.pos ∧
        h.part.m = (slots.map score).foldl maxNanF32 (holderPart v n a.lslot a.seq a.head a.pos ly.d s).m ∧
        (vecOf v t).out = (vecOf v s).out ∧ after s t ∧ sameFields [vecF Reg.Vec.kvDecSatCnt v] s t ∧ same t ∧ t.sched = s.sched) ∧
    (∀ (a : AttendOp) (ly : LayerSection) (b : Block), layerOf a.lslot s = some ly → heldBlock a.lslot a.seq a.blk a.first s = some b →
      b.ten ≠ a.ten → exec (.operationList v' n [.attend a] flag add) s = .next (flagAdd v flag add (some n) (failHere n 11 s))) ∧
    (∀ (lslot ten seq : Nat) (qs : List (List Nat)) (blocks : List (Nat × List Nat)),
      (getF (Reg.Kvc.selmap.at (kvcBase + ten / 32 * 4)) s).testBit (ten % 32) = false →
      ∃ t, exec (.operationList v' n [.select lslot ten seq qs blocks] flag add) s = .next t ∧
        vecOf v t = { vecOf v s with out := blocks.map fun b => b.1 } ∧ after s t ∧ sameFields [] s t ∧ same t ∧ t.sched = s.sched) ∧
    (∀ (seq : SeqKey) (p : List (HoistIx × List Logit)) (e : PlanEntry), planEntryOf n seq.toNat s = some e → e.gen = false →
      e.samp.temp = 0 → e.samp.logp = false → e.seq = seq → isNanF32 (distOf v 0 p s).m = false →
      ∃ t, exec (.operationList v' n [.sample seq [p]] flag add) s = .next t ∧
        (∀ r, stepOf n s = some r → stepOf n t = some { r with
          sampled := r.sampled.filter (fun y => ¬ y.seq = seq) ++ [⟨seq, 0, [(distOf v 0 p s).best], [], false⟩] }) ∧
        (∀ m, m ≠ n → stepOf m t = stepOf m s) ∧ after s t ∧
        sameFields [vecF Reg.Vec.smpCtr v, vecF Reg.Vec.smpTruncCnt v] s t ∧ same t ∧
        t.sched = { s.sched with steps := t.sched.steps }) ∧
    (∀ cid ten seq head holders dst, ∃ t, exec (.operationList v' n [.combine cid ten seq head holders dst] flag add) s = .next t ∧
      vecOf v t = { vecOf v s with combines := (vecOf v s).combines ++ [⟨cid, n, seq, ten, head, holders, dst, []⟩] } ∧
      after s t ∧ sameFields [] s t ∧ same t ∧ t.sched = s.sched)) ∧ (
  ∀ (s : State) (src : BitVec 10) (v' : HoistIx) (cid : Nat) (p : PartialRec),
    let v := v'.toNat
    let find := (vecOf v s).combines.find? fun c => c.cid = cid
    (find = none → exec (.partialRecord src v' cid p) s = .next (hear src.toNat s)) ∧
    (∀ c, find = some c →
      let listed := p.seq = c.seq ∧ p.ten = c.ten ∧ p.head = c.head ∧ p.step = c.step % 65536 ∧ p.holder < c.holders ∧
        c.got.any (fun g => g.1 = p.holder) = false
      let x : Partial := ⟨p.m, p.s, if p.bf then p.o.map fun x => x * 65536 else p.o⟩
      let got := c.got ++ [(p.holder, x)]
      let parts := (List.range c.holders).filterMap fun i => (got.find? fun g => g.1 = i).map fun g => g.2
      (¬ listed → exec (.partialRecord src v' cid p) s = .next (failHere c.step 3 (hear src.toNat s))) ∧
      (listed → parts.length < c.holders → ∃ t, exec (.partialRecord src v' cid p) s = .next t ∧
        vecOf v t = { vecOf v s with combines := (vecOf v s).combines.map fun c => if c.cid = cid then { c with got := c.got ++ [(p.holder, x)] } else c } ∧
        (∀ w, w ≠ v → vecOf w t = vecOf w s) ∧ t = { hear src.toNat s with vecs := t.vecs }) ∧
      (listed → c.holders ≤ parts.length → ∃ t, exec (.partialRecord src v' cid p) s = .next t ∧
        unitDelivers v c.dst (finishRoot parts).1 s t ∧ (∀ k ∈ (vecOf v t).combines, k.cid ≠ cid) ∧
        (∀ w, w ≠ v → vecOf w t = vecOf w s) ∧ (vecOf v t).holders = (vecOf v s).holders ∧
        getF (vecF Reg.Vec.emptyAttnCnt v) t % 2 ^ 32 =
          (getF (vecF Reg.Vec.emptyAttnCnt v) s + (if (finishRoot parts).2 then 1 else 0)) % 2 ^ 32 ∧
        sameFields (vecF Reg.Vec.emptyAttnCnt v :: unitFields v) s t ∧
        t = { hear src.toNat s with regs := t.regs, vecs := t.vecs, mtr := t.mtr, sram := t.sram,
                                    flt := { s.flt with poisoned := t.flt.poisoned },
                                    sync := { s.sync with windowStart := t.sync.windowStart } })))

/-- A load that ends makes its LOADING bank READY with the bytes of its source, or empties it, reports and fails the steps
that name it. A vector whose tag misses its bank computes nothing: the miss is flagged and counted and the step fails
with cause 1; on a LOADING bank it waits. An uncorrectable word makes the bank bad. A vector whose tag fits runs its
record, counts its multiply-adds, and sends its result as a delta or stores it. (R101, R166, R167, R168, R169, R170,
R382, R414, Table 6-3) -/
def Obligations.BuntingTiles : Prop :=
  (∀ (s : State) (t' : TileIx) (b ok : Bool) (data : List Byte), data.length ≤ 1048576 →
    let k := t'.toNat
    let r := bankOf k b s
    (r.state ≠ .loading → exec (.bankLoadDone t' b ok data) s = .next s) ∧
    (r.state = .loading → ∃ u, exec (.bankLoadDone t' b true data) s = .next u ∧
      bankOf k b u = { r with state := .ready, data := putBytes 0 (if r.kind = 2 then data else sramTake r.len r.src s) [] } ∧
      (∀ j c, bankKey j c ≠ bankKey k b → bankOf j c u = bankOf j c s) ∧
      getF (Reg.Bnt.loadCnt.at (bntBase k)) u = (getF (Reg.Bnt.loadCnt.at (bntBase k)) s + 1) % 2 ^ 32 ∧
      sameFields [Reg.Bnt.loadCnt.at (bntBase k)] s u ∧ u = { s with regs := u.regs, banks := u.banks }) ∧
    (r.state = .loading → bankSteps k b s = [] → ∃ u, exec (.bankLoadDone t' b false data) s = .next u ∧
      bankOf k b u = dfltBank 0 ∧ (∀ j c, bankKey j c ≠ bankKey k b → bankOf j c u = bankOf j c s) ∧
      sameFields reportFields s u ∧ quiet { u with banks := s.banks } = quiet s)) ∧
  (∀ (s : State) (t' : TileIx) (step : Nat) (use : BankUse) (ten : TenantId) (rec : Nat) (segs : List Segment) (d : TileDst)
      (ecc : Ecc), rec < 1048576 →
    let k := t'.toNat
    let b := bankOf k use.bank s
    let fits := b.state = .ready ∧ b.kind = use.kind.toNat ∧ b.version = use.version.toNat ∧ (b.kind = 0 → b.ten = ten.toNat)
    let y := runRecord b rec (segs.flatMap segVals)
    let c := Instr.buntingVector t' step use ten rec segs d ecc
    (b.state = .loading → exec c s = .next s) ∧
    (b.state ≠ .loading → ¬ fits → exec c s = .next (tagMiss k step s)) ∧
    (fits → ecc = .uncorrectable → exec c s = .next (bankBad k use.bank s)) ∧
    (fits → ecc ≠ .uncorrectable → ∃ u, exec c s = .next u ∧
      (∀ p vid, d = .delta p vid → (pntOf p.toNat u).coming = (pntOf p.toNat s).coming ++
          [(vid, k, (List.range y.1.length).map fun i => (i, (y.1[i]?).getD 0))] ∧ (∀ q, q ≠ p.toNat → pntOf q u = pntOf q s) ∧
          u.sram = s.sram) ∧
      (∀ fmt h a, d = .store fmt h a → u.pnts = s.pnts ∧
        let x := convert fmt false 0 0 (y.1.map f32)
        u.sram = (storeVec .plain fmt (((storedVals fmt x).map fun v => absF32 (toF32 v)).foldl maxNanF32 0) x (some (h, a)) s).sram) ∧
      SMap.get dfltZero u.mtr.acts (ten.toNat * 16 + 1) = (SMap.get dfltZero s.mtr.acts (ten.toNat * 16 + 1) + y.2) % 2 ^ 48 ∧
      getF Reg.Glb.clampCnt u % 2 ^ 32 = (getF Reg.Glb.clampCnt s + (if y.2 = 0 then 0 else recClamps b rec)) % 2 ^ 32 ∧
      sameFields ([Reg.Glb.clampCnt, Reg.Glb.clampLast] ++ (if ecc = .corrected then [Reg.Pwr.corrCnt.at (pwrBase + 28)] else [])) s u ∧
      u.banks = s.banks ∧ u.sched = s.sched ∧ u.wgt = s.wgt ∧ u.vecs = s.vecs ∧ u.arrs = s.arrs))

/-- With the meter on, a second writes its record under the next RSEQ, a seal record before it where a seal exchange ended
the second before; moves MTIME on by one second; adds each account's energy to the totals and starts its counts over;
carries the part of its energy below 1 µJ; and exchanges the parameter sets where a programmed set waits. The energies
of the accounts add up to the energy of the second. With the meter off nothing happens. Power-on starts MTIME and the
counts over from the saved totals; power fall saves the totals and loses what is volatile. The close of an interval
sends a frame with its number, LTIME and counts, clears the counters and moves the number on. A whole frame that reaches
the running meter adds its counts to the second and tells how many frames are missing before it; another frame is
dropped. (R378, R379, R381, R384, R385, R386, R389, R390, R382, R383) -/
def Obligations.MeterSeconds : Prop :=
  (
  (∀ (p : MeterParams) (c : SMap Nat) (e : Nat), ((apportion p c e).2.map fun x => x.2.1).sum = e) ∧
  (∀ (s : State) (fj vDiff iDiff : Nat) (aboveV : Bool),
    let m := s.mtr
    let e := (m.carryFj + fj) / 10 ^ 9
    (m.on = false → exec (.meterSecond fj vDiff iDiff aboveV) s = .next s) ∧
    (m.on = true → ∃ t, exec (.meterSecond fj vDiff iDiff aboveV) s = .next t ∧ t.mtr.mtime = m.mtime + 16384000 ∧
      t.mtr.rseq = m.rseq + (if m.sealDue.isSome then 2 else 1) ∧
      t.mtr.totals = addTotals (apportion m.params m.counts e).2 m.totals ∧ t.mtr.carryFj + e * 10 ^ 9 = m.carryFj + fj ∧
      t.mtr.carryFj < 10 ^ 9 ∧ t.mtr.counts = [] ∧ t.mtr.frames = 0 ∧ t.mtr.missing = 0 ∧ t.mtr.firstRecord = false ∧
      (t.mtr.flagged = true ↔ 1000 < vDiff ∨ 1000 < iDiff ∨ aboveV = true) ∧
      (∀ p, m.exchange = true → m.spare = some p → t.mtr.params = p ∧ t.mtr.spare = some m.params ∧
        t.mtr.sealCount = m.sealCount + 1 ∧ t.mtr.exchange = false ∧ t.mtr.sealDue = some (paramDigest m.params)) ∧
      (m.exchange = false → t.mtr.params = m.params ∧ t.mtr.spare = m.spare ∧ t.mtr.sealCount = m.sealCount ∧
        t.mtr.exchange = false ∧ t.mtr.sealDue = none) ∧
      t.mtr.acts = m.acts ∧ t.mtr.sent = m.sent ∧ t.mtr.nonce = m.nonce ∧ t.mtr.saved = m.saved ∧ t.mtr.win = m.win ∧
      (t.pins.mtrAlertN = true ↔ mtrCond t.mtr = 0) ∧
      t = { s with mtr := t.mtr, pins := { s.pins with mtrAlertN := t.pins.mtrAlertN } })) ∧
  (∀ s : State,
    (s.mtr.on = true → (∀ ok, exec (.meterPowerOn ok) s = .next s) ∧
      exec .totalsSave s = .next { s with mtr := { s.mtr with saved := s.mtr.totals } }) ∧
    (∀ ok, s.mtr.on = false → ∃ t, exec (.meterPowerOn ok) s = .next t ∧ t.mtr.on = true ∧ t.mtr.mtime = 0 ∧
      t.mtr.counts = [] ∧ t.mtr.frames = 0 ∧ t.mtr.missing = 0 ∧ t.mtr.firstRecord = true ∧ t.mtr.sealFault = !ok ∧ t.mtr.records = [] ∧
      t.mtr.totals = s.mtr.saved ∧ t.mtr.nonce = none ∧ t.mtr.params = s.mtr.params ∧ t.mtr.rseq = s.mtr.rseq ∧
      t.mtr.sealCount = s.mtr.sealCount ∧ t = { s with mtr := t.mtr, pins := { s.pins with mtrAlertN := t.pins.mtrAlertN } }) ∧
    (s.mtr.on = false → (∀ fj, exec (.meterPowerFall fj) s = .next s) ∧ exec .totalsSave s = .next s) ∧
    (∀ fj, s.mtr.on = true → ∃ t, exec (.meterPowerFall fj) s = .next t ∧ t.mtr.on = false ∧ t.mtr.saved = s.mtr.totals ∧
      t.mtr.savedOpen = (s.mtr.carryFj + fj) / 10 ^ 9 ∧ t.mtr.records = [] ∧ t.mtr.nonce = none ∧ t.pins.mtrAlertN = true ∧
      t.mtr.params = s.mtr.params ∧ t.mtr.rseq = s.mtr.rseq ∧ t.mtr.sealCount = s.mtr.sealCount ∧
      t = { s with mtr := t.mtr, pins := { s.pins with mtrAlertN := true } }))) ∧ (
  (∀ s : State, ∃ t f, exec .activityIntervalClose s = .next t ∧ t.mtr.sent = s.mtr.sent ++ [f] ∧ f.interval = s.mtr.interval ∧
    f.ltime = now s ∧ t.mtr.acts = [] ∧ t.mtr.interval = (s.mtr.interval + 1) % 2 ^ 32 ∧
    (s.kv.dir = [] → s.kv.lent = [] → f.counts = s.mtr.acts.map fun e => (e.1 / 16, e.1 % 16, e.2)) ∧
    t = { s with mtr := { s.mtr with sent := t.mtr.sent, acts := [], interval := t.mtr.interval } }) ∧
  (∀ (s : State) (ok : Bool), s.mtr.sent = [] → exec (.counterFrame ok) s = .next s) ∧
  (∀ (s : State) (ok : Bool) (f : Frame) (l : List Frame), s.mtr.sent = f :: l →
    ((ok = false ∨ s.mtr.on = false) → exec (.counterFrame ok) s = .next { s with mtr := { s.mtr with sent := l } }) ∧
    (ok = true → s.mtr.on = true → ∃ t, exec (.counterFrame ok) s = .next t ∧ t.mtr.sent = l ∧
      t.mtr.counts = frameCounts f s.mtr.counts ∧ t.mtr.frames = s.mtr.frames + 1 ∧ t.mtr.lastInterval = some f.interval ∧
      (s.mtr.lastInterval = none → t.mtr.missing = s.mtr.missing) ∧
      (∀ i, s.mtr.lastInterval = some i → i < f.interval → t.mtr.missing + i + 1 = s.mtr.missing + f.interval) ∧
      t = { s with mtr := { s.mtr with sent := l, counts := t.mtr.counts, frames := t.mtr.frames, missing := t.mtr.missing,
                                       firstFrame := t.mtr.firstFrame, lastInterval := t.mtr.lastInterval } })))

/-- Over I3C, a record that the store still holds answers its chunk and counts as read, any other answers nothing; totals
chunk 0 forms a new record under the next RSEQ; parameters and status answer their bytes. Through the mailbox a request
sets BUSY and, with firmware and meter running, leaves its answer or GONE with DONE; with either stopped it is held, and
while BUSY is set it is counted as ignored. SEAL_NONCE of the running meter draws a fresh nonce, answers it with the
seal count and the meter's identity, and keeps it with its time. SEAL_APPLY uses the nonce up: an authorised set is kept
as the spare copy and programmed, with answer 0; any other is refused with answer 1. A programmed copy waits for the
next second; a failed one is dropped. A nonce expires after 60 s. (R34, R387, R390, R392, R389, Table 15-3) -/
def Obligations.MeterReading : Prop :=
  (
  (∀ (s : State) (k : BitVec 5),
    (s.mtr.on = false →
      (∀ r, exec (.readRecord (some r) k) s = .next { s with answer := .none }) ∧
      exec (.readTotals true k) s = .next { s with answer := .none } ∧ exec (.readParams true k) s = .next { s with answer := .none } ∧
      exec (.readStatus true) s = .next { s with answer := .none }) ∧
    (s.mtr.on = true →
      (∀ (r : Word64) (x : MeterRecord), (s.mtr.records.find? fun y => y.rseq = r.toNat) = some x →
        ∃ t, exec (.readRecord (some r) k) s = .next t ∧ t.answer = .bytes (chunkOf k.toNat x.bytes) ∧
          t.mtr = { s.mtr with readTo := max s.mtr.readTo r.toNat } ∧
          t = { s with answer := t.answer, mtr := t.mtr, pins := { s.pins with mtrAlertN := t.pins.mtrAlertN } }) ∧
      (∀ r : Word64, (s.mtr.records.find? fun y => y.rseq = r.toNat) = none →
        ∃ t, exec (.readRecord (some r) k) s = .next t ∧ t.answer = .none ∧ t.mtr = s.mtr) ∧
      (k.toNat = 0 → ∃ t x, exec (.readTotals true k) s = .next t ∧ t.mtr.totalsRec = some x ∧ x.rseq = s.mtr.rseq + 1 ∧
        t.mtr = { s.mtr with rseq := s.mtr.rseq + 1, totalsRec := some x, firstRecord := false } ∧ t.answer = .bytes (chunkOf 0 x.bytes) ∧
        t = { s with answer := t.answer, mtr := t.mtr }) ∧
      (k.toNat ≠ 0 → ∀ x, s.mtr.totalsRec = some x →
        exec (.readTotals true k) s = .next { s with answer := .bytes (chunkOf k.toNat x.bytes) }) ∧
      exec (.readParams true k) s = .next { s with answer := .bytes (chunkOf k.toNat (paramBytes s.mtr.params)) } ∧
      exec (.readStatus true) s = .next { s with answer := .bytes (statusBytes s.mtr) })) ∧
  (∀ (s : State) (k : BitVec 5) (c : Instr) (op ch : Nat),
    ((c = .readRecord none k ∧ op = 1 ∧ ch = k.toNat) ∨ (c = .readTotals false k ∧ op = 2 ∧ ch = k.toNat) ∨
      (c = .readParams false k ∧ op = 3 ∧ ch = k.toNat) ∨ (c = .readStatus false ∧ op = 4 ∧ ch = 0)) →
    let box := [Reg.Mtr.mbBusy.at mtrBase, Reg.Mtr.mbDone.at mtrBase, Reg.Mtr.mbGone.at mtrBase, Reg.Mtr.mbLen.at mtrBase,
      Reg.Mtr.sealCnt.at mtrBase, Reg.Mtr.newest.at mtrBase, Reg.Mtr.cond.at mtrBase]
    (isSet (Reg.Mtr.mbBusy.at mtrBase) s = true → exec c s = .next (countIgnored 0xA0000 s)) ∧
    (isSet (Reg.Mtr.mbBusy.at mtrBase) s = false → (isSet Reg.Glb.mgmtFwRun s = false ∨ s.mtr.on = false) →
      ∃ t, exec c s = .next t ∧ getF (Reg.Mtr.mbBusy.at mtrBase) t = 1 ∧ t.mtr = { s.mtr with held := some (op, ch) } ∧
        sameFields [Reg.Mtr.mbBusy.at mtrBase] s t ∧ t = { s with regs := t.regs, mtr := t.mtr }) ∧
    (isSet (Reg.Mtr.mbBusy.at mtrBase) s = false → isSet Reg.Glb.mgmtFwRun s = true → s.mtr.on = true →
      ∃ t, exec c s = .next t ∧ getF (Reg.Mtr.mbBusy.at mtrBase) t = 0 ∧ getF (Reg.Mtr.mbDone.at mtrBase) t = 1 ∧
        (op = 1 → recordChunk (getF (Reg.Mtr.rseqSel.at mtrBase) s) ch s.mtr = none →
          getF (Reg.Mtr.mbGone.at mtrBase) t = 1 ∧ getF (Reg.Mtr.mbLen.at mtrBase) t = 0 ∧ t.mtr.win = []) ∧
        (∀ b, op = 1 → recordChunk (getF (Reg.Mtr.rseqSel.at mtrBase) s) ch s.mtr = some b → t.mtr.win = b) ∧
        (op = 2 → ch = 0 → t.mtr.rseq = s.mtr.rseq + 1 ∧ t.mtr.totalsRec.isSome = true) ∧
        (op = 3 → t.mtr.win = chunkOf ch (paramBytes s.mtr.params)) ∧
        (op = 4 → t.mtr.win = statusBytes s.mtr ∧ getF (Reg.Mtr.cond.at mtrBase) t = mtrCond s.mtr) ∧
        sameFields box s t ∧
        t = { s with regs := t.regs, mtr := { s.mtr with win := t.mtr.win, rseq := t.mtr.rseq, totalsRec := t.mtr.totalsRec },
                     host := { s.host with msixPending := t.host.msixPending, msixSent := t.host.msixSent } }))) ∧ (
  ∀ s : State,
    (s.mtr.on = false → exec .sealNonce s = .next { s with answer := .none } ∧
      (∀ p key sig, exec (.sealApply p key sig) s = .next { s with answer := .none })) ∧
    (s.mtr.on = true → ∃ t, exec .sealNonce s = .next t ∧ t.fresh = s.fresh + 1 ∧
      t.mtr = { s.mtr with nonce := some (Config.nonce s.fresh, s.mtr.mtime) } ∧
      t.answer = .bytes (Config.nonce s.fresh ++ leBytes 4 s.mtr.sealCount ++ mtrIdentity) ∧
      t = { s with fresh := t.fresh, mtr := t.mtr, answer := t.answer, pins := { s.pins with mtrAlertN := t.pins.mtrAlertN } }) ∧
    (∀ p key sig, s.mtr.on = true → ∃ t, exec (.sealApply p key sig) s = .next t ∧
      t.answer = .value (if sealGood p key sig s.mtr then 0 else 1) ∧
      t.mtr = (if sealGood p key sig s.mtr then { s.mtr with nonce := none, spare := some p, programming := true }
        else { s.mtr with nonce := none }) ∧
      t = { s with mtr := t.mtr, answer := t.answer, pins := { s.pins with mtrAlertN := t.pins.mtrAlertN } }) ∧
    (∀ p key sig n, s.mtr.nonce = some n → (n.2 + 60 * 16384000 ≤ s.mtr.mtime ∨ s.mtr.programming = true ∨ s.mtr.exchange = true ∨
        Config.shake256 key ≠ s.mtr.params.keyDigest ∨ 2 ^ 32 - 1 ≤ s.mtr.sealCount ∨
        Config.ed448Verify key (sealMessage n.1 s.mtr.sealCount p) sig = false) → sealGood p key sig s.mtr = false) ∧
    (∀ ok, s.mtr.programming = false → exec (.sealCopyProgrammed ok) s = .next s) ∧
    (∀ ok, s.mtr.programming = true → exec (.sealCopyProgrammed ok) s = .next { s with mtr :=
      { s.mtr with programming := false, exchange := ok, spare := if ok then s.mtr.spare else none } }) ∧
    (∀ n, s.mtr.nonce = some n → s.mtr.mtime < n.2 + 60 * 16384000 → exec .sealNonceExpiry s = .next s) ∧
    (∀ n, s.mtr.nonce = some n → n.2 + 60 * 16384000 ≤ s.mtr.mtime → ∃ t, exec .sealNonceExpiry s = .next t ∧
      t.mtr = { s.mtr with nonce := none } ∧ t = { s with mtr := t.mtr, pins := { s.pins with mtrAlertN := t.pins.mtrAlertN } }))

/-- While BUSY is set an operation waits behind the others. NEWNONCE makes a fresh nonce; COMMIT_SVN raises the floor to the
running SVN and never lowers it; REVOKE_FWKEY0 works only while firmware signed with key 1 runs; GET_CERT answers a
certificate; ATTEST asks for a report, or fails with error 6 after an identity failure. DEBUG_UNLOCK without an image is
refused with error 2 without a nonce; a good token sets DEBUG and erases every key, another fails with error 1, and
either uses the nonce up. Each sets DONE with its error code. (R396, R399, R401, R406, R408, Table 16-6, Table 16-7) -/
def Obligations.SecurityOperations : Prop :=
  (∀ (s : State) (c : Instr) (o : SecOp), isSet Reg.Glb.secBusy s = true →
    ((c = .attest ∧ o = .attest) ∨ (c = .newnonce ∧ o = .newNonce) ∨ (∃ r k, c = .enroll r k ∧ o = .enroll k.toNat (r == 2)) ∨
      (∃ k, c = .revoke k ∧ o = .revoke k.toNat) ∨ (c = .commitSvn ∧ o = .commitSvn) ∨ (c = .debugUnlock ∧ o = .debugUnlock) ∨
      (c = .revokeFwkey0 ∧ o = .revokeFwKey0) ∨ (∃ k, c = .getCert k ∧ o = .getCert k.toNat)) →
    exec c s = .next { s with sec := { s.sec with ops := s.sec.ops ++ [o] } }) ∧
  (∀ s : State, isSet Reg.Glb.secBusy s = false →
    let fin := [Reg.Glb.secErr, Reg.Glb.secDone]
    let ended := fun (err : Nat) (t : State) => getF Reg.Glb.secErr t = err ∧ getF Reg.Glb.secDone t = 1
    (∃ t, exec .newnonce s = .next t ∧ ended 0 t ∧ t.sec = { s.sec with nonce := some (Config.nonce s.fresh) } ∧
      sameFields fin s t ∧ t = { s with regs := t.regs, sec := t.sec, fresh := s.fresh + 1 }) ∧
    (∃ t, exec .commitSvn s = .next t ∧ ended 0 t ∧ t.sec = { s.sec with floor := max s.sec.floor (getF Reg.Glb.secSvn s) } ∧
      getF Reg.Glb.secFloor t = max s.sec.floor (getF Reg.Glb.secSvn s) % 2 ^ 32 ∧ sameFields (Reg.Glb.secFloor :: fin) s t ∧
      t = { s with regs := t.regs, sec := t.sec }) ∧
    (s.sec.fwKey1 = true → ∃ t, exec .revokeFwkey0 s = .next t ∧ ended 0 t ∧ t.sec = { s.sec with key0Revoked := true } ∧
      sameFields fin s t ∧ t = { s with regs := t.regs, sec := t.sec }) ∧
    (s.sec.fwKey1 = false → exec .revokeFwkey0 s = .next (countIgnored 0x204 s)) ∧
    (∀ k : BitVec 4, k.toNat ≤ 2 → ∃ t, exec (.getCert k) s = .next t ∧ ended 0 t ∧
      t.sec = { s.sec with win := leBytes 4 (Config.certificate k.toNat).length ++ Config.certificate k.toNat } ∧
      sameFields fin s t ∧ t = { s with regs := t.regs, sec := t.sec }) ∧
    (∀ k : BitVec 4, 2 < k.toNat → exec (.getCert k) s = .next (countIgnored 0x204 s)) ∧
    (isSet Reg.Glb.secIdFail s = true → ∃ t, exec .attest s = .next t ∧ ended 6 t ∧ sameFields fin s t ∧ t = { s with regs := t.regs }) ∧
    (isSet Reg.Glb.secIdFail s = false → ∃ t, exec .attest s = .next t ∧ isSet Reg.Glb.secBusy t = true ∧
      t.sec = { s.sec with reports := s.sec.reports ++ [(false, xferBytes 0 32 s)] } ∧ sameFields [Reg.Glb.secBusy] s t ∧
      t = { s with regs := t.regs, sec := t.sec }) ∧
    (getF Reg.Glb.ensState s ≠ 0 → exec .debugUnlock s = .next (countIgnored 0x204 s)) ∧
    (getF Reg.Glb.ensState s = 0 → s.sec.nonce = none → ∃ t, exec .debugUnlock s = .next t ∧ ended 2 t ∧ sameFields fin s t ∧
      t = { s with regs := t.regs }) ∧
    (∀ n, getF Reg.Glb.ensState s = 0 → s.sec.nonce = some n →
      let key := xferBytes 4 57 s
      let good := Config.shake256 key = Config.debugKeyDigest ∧ Config.ed448Verify key
        (Config.shake256 (leBytes 8 0x544C4442554E4C4B ++ idDigest ++ n)) (xferBytes 64 114 s) = true
      (good → ∃ t, exec .debugUnlock s = .next t ∧ ended 0 t ∧ getF Reg.Glb.secDebug t = 1 ∧
        t.sec = { s.sec with slotKeys := [], secrets := [], nonce := some (Config.nonce s.fresh) } ∧
        sameFields (Reg.Glb.secDebug :: fin ++ reportFields) s t ∧ quiet { t with sec := s.sec, fresh := s.fresh } = quiet s) ∧
      (¬ good → ∃ t, exec .debugUnlock s = .next t ∧ ended 1 t ∧ t.sec = { s.sec with nonce := some (Config.nonce s.fresh) } ∧
        sameFields fin s t ∧ t = { s with regs := t.regs, sec := t.sec, fresh := s.fresh + 1 })))

/-- With BUSY 0 and no identity failure, ENROLL of a slot that is not EMPTY, or not the one in SEC_XFER, ends with error 3;
with every slot EMPTY only the board controller with signer 0xFF may enroll, else error 4; otherwise a nonce is needed
(error 2), it is used up, and a good signature of an enrolled signer enrols the key while another ends with error 1.
REVOKE of the only enrolled slot ends with error 5; signed by another enrolled key it makes the slot REVOKED. Other
slots stand. (R397, R398, Table 16-7) -/
def Obligations.ConfigurationKeys : Prop :=
  ∀ (s : State) (k : BitVec 4), isSet Reg.Glb.secBusy s = false →
    let n := k.toNat
    let fin := [Reg.Glb.secErr, Reg.Glb.secDone]
    let ended := fun (err : Nat) (t : State) => getF Reg.Glb.secErr t = err ∧ getF Reg.Glb.secDone t = 1
    let refused := fun (c : Instr) (err : Nat) => ∃ t, exec c s = .next t ∧ ended err t ∧ sameFields fin s t ∧ t = { s with regs := t.regs }
    let used := fun (c : Instr) => ∃ t, exec c s = .next t ∧ ended 1 t ∧
      t.sec = { s.sec with nonce := some (Config.nonce s.fresh) } ∧ sameFields fin s t ∧
      t = { s with regs := t.regs, sec := t.sec, fresh := s.fresh + 1 }
    let key := xferBytes 4 57 s
    let stored := fun (c : Instr) (x : CfgKey) => ∃ t, exec c s = .next t ∧ ended 0 t ∧ cfgKey n t = x ∧
      (∀ j, j ≠ n → cfgKey j t = cfgKey j s) ∧ getF Reg.Glb.secKeySlots t = cfgKeysWord t % 2 ^ 8 ∧
      t.sec = { s.sec with cfgKeys := t.sec.cfgKeys, nonce := t.sec.nonce } ∧
      sameFields (Reg.Glb.secKeySlots :: fin ++ reportFields) s t ∧ quiet { t with sec := s.sec, fresh := s.fresh } = quiet s
    let empty := ∀ j, j < 4 → (cfgKey j s).state = 0
    (isSet Reg.Glb.secIdFail s = true → ∀ r, refused (.enroll r k) 6) ∧
    (isSet Reg.Glb.secIdFail s = false → ∀ r,
      (3 < n ∨ ofLe (xferBytes 0 1 s) ≠ n ∨ (cfgKey n s).state ≠ 0 → refused (.enroll r k) 3) ∧
      (n ≤ 3 → ofLe (xferBytes 0 1 s) = n → empty → r = 2 → ofLe (xferBytes 1 1 s) = 0xFF →
        stored (.enroll r k) ⟨1, key, s.mtr.rseq⟩) ∧
      (n ≤ 3 → ofLe (xferBytes 0 1 s) = n → empty → (r ≠ 2 ∨ ofLe (xferBytes 1 1 s) ≠ 0xFF) → refused (.enroll r k) 4) ∧
      (n ≤ 3 → ofLe (xferBytes 0 1 s) = n → (cfgKey n s).state = 0 → ¬ empty →
        (s.sec.nonce = none → refused (.enroll r k) 2) ∧
        (s.sec.nonce ≠ none → enrolGood n 3 key s = true → stored (.enroll r k) ⟨1, key, s.mtr.rseq⟩) ∧
        (s.sec.nonce ≠ none → enrolGood n 3 key s = false → used (.enroll r k)))) ∧
    (3 < n ∨ ofLe (xferBytes 0 1 s) ≠ n ∨ (cfgKey n s).state ≠ 1 → refused (.revoke k) 3) ∧
    (n ≤ 3 → ofLe (xferBytes 0 1 s) = n → (cfgKey n s).state = 1 →
      let other := ∃ j, j < 4 ∧ j ≠ n ∧ (cfgKey j s).state = 1
      (¬ other → refused (.revoke k) 5) ∧
      (other → s.sec.nonce = none → refused (.revoke k) 2) ∧
      (other → s.sec.nonce ≠ none →
        (enrolGood n 4 (List.replicate 57 0) s = true → ofLe (xferBytes 1 1 s) ≠ n →
          stored (.revoke k) { cfgKey n s with state := 2 }) ∧
        (enrolGood n 4 (List.replicate 57 0) s = false ∨ ofLe (xferBytes 1 1 s) = n → used (.revoke k))))

/-- GET_MEASUREMENTS asks for a report over its nonce. A report comes only while no management-plane transition is in
progress: over SPDM as the answer, for ATTEST in SEC_WIN with its length, DONE and BUSY 0. TENANT_KEY of an unreadable
record completes with status 6, outside the table with 3, with a record or secret that does not fit with 8; a good one
stores the secret, or removes it where it is zero, and completes with status 0. (R399, R400, R402, R403, Table 12-4,
Table 16-4) -/
def Obligations.AttestationAndSecrets : Prop :=
  (∀ (s : State) (nonce : List Byte), nonce.length = 32 →
    (isSet Reg.Glb.secIdFail s = true → exec (.getMeasurements nonce) s = .next { s with answer := .none }) ∧
    (isSet Reg.Glb.secIdFail s = false → exec (.getMeasurements nonce) s =
      .next { s with sec := { s.sec with reports := s.sec.reports ++ [(true, nonce)] } })) ∧
  (∀ (s : State) (ok : Bool),
    (s.sec.reports = [] ∨ mgmtStill s = false → exec (.attestReport ok) s = .next s) ∧
    (∀ nonce l, s.sec.reports = (true, nonce) :: l → mgmtStill s = true → exec (.attestReport ok) s =
      .next { s with sec := { s.sec with reports := l }, answer := .bytes (reportBytes nonce (ok && s.mtr.on) s) }) ∧
    (∀ nonce l, s.sec.reports = (false, nonce) :: l → mgmtStill s = true → s.sec.ops = [] →
      ∃ t, exec (.attestReport ok) s = .next t ∧ getF Reg.Glb.secBusy t = 0 ∧ getF Reg.Glb.secDone t = 1 ∧ getF Reg.Glb.secErr t = 0 ∧
        t.sec = { s.sec with
          reports := l, win := leBytes 4 (reportBytes nonce (ok && s.mtr.on) s).length ++ reportBytes nonce (ok && s.mtr.on) s } ∧
        sameFields [Reg.Glb.secBusy, Reg.Glb.secDone, Reg.Glb.secErr] s t ∧ t = { s with regs := t.regs, sec := t.sec })) ∧
  (∀ (s : State) (h : CmdHead) (rec : List Byte) (secret : Option (List Byte)), rec.length = 256 → canCommand s = true →
    let n := h.ten.toNat
    let misfit := keysRefused s = true ∨ rec.take 64 ≠ idDigest ∨ ofLe ((rec.drop 180).take 2) ≠ n ∨
      (hasSecret n s = true ∧ tenantHolds n s = true)
    (∃ u, exec (.tenantKey h false rec secret) s = .next (cmdDone h 6 u) ∧ commandTaken s u ∧ quiet u = quiet s) ∧
    (s.sched.tenantCount ≤ n → ∃ u, exec (.tenantKey h true rec secret) s = .next (cmdDone h 3 u) ∧ commandTaken s u ∧ quiet u = quiet s) ∧
    (n < s.sched.tenantCount → (secret = none ∨ misfit) →
      ∃ u, exec (.tenantKey h true rec secret) s = .next (cmdDone h 8 u) ∧ commandTaken s u ∧ quiet u = quiet s) ∧
    (∀ k, n < s.sched.tenantCount → secret = some k → ¬ misfit →
      ∃ u, exec (.tenantKey h true rec secret) s = .next (cmdDone h 0 u) ∧ commandTaken s u ∧
        (if k.all (fun b => b = 0) then ∀ x ∈ u.sec.secrets, x.1 ≠ n else (n, k) ∈ u.sec.secrets) ∧
        (∀ x, x.1 ≠ n → (x ∈ u.sec.secrets ↔ x ∈ s.sec.secrets)) ∧
        u.sec = { s.sec with secrets := u.sec.secrets } ∧ quiet { u with sec := s.sec } = quiet s))

/-- EN takes a DISABLED port to LIGHT, and a port disabled is dark with its replay buffer discarded, and the steps of the
messages in it fail with cause 12 (the model's reading of Table 11-10, log entry 181). All four wavelengths with powers
in their window lead from LIGHT to LOCK; locked lanes, a skew of at most 256 UI and FEC lock lead on; the identity that
the port must see makes it UP with the peer's credits, any other HELD with MISWIRE. Each is without effect in another
state. A power outside its window after 1 ms sets LIGHT_LOW. (R283, R284, R293, R294, R295, R296, Table 11-6) -/
def Obligations.PortTraining : Prop :=
  ∀ (s : State) (n : Nat), n ≤ 19 →
    let st := portState n s
    let stF := portF Reg.Port.state n
    let lkF := portF Reg.Port.locked n
    let only := fun (l : List Field) (t : State) => sameFields l s t ∧ (∀ k, k ≠ n → portOf k t = portOf k s) ∧
      t = { s with regs := t.regs, lnk := { s.lnk with ports := t.lnk.ports } }
    (st = 0 → ∃ t, exec (.linkEnable n) s = .next t ∧ getF (portF Reg.Port.en n) t = 1 ∧ portState n t = 1 ∧ getF lkF t = 0 ∧
      portOf n t = { portOf n s with attempts := 0, attemptAt := now s } ∧ only [portF Reg.Port.en n, stF, lkF] t) ∧
    (st ≠ 0 → exec (.linkEnable n) s = .next (setF (portF Reg.Port.en n) 1 s)) ∧
    (∃ t, exec (.linkDisable n) s = .next ((lostSteps ((portOf n s).replay.map fun f => f.msg) s).foldl
      (fun u k => failHere k 12 u) t) ∧ portState n t = 0 ∧ getF (portF Reg.Port.en n) t = 0 ∧ getF lkF t = 0 ∧
      portOf n t = { portOf n s with replay := [], resend := [], nakSince := none, nakToSend := false, attempts := 0 } ∧
      only [portF Reg.Port.en n, stF, lkF] t) ∧
    (∀ pwr : Word,
      let good := lightOf n s = 15 ∧ ∀ l, l < 4 → pwrOk (pwr.extractLsb' (8 * l) 8) = true
      (st ≠ 1 → exec (.lightWindow n pwr) s = .next s) ∧
      (st = 1 → ∃ t, exec (.lightWindow n pwr) s = .next t ∧ getF (portF Reg.Port.rxPwr n) t = pwr.toNat ∧
        (good → portState n t = 2) ∧ (¬ good → portState n t = 1) ∧ sameFields [portF Reg.Port.rxPwr n, stF] s t ∧
        t = { s with regs := t.regs })) ∧
    (st = 1 → (portOf n s).attemptAt + ticksMs 1 ≤ now s →
      exec (.lightLowTimeout n) s = .next (setF (portF Reg.Port.lightLow n) 1 s)) ∧
    (st ≠ 1 ∨ now s < (portOf n s).attemptAt + ticksMs 1 → exec (.lightLowTimeout n) s = .next s) ∧
    (st = 2 → ∃ t, exec (.laneLock n) s = .next t ∧ portState n t = 3 ∧ getF lkF t = 15 ∧ sameFields [stF, lkF] s t ∧
      t = { s with regs := t.regs }) ∧
    (st ≠ 2 → exec (.laneLock n) s = .next s) ∧
    (∀ skew : Word,
      let good := ∀ l, l < 4 → (skew.extractLsb' (8 * l) 8).toNat ≤ 128
      (st ≠ 3 → exec (.deskew n skew) s = .next s) ∧
      (st = 3 → ∃ t, exec (.deskew n skew) s = .next t ∧ getF (portF Reg.Port.skew n) t = skew.toNat ∧
        (good → portState n t = 4) ∧ (¬ good → portState n t = 3) ∧ sameFields [portF Reg.Port.skew n, stF] s t ∧
        t = { s with regs := t.regs })) ∧
    (st = 4 → exec (.fecLock n) s = .next (setF stF 5 s)) ∧ (st ≠ 4 → exec (.fecLock n) s = .next s) ∧
    (∀ (pod : BitVec 10) (port : BitVec 5) (ack : BitVec 12) (a b c d : BitVec 9),
      let cmd := Instr.peerIdentity n pod port ack [a, b, c, d]
      (st ≠ 5 → exec cmd s = .next s) ∧
      (st = 5 → peerOk n pod.toNat port.toNat s = true → ∃ t, exec cmd s = .next t ∧ portState n t = 6 ∧
        getF (portF Reg.Port.peerPod n) t = pod.toNat ∧ getF (portF Reg.Port.peerPort n) t = port.toNat ∧
        getF (portF Reg.Port.credAct n) t = a.toNat ∧ getF (portF Reg.Port.credKv n) t = b.toNat ∧
        getF (portF Reg.Port.credCtl n) t = c.toNat ∧ getF (portF Reg.Port.credBc n) t = d.toNat ∧
        portOf n t = { resume2 ack.toNat (portOf n s) with lastSent := now s, lastHeard := now s } ∧
        only [stF, portF Reg.Port.peerPod n, portF Reg.Port.peerPort n, portF Reg.Port.credAct n, portF Reg.Port.credKv n,
          portF Reg.Port.credCtl n, portF Reg.Port.credBc n] t) ∧
      (st = 5 → peerOk n pod.toNat port.toNat s = false → ∃ t, exec cmd s = .next t ∧ portState n t = 7 ∧
        getF (portF Reg.Port.miswire n) t = 1 ∧ getF (portF Reg.Port.peerPod n) t = pod.toNat ∧
        getF (portF Reg.Port.peerPort n) t = port.toNat ∧
        sameFields ([stF, portF Reg.Port.miswire n, portF Reg.Port.peerPod n, portF Reg.Port.peerPort n] ++ reportFields) s t ∧
        quiet t = quiet s))

/-- RETRAIN and a lane that unlocks take an UP port back to LIGHT with its replay buffer kept and a training counted;
RETRAIN takes a HELD one there. An attempt that has lasted 10 ms starts the next, and the third goes DOWN with its
replay buffer discarded, counted and reported; AUTO tries again after 1 s in DOWN. A light input that loses a wavelength
clears its bit and takes every UP port it feeds out of UP; its return sets the bit. (R284, R293, R294, R442, Table 11-6) -/
def Obligations.PortLossAndLight : Prop :=
  (∀ (s : State) (n : Nat), n ≤ 19 →
    let st := portState n s
    let stF := portF Reg.Port.state n
    let lkF := portF Reg.Port.locked n
    let tcF := portF Reg.Port.trainCnt n
    let tried := fun (c : Instr) (k : Nat) => ∃ t, exec c s = .next t ∧ portState n t = 1 ∧ getF lkF t = 0 ∧
      portOf n t = { portOf n s with attempts := k, attemptAt := now s } ∧ (∀ k, k ≠ n → portOf k t = portOf k s) ∧
      sameFields [stF, lkF] s t ∧ t = { s with regs := t.regs, lnk := { s.lnk with ports := t.lnk.ports } }
    (st = 6 → ∀ c : Instr, c = .linkRetrain n ∨ c = .laneUnlock n →
      ∃ t, exec c s = .next t ∧ portState n t = 1 ∧ getF lkF t = 0 ∧ getF tcF t = (getF tcF s + 1) % 2 ^ 32 ∧
        portOf n t = { portOf n s with attempts := 0, attemptAt := now s, resend := [], nakSince := none,
                                       replay := (portOf n s).replay.map fun f => { f with resent := 0 } } ∧
        (∀ k, k ≠ n → portOf k t = portOf k s) ∧ sameFields [stF, lkF, tcF] s t ∧
        t = { s with regs := t.regs, lnk := { s.lnk with ports := t.lnk.ports }, flt := { s.flt with life := t.flt.life } }) ∧
    (st = 7 → tried (.linkRetrain n) 0) ∧ (st ≠ 6 → st ≠ 7 → exec (.linkRetrain n) s = .next s) ∧
    (st ≠ 6 → exec (.laneUnlock n) s = .next s) ∧
    (let past := (portOf n s).attemptAt + ticksMs 10 ≤ now s
     (st = 0 ∨ 5 < st ∨ ¬ past → exec (.trainingAttemptTimeout n) s = .next s) ∧
     (1 ≤ st → st ≤ 5 → past → (portOf n s).attempts < 2 → tried (.trainingAttemptTimeout n) ((portOf n s).attempts + 1)) ∧
     (1 ≤ st → st ≤ 5 → past → 2 ≤ (portOf n s).attempts → s.sched.steps = [] →
       ∃ t, exec (.trainingAttemptTimeout n) s = .next t ∧ portState n t = 8 ∧ getF (portF Reg.Port.downEvt n) t = 1 ∧
         getF (portF Reg.Port.downCnt n) t = (getF (portF Reg.Port.downCnt n) s + 1) % 2 ^ 32 ∧
         (portOf n t).replay = [] ∧ (portOf n t).downAt = now s ∧
         sameFields ([stF, portF Reg.Port.downEvt n, portF Reg.Port.downCnt n] ++ reportFields) s t ∧ quiet t = quiet s)) ∧
    (st = 8 → isSet (portF Reg.Port.auto n) s = true → (portOf n s).downAt + ticksS 1 ≤ now s → tried (.downRetry n) 0) ∧
    (st ≠ 8 ∨ isSet (portF Reg.Port.auto n) s = false ∨ now s < (portOf n s).downAt + ticksS 1 → exec (.downRetry n) s = .next s)) ∧
  (∀ (s : State) (lin1 : Bool) (w : BitVec 2),
    (∃ t, exec (.lightInputLoss lin1 w) s = .next t ∧ (getF (lightF lin1) t).testBit w.toNat = false ∧
      (∀ i, i < 4 → i ≠ w.toNat → (getF (lightF lin1) t).testBit i = (getF (lightF lin1) s).testBit i) ∧
      (∀ n ∈ portsOfInput lin1, portState n t = (if portState n s = 6 then 1 else portState n s)) ∧
      (∀ n, n ∉ portsOfInput lin1 → portOf n t = portOf n s) ∧
      t = { s with regs := t.regs, lnk := { s.lnk with ports := t.lnk.ports }, flt := { s.flt with life := t.flt.life } }) ∧
    (∃ t, exec (.lightInputReturn lin1 w) s = .next t ∧ (getF (lightF lin1) t).testBit w.toNat = true ∧
      (∀ i, i < 4 → i ≠ w.toNat → (getF (lightF lin1) t).testBit i = (getF (lightF lin1) s).testBit i) ∧
      sameFields [lightF lin1] s t ∧ t = { s with regs := t.regs }))

/-- A payload flit in its order is taken, counted, acknowledged with the next header and its credit owed; an uncorrectable
one is counted and asks for a NAK, whose request is repeated after 2 µs; a port that is neither UP nor HELD takes
nothing. A flit time sends the oldest flit of a resend, else a new flit of the channel that priority chooses, which
takes a credit and the next number and joins the replay buffer, else a NULL flit under the last number. (R285, R286,
R287, R288, R289, Table 11-3) -/
def Obligations.Flits : Prop :=
  ∀ (s : State) (n : Nat), n ≤ 19 →
    let st := portState n s
    let p := portOf n s
    let cnt := fun (g : Field) (k : Nat) (t : State) => getF (portF g n) t % 2 ^ g.w = (getF (portF g n) s + k) % 2 ^ g.w
    let dom := [Reg.Pwr.corrCnt.at (pwrBase + 8), portF Reg.Port.corrCnt n]
    (∀ f : Flit, st ≠ 6 → st ≠ 7 → exec (.flitReceive n f) s = .next s) ∧
    (∀ f : Flit, (st = 6 ∨ st = 7) → f.uncorrectable = true → ∃ t, exec (.flitReceive n f) s = .next t ∧
      cnt Reg.Port.uncorrCnt 1 t ∧ cnt Reg.Port.corrCnt f.corrected t ∧
      portOf n t = { p with lastHeard := now s, nakToSend := true, nakSince := some (now s) } ∧
      (∀ k, k ≠ n → portOf k t = portOf k s) ∧ sameFields (dom ++ [Reg.Glb.uncCnt.at 16, portF Reg.Port.uncorrCnt n]) s t ∧
      t = { s with regs := t.regs, lnk := { s.lnk with ports := t.lnk.ports }, flt := { s.flt with life := t.flt.life } }) ∧
    (∀ f : Flit, st = 6 → f.uncorrectable = false → f.head.null = false → f.head.nak = false → f.head.fseq.toNat = nextSeq p.rxSeq →
      let rest := afterAck f.head.ackseq.toNat p.replay
      let credit := portF (credF f.head.crvc.toNat) n
      ∃ t, exec (.flitReceive n f) s = .next t ∧ cnt Reg.Port.rxFlit 1 t ∧ cnt Reg.Port.corrCnt f.corrected t ∧
        (f.head.crcnt.toNat ≠ 0 → getF credit t = min (getF credit s + f.head.crcnt.toNat) 511) ∧
        portOf n t = { p with
          lastHeard := now s, replay := rest, resend := afterAck f.head.ackseq.toNat p.resend, rxSeq := f.head.fseq.toNat,
          nakSince := none, nakToSend := false,
          owed := p.owed.set f.head.vc.toNat ((p.owed[f.head.vc.toNat]?).getD 0 + 1) } ∧
        (∀ k, k ≠ n → portOf k t = portOf k s) ∧ sameFields (dom ++ [credit, portF Reg.Port.rxFlit n]) s t ∧
        t = { s with regs := t.regs, lnk := { s.lnk with ports := t.lnk.ports }, mtr := { s.mtr with acts := t.mtr.acts },
                     flt := { s.flt with life := t.flt.life } }) ∧
    (p.nakSince = none → exec (.nakResend n) s = .next s) ∧
    (∀ a, p.nakSince = some a → st = 6 → a + ticksUs 2 ≤ now s → ∃ t, exec (.nakResend n) s = .next t ∧
      portOf n t = { p with nakToSend := true, nakSince := some (now s) } ∧ (∀ k, k ≠ n → portOf k t = portOf k s) ∧
      t = { s with lnk := { s.lnk with ports := t.lnk.ports } }) ∧
    (st ≠ 6 → st ≠ 7 → exec (.flitTime n) s = .next s) ∧
    (∀ f l, st = 6 → p.resend = f :: l → f.resent < 7 → f.fseq < 4096 → ∃ t h, exec (.flitTime n) s = .next t ∧
      (portOf n t).lastTx = some h ∧ h.fseq.toNat = f.fseq ∧ h.null = false ∧ h.nak = p.nakToSend ∧ (portOf n t).resend = l ∧
      (portOf n t).txSeq = p.txSeq ∧ (portOf n t).replay.length = p.replay.length ∧ (portOf n t).nakToSend = false ∧
      (∀ k, k ≠ n → portOf k t = portOf k s) ∧ t = { s with lnk := { s.lnk with ports := t.lnk.ports } }) ∧
    (∀ vc q, st = 6 → p.resend = [] → chooseVc n s = some vc → (p.queues.find? fun q => q.1 == vc) = some q →
      ∃ t h m, exec (.flitTime n) s = .next t ∧ (portOf n t).lastTx = some h ∧ h.fseq.toNat = nextSeq p.txSeq ∧ h.vc.toNat = vc % 4 ∧
        h.null = false ∧ (portOf n t).txSeq = nextSeq p.txSeq ∧ (portOf n t).replay = p.replay ++ [m] ∧ m.fseq = nextSeq p.txSeq ∧
        m.vc = vc ∧ m.msg = q.2.1 ∧ (portOf n t).queues = takeQueue vc p.queues ∧ (portOf n t).lastSent = now s ∧
        getF (portF (credF vc) n) t = (getF (portF (credF vc) n) s - 1) % 512 ∧ cnt Reg.Port.txFlit 1 t ∧
        (∀ k, k ≠ n → portOf k t = portOf k s) ∧ sameFields [portF (credF vc) n, portF Reg.Port.txFlit n] s t ∧
        t = { s with regs := t.regs, lnk := { s.lnk with ports := t.lnk.ports }, mtr := { s.mtr with acts := t.mtr.acts } }) ∧
    ((st = 7 ∨ (st = 6 ∧ p.resend = [] ∧ chooseVc n s = none)) → ∃ t h, exec (.flitTime n) s = .next t ∧
      (portOf n t).lastTx = some h ∧ h.null = true ∧ h.fseq.toNat = p.txSeq % 4096 ∧ (portOf n t).replay = p.replay ∧
      (portOf n t).queues = p.queues ∧ (∀ k, k ≠ n → portOf k t = portOf k s) ∧
      t = { s with lnk := { s.lnk with ports := t.lnk.ports } })

/-- Whole vectors are handed over in order, early ones held; a message marked RELAY is passed on or discarded and counted.
Drafts are kept for the step's verification, headroom values by the head part, and every message shows that its sender
is alive. Mirrored entries and records of the partner are kept and acknowledged, entries only while they fit the mirror
buffer. A mirror record is written under a new counter value. DISCARD frees a sequence's blocks or, from the partner,
its mirror records. A route switch is taken once. (R189, R212, R220, R221, R292, R299, R301, R303, R305) -/
def Obligations.FabricMessages : Prop :=
  (∀ (s : State) (n : Nat) (m : Msg) (l : List Nat), n ≤ 19 → m.body = .vectors l →
    let u := hear m.spod s
    let old := s.lnk.arrivals.find? fun a => a.1 = m.step ∧ a.2.1 = m.layer
    let next := (old.map fun a => a.2.2.1).getD 0
    (m.relay = false → (old.map fun a => a.2.2.2).getD [] = [] →
      ∃ t, exec (.activationVectors n m) s = .next t ∧
        (m.vec0 = next → (m.step, m.layer, next + l.length, []) ∈ t.lnk.arrivals) ∧
        (m.vec0 ≠ next → (m.step, m.layer, next, [(m.vec0, l.length)]) ∈ t.lnk.arrivals) ∧
        (∀ a, ¬ (a.1 = m.step ∧ a.2.1 = m.layer) → (a ∈ t.lnk.arrivals ↔ a ∈ s.lnk.arrivals)) ∧
        t = { u with lnk := { u.lnk with arrivals := t.lnk.arrivals } }) ∧
    (let on := m.dpod / 16 = getF (Reg.Lnk.topoBoard.at lnkBase) s ∧ m.dpod ≠ myPod s ∧ 0 < relayBuf s
     (m.relay = true → on → exec (.activationVectors n m) s = .next (sendOn (directPort m.dpod s) { m with relay := false } u)) ∧
     (m.relay = true → ¬ on → exec (.activationVectors n m) s = .next (addF (portF Reg.Port.badRelayCnt n) 1 u)))) ∧
  (∀ (s : State) (src : BitVec 10) (n : Nat),
    let u := hear src.toNat s
    exec (.heartbeat src) s = .next u ∧
    (∀ (q : SeqKey) (l : List Proposal) (r : StepRec), stepOf n s = some r → ∃ t, exec (.draftProposals src n q l) s = .next t ∧
      stepOf n t = some { r with drafts := (r.drafts.filter fun d => ¬ d.1 = q.toNat) ++ [(q.toNat, l)] } ∧
      (∀ k, k ≠ n → stepOf k t = stepOf k s) ∧ t = { u with sched := { s.sched with steps := t.sched.steps } }) ∧
    (∀ (pos : Nat) (w th : Int) (rth k : Nat),
      (isHead s = true ∨ s.lnk.lostHead = true → exec (.headroomMessage src pos w th rth k) s = .next { u with
        sched := { s.sched with headroom := SMap.set dfltHead s.sched.headroom pos ⟨w, th, rth, k, 0⟩ } }) ∧
      (isHead s = false → s.lnk.lostHead = false → exec (.headroomMessage src pos w th rth k) s = .next u)) ∧
    (∀ r, stepOf n s = some r → r.kvDone = false → ∃ t, exec (.mirrorAcknowledgement src n) s = .next t ∧
      (∃ x, stepOf n t = some { r with unacked := (if r.mirrorSent then r.unacked - 1 else r.unacked), readyAt := x }) ∧
      (∀ k, k ≠ n → stepOf k t = stepOf k s) ∧ t = { u with sched := { s.sched with steps := t.sched.steps } }) ∧
    (let partner := isMirrored s = true ∧ src.toNat = getF (Reg.Lnk.pairPod.at lnkBase) s
     (∀ l, ¬ partner → exec (.mirroredEntries src n l) s = .next u) ∧ (∀ l, ¬ partner → exec (.mirroredSequenceRecords src n l) s = .next u) ∧
     (∀ l, partner →
       let v := { u with lnk := { u.lnk with mirror := s.lnk.mirror ++ l.map fun i => (⟨i, n, none, false⟩ : MirrorEntry) } }
       (mirrorStaged v ≤ mirrorBuf s → exec (.mirroredEntries src n l) s = .next (mirrorAck n v)) ∧
       (mirrorBuf s < mirrorStaged v →
         exec (.mirroredEntries src n l) s = .next { v with lnk := { v.lnk with mirrorOwed := s.lnk.mirrorOwed ++ [n] } })) ∧
     (∀ q r, partner → ∃ t, exec (.mirroredSequenceRecords src n [(q, r)]) s = .next t ∧
       SMap.get dfltSeq t.lnk.mirrorSeqs q.toNat = r ∧
       (∀ k, k ≠ q.toNat → SMap.get dfltSeq t.lnk.mirrorSeqs k = SMap.get dfltSeq s.lnk.mirrorSeqs k) ∧
       t.lnk.mirrorStep = max s.lnk.mirrorStep n ∧ t.sched = s.sched ∧ t.regs = s.regs ∧ t.kv = s.kv) ∧
     (∀ q : SeqKey, partner → ∃ t, exec (.discard src q) s = .next t ∧
       t.lnk.mirror = s.lnk.mirror.filter (fun e => ¬ e.item.seq.toNat = q.toNat) ∧
       t = { u with lnk := { u.lnk with mirror := t.lnk.mirror, mirrorSeqs := t.lnk.mirrorSeqs } }) ∧
     (∀ q : SeqKey, ¬ partner → ∃ t, exec (.discard src q) s = .next t ∧
       (∀ b ∈ t.kv.dir, b.seq = q.toNat → b.freeing = true) ∧
       (t.kv.dir.filter fun b => ¬ b.seq = q.toNat) = (s.kv.dir.filter fun b => ¬ b.seq = q.toNat) ∧
       t.sched = s.sched ∧ t.regs = s.regs ∧ t.wgt = s.wgt ∧ t.ens = s.ens ∧ t.sec = s.sec)) ∧
    (s.lnk.switched.contains n = true → exec (.routeSwitch src n) s = .next u) ∧
    (s.lnk.switched.contains n = false → ∃ t, exec (.routeSwitch src n) s = .next t ∧ t.lnk.switched = n :: s.lnk.switched ∧
      podOf n s ∉ t.lnk.lostPods ∧ t.sched = { s.sched with headPod := t.sched.headPod } ∧ t.regs = s.regs ∧ t.kv = s.kv)) ∧
  (∀ (s : State) (n : Nat), n ≤ 19 →
    (portUp n s = false ∨ now s < (portOf n s).lastSent + ticksUs 100 → exec (.heartbeatTimer n) s = .next s) ∧
    (n < 16 → portUp n s = true → (portOf n s).lastSent + ticksUs 100 ≤ now s → exec (.heartbeatTimer n) s =
      .next (sendOn n ⟨0x19, false, true, getF (portF Reg.Port.peerPod n) s, myPod s, 0, 0, 0, 0, .empty⟩ s))) ∧
  (∀ (s : State) (ten : TenantId) (n : Nat),
    let isDue := fun (e : MirrorEntry) => e.item.ten = ten ∧ e.step = n ∧ e.nonce = none
    ((∀ e ∈ s.lnk.mirror, ¬ isDue e) → exec (.mirrorRecordWrite ten n) s = .next s) ∧
    (∀ e, e ∈ s.lnk.mirror → isDue e → hasSecret ten.toNat s = true → isSet (Reg.Kvc.cxlEn.at kvcBase) s = true →
      ∃ t, exec (.mirrorRecordWrite ten n) s = .next t ∧
        t.lnk.mirror = s.lnk.mirror.map (fun e => if e.item.ten = ten ∧ e.step = n ∧ e.nonce = none then
          { e with nonce := some (getF (Reg.Kvc.nonce.at kvcBase) s) } else e) ∧
        getF (Reg.Kvc.nonce.at kvcBase) t = (getF (Reg.Kvc.nonce.at kvcBase) s + 1) % 2 ^ 64 ∧
        t.sched = s.sched ∧ t.sram = s.sram))

/-- A report of silence about this part itself, about a part whose ports are all disabled, or of a part heard within the
loss timeout changes nothing. The head part declares a part of its instance lost on the second report, or at once when
LOST names it. It places a forwarded event on its queue, and keeps which epochs the others installed. Resynchronisation
ends with PAIR_LOST and RESYNC 0. RECLAIM with nothing lent sets RECLAIMED and LEND 0; with lent blocks it demotes them.
HANDBACK runs only on a promoted part. (R197, R216, R256, R300, R301, R305, R306) -/
def Obligations.FabricLoss : Prop :=
  (∀ (s : State) (rep pod : BitVec 10),
    (pod.toNat = myPod s ∨ allDisabled pod.toNat s = true ∨
        (rep.toNat = myPod s ∧ now s < SMap.get dfltZero s.lnk.heard pod.toNat + lossTicks s) →
      exec (.lossTimeout rep pod) s = .next s) ∧
    (pod.toNat ≠ myPod s → allDisabled pod.toNat s = false → rep.toNat ≠ myPod s → isHead s = false →
      (isMirrored s = false ∨ pod.toNat ≠ getF (Reg.Lnk.pairPod.at lnkBase) s) →
      ∃ t, exec (.lossTimeout rep pod) s = .next t ∧ (rep.toNat, pod.toNat) ∈ t.lnk.silent ∧
        (∀ x ∈ s.lnk.silent, x ∈ t.lnk.silent) ∧ t = { s with lnk := { s.lnk with silent := t.lnk.silent } }) ∧
    (∀ other, pod.toNat ≠ myPod s → allDisabled pod.toNat s = false → isHead s = true →
      (isMirrored s = false ∨ pod.toNat ≠ getF (Reg.Lnk.pairPod.at lnkBase) s) → (instancePods false s).contains pod.toNat = true →
      (rep.toNat ≠ myPod s ∨ SMap.get dfltZero s.lnk.heard pod.toNat + lossTicks s ≤ now s) →
      other ≠ rep.toNat → (other, pod.toNat) ∈ s.lnk.silent →
      ∃ t, exec (.lossTimeout rep pod) s = .next t ∧ pod.toNat ∈ t.lnk.lostPods ∧ t.ens = s.ens ∧ t.cfg = s.cfg ∧ t.mtr = s.mtr) ∧
    (isHead s = true → (instancePods false s).contains pod.toNat = true →
      ∃ t, exec (.lost pod) s = .next t ∧ pod.toNat ∈ t.lnk.lostPods ∧ t.ens = s.ens ∧ t.cfg = s.cfg ∧ t.mtr = s.mtr) ∧
    (isHead s = false ∨ (instancePods false s).contains pod.toNat = false → exec (.lost pod) s = .next s)) ∧
  (∀ (s : State) (src : BitVec 10) (e : Event),
    let u := hear src.toNat s
    (isHead s = true → e.code ≠ 0x0001 → e.code ≠ 0x0201 → e.code ≠ 0x0203 → e.code ≠ 0x0304 →
      exec (.forwardedEvent src (.event e)) s = .next (queueEvent e u)) ∧
    (isHead s = true → e.code = 0x0201 → ∃ t, exec (.forwardedEvent src (.event e)) s = .next t ∧
      t.wgt = { s.wgt with peers := (s.wgt.peers.filter fun x => ¬ x.1 = e.src) ++ [(e.src, e.detail % 2 ^ 24)] } ∧
      t = { queueEvent e u with wgt := t.wgt }) ∧
    (isHead s = true → e.code = 0x0001 → (seqOf e.seq s).state ≠ .free → ∃ t, exec (.forwardedEvent src (.event e)) s = .next t ∧
      (seqOf e.seq t).state = .free ∧ (∀ q, q ≠ e.seq → seqOf q t = seqOf q s)) ∧
    (∀ k, isHead s = true → exec (.forwardedEvent src (.epochZero k)) s = .next u) ∧
    (∀ k, isHead s = false → exec (.forwardedEvent src (.epochZero k)) s =
      .next { u with wgt := { s.wgt with live := s.wgt.live.filter fun x => ¬ x = k } }) ∧
    (isHead s = false → e.code = 0x0009 → ∃ t, exec (.forwardedEvent src (.event e)) s = .next t ∧
      (∀ b ∈ t.kv.dir, b.seq = e.seq → b.demote = true ∧ b.promote = false ∧ b.state ≠ .opened) ∧
      (t.kv.dir.filter fun b => ¬ b.seq = e.seq) = (s.kv.dir.filter fun b => ¬ b.seq = e.seq) ∧
      t = { u with kv := { s.kv with dir := t.kv.dir } })) ∧
  (∀ s : State,
    (isSet (Reg.Lnk.pairResync.at lnkBase) s = false → exec .resyncComplete s = .next s) ∧
    (isSet (Reg.Lnk.pairResync.at lnkBase) s = true → s.mnt.waiting = [] → ∃ t, exec .resyncComplete s = .next t ∧
      getF (Reg.Lnk.pairResync.at lnkBase) t = 0 ∧ getF (Reg.Lnk.pairLost.at lnkBase) t = 0 ∧ getF (Reg.Lnk.resyncLeft.at lnkBase) t = 0 ∧
      holds .resync t = false ∧
      sameFields ([Reg.Lnk.pairResync.at lnkBase, Reg.Lnk.pairLost.at lnkBase, Reg.Lnk.resyncLeft.at lnkBase] ++ reportFields) s t ∧
      quiet { t with mnt := s.mnt } = quiet s) ∧
    (s.kv.lent = [] → ∃ t, exec .reclaim s = .next t ∧ getF (Reg.Lnk.spareReclaimed.at lnkBase) t = 1 ∧ t.lnk.reclaiming = false ∧
      (s.ens.lendNext = none → getF (Reg.Kvc.lend.at kvcBase) t = 0) ∧
      sameFields [Reg.Lnk.spareReclaimed.at lnkBase, Reg.Kvc.lend.at kvcBase] s t ∧
      t = { s with regs := t.regs, lnk := { s.lnk with reclaiming := false } }) ∧
    (s.kv.lent ≠ [] → ∃ t, exec .reclaim s = .next t ∧ getF (Reg.Lnk.spareReclaimed.at lnkBase) t = 0 ∧ t.lnk.reclaiming = true ∧
      t.kv.lent = s.kv.lent.map (fun b => { b with demoting := true }) ∧ t.sram = s.sram ∧ t.sched = s.sched) ∧
    (isSet (Reg.Lnk.pairPromoted.at lnkBase) s = false → exec .handback s = .next s) ∧
    (isSet (Reg.Lnk.pairPromoted.at lnkBase) s = true → ∃ t, exec .handback s = .next t ∧ t.lnk.handingBack = true ∧
      getF (Reg.Lnk.spareHandback.at lnkBase) t = 0 ∧ sameFields [Reg.Lnk.spareHandback.at lnkBase] s t ∧
      t = { s with regs := t.regs, lnk := { s.lnk with handingBack := true, ports := t.lnk.ports } }) ∧
    (s.lnk.handingBack = false → exec .handbackDone s = .next s) ∧
    (s.lnk.handingBack = true → ∃ t, exec .handbackDone s = .next t ∧ t.lnk.handingBack = false ∧
      getF (Reg.Lnk.spareHandback.at lnkBase) t = 1 ∧ sameFields [Reg.Lnk.spareHandback.at lnkBase] s t ∧
      t = { s with regs := t.regs, lnk := { s.lnk with handingBack := false } }))

/-- A fetched block whose tag holds and whose tenant has a secret lies in the staging area; one that fails authentication
ends its sequence. A copy that ends well marks the moving block, under the next counter value where it went to the CXL
tier, and releases its grant; a failed one puts it back. A borrower's block is kept where it fits, and dropped when the
borrower is done with it. A query over a lent block answers the holder's partial, and one over another tenant's block
fails a step of this instance with cause 11. A sequence that waited too long is paused; one past its expiry is FREE.
(R211, R212, R213, R214, R215, R216, R218, R220, Table 8-5) -/
def Obligations.KeyValueTiers : Prop :=
  (∀ (s : State) (n : Nat) (l : LayerSlot) (q : SeqKey) (b : Nat) (ok : Bool) (plain : List Byte),
    let key := (n, l.toNat, q.toNat, b)
    (key ∉ s.kv.fetching → exec (.cxlFetchDone n l q b ok plain) s = .next s) ∧
    (∀ x, key ∈ s.kv.fetching → blockOf l.toNat q.toNat b s = some x →
      let lines := slotLines l.toNat x.fmt s
      let v := meterAdd x.ten 7 (256 * (lines + 1)) s
      (ok = false ∨ hasSecret x.ten s = false → exec (.cxlFetchDone n l q b ok plain) s = .next (authFail l.toNat q.toNat b v)) ∧
      (ok = true → hasSecret x.ten s = true → ∃ t e, exec (.cxlFetchDone n l q b ok plain) s = .next t ∧
        t.kv.staged = s.kv.staged ++ [e] ∧ (e.step, e.lslot, e.seq, e.blk) = key ∧ key ∉ t.kv.fetching ∧
        sramTake (plain.take (lines * 256)).length (e.loc * 256) t = plain.take (lines * 256) ∧
        sameBytes (e.loc * 256) (plain.take (lines * 256)).length s t ∧
        t = { v with sram := t.sram, kv := { s.kv with staged := t.kv.staged, fetching := t.kv.fetching } }))) ∧
  (∀ (s : State) (l : LayerSlot) (q : SeqKey) (b : Nat) (plain : List Byte),
    (∀ ok, (∀ x, blockOf l.toNat q.toNat b s = some x → x.state ≠ .moving ∨ x.copied = true) →
      exec (.blockCopyDone none l q b ok plain) s = .next s) ∧
    (∀ x, blockOf l.toNat q.toNat b s = some x → x.state = .moving → x.copied = false → s.mnt.waiting = [] → s.sched.steps ≠ [] →
      let m := MntAct.move l.toNat q.toNat b x.dest
      (∃ t, exec (.blockCopyDone none l q b true plain) s = .next t ∧ holds m t = false ∧
        t.kv.dir = s.kv.dir.map (fun y => if y = x then
          { y with copied := true, nonce := if x.dest = .cxl then getF (Reg.Kvc.nonce.at kvcBase) s else x.nonce } else y) ∧
        (¬ (x.dest = .hot ∧ x.src = .cxl) → t.sram = s.sram) ∧
        (x.dest = .hot → x.src = .cxl → t.sram = (sramPut (x.destLoc * 256) (plain.take (slotLines l.toNat x.fmt s * 256)) s).sram) ∧
        sameFields (if x.dest = .cxl then [Reg.Kvc.nonce.at kvcBase] else []) s t ∧ t.sched = s.sched ∧ t.lnk = s.lnk) ∧
      (∃ t, exec (.blockCopyDone none l q b false plain) s = .next t ∧ holds m t = false ∧ t.sram = s.sram ∧
        (∀ y ∈ t.kv.dir, y.lslot = l.toNat → y.seq = q.toNat → y.blk = b → y.state = .moving → y.src = .moving) ∧
        getF (Reg.Kvc.moveFailCnt.at kvcBase) t = (getF (Reg.Kvc.moveFailCnt.at kvcBase) s + 1) % 2 ^ 32 ∧
        sameFields [Reg.Kvc.moveFailCnt.at kvcBase] s t)) ∧
    (∀ (pod : BitVec 10) ok, (∀ x ∈ s.kv.lent, ¬ (x.pod = pod.toNat ∧ x.lslot = l.toNat ∧ x.seq = q.toNat ∧ x.blk = b ∧ x.demoting = true)) →
      exec (.blockCopyDone (some pod) l q b ok plain) s = .next s) ∧
    (∀ (pod : BitVec 10) x, (s.kv.lent.find? fun x => x.pod = pod.toNat ∧ x.lslot = l.toNat ∧ x.seq = q.toNat ∧ x.blk = b ∧ x.demoting) = some x →
      s.mnt.waiting = [] → ∃ t, exec (.blockCopyDone (some pod) l q b true plain) s = .next t ∧
        holds (.lentMove pod.toNat l.toNat q.toNat b) t = false ∧ t.sram = s.sram ∧ t.kv.lent = s.kv.lent ∧
        getF (Reg.Kvc.nonce.at kvcBase) t = (getF (Reg.Kvc.nonce.at kvcBase) s + 1) % 2 ^ 64 ∧ sameFields [Reg.Kvc.nonce.at kvcBase] s t)) ∧
  (∀ (s : State) (src : BitVec 10) (l : LayerSlot) (q : SeqKey) (b : BitVec 12),
    let u := hear src.toNat s
    (∀ ten fmt first fill bytes d, firstFit ((bytes.length + 255) / 256) (getF (Reg.Kvc.lend.at kvcBase) s * 4096) (lentRuns s) = some d →
      s.lnk.reclaiming = false → s.ens.lendNext = none →
      ∃ t x, exec (.blockCopy src l q b (.lend ten fmt first fill bytes)) s = .next t ∧ t.kv.lent = s.kv.lent ++ [x] ∧
        x.pod = src.toNat ∧ x.ten = ten.toNat ∧ x.first = first.toNat ∧ x.fill = fill.toNat ∧ x.loc = lentBase s + d ∧
        sramTake bytes.length (x.loc * 256) t = bytes ∧ sameBytes (x.loc * 256) bytes.length s t ∧
        t = { u with sram := t.sram, kv := { s.kv with lent := t.kv.lent } }) ∧
    (∀ ten fmt first fill bytes, firstFit ((bytes.length + 255) / 256) (getF (Reg.Kvc.lend.at kvcBase) s * 4096) (lentRuns s) = none ∨
        s.lnk.reclaiming = true ∨ s.ens.lendNext ≠ none → exec (.blockCopy src l q b (.lend ten fmt first fill bytes)) s = .next u) ∧
    (∀ x, lentOf src.toNat l.toNat q.toNat b.toNat s = some x →
      exec (.blockCopy src l q b .freed) s = .next (dropLent x u) ∧
      exec (.blockCopy src l q b .want) s = .next (sendTo src.toNat 0x05 l.toNat 0 (x.lines * 4) (.block l.toNat q.toNat b.toNat) u)) ∧
    (∀ x bytes, blockOf l.toNat q.toNat b.toNat s = some x → x.state = .moving → x.src = .lent → x.dest = .hot →
      ∃ t, exec (.blockCopy src l q b (.back bytes)) s = .next t ∧
        sramTake (bytes.take (slotLines l.toNat x.fmt s * 256)).length (x.destLoc * 256) t = bytes.take (slotLines l.toNat x.fmt s * 256) ∧
        sameBytes (x.destLoc * 256) (bytes.take (slotLines l.toNat x.fmt s * 256)).length s t ∧ t = { u with sram := t.sram }) ∧
    (∀ bytes, (l.toNat, q.toNat, b.toNat) ∉ s.flt.restoring → exec (.blockCopy src l q b (.restore bytes)) s = .next u) ∧
    (∀ (v : HoistIx) (step blk head grp lim holder : Nat) (ten : TenantId) (catt : Word) (qs : List (BitVec 16)),
      let c := Instr.peerTierQuery src v step ten l q blk head grp lim holder catt qs
      (lentOf src.toNat l.toNat q.toNat blk s = none → exec c s = .next u) ∧
      (∀ x, lentOf src.toNat l.toNat q.toNat blk s = some x → x.ten ≠ ten.toNat →
        exec c s = .next (failPeer src.toNat step 11 u)) ∧
      (∀ x, lentOf src.toNat l.toNat q.toNat blk s = some x → x.ten = ten.toNat →
        (∀ i, i < x.lines → isPoisoned ((x.loc + i) * 256) s = false) →
        ∃ t, exec c s = .next t ∧ (vecOf v.toNat t).out.take 2 = [head, holder] ∧ (vecOf v.toNat t).out.length = 4 + qs.length ∧
          (∀ w, w ≠ v.toNat → vecOf w t = vecOf w s) ∧ sameFields [vecF Reg.Vec.kvDecSatCnt v.toNat] s t ∧
          t.sram = s.sram ∧ t.kv = s.kv ∧ t.sched = s.sched))) ∧
  (∀ (s : State) (q : SeqId),
    let k := q.toNat
    let r := seqOf k s
    let idle := getF (Reg.Kvc.idle.at kvcBase) s
    let due := isHead s = true ∧ r.state = .waiting ∧ r.inStep = none ∧ 0 < idle ∧ r.waitSince + ticksS idle ≤ now s ∧ hasSecret r.ten s = true
    (¬ due → exec (.idleTimeout q) s = .next s) ∧
    (due → ∃ t, exec (.idleTimeout q) s = .next t ∧
      seqOf k t = { r with state := .paused, pausing := none, expiry := now s + ticksS (ttlOf 0 s) } ∧
      (∀ p, p ≠ k → seqOf p t = seqOf p s) ∧ (∀ b ∈ t.kv.dir, b.seq = k → b.demote = true ∧ b.state ≠ .opened) ∧
      sameFields reportFields s t) ∧
    (isHead s = false ∨ r.state ≠ .paused ∨ now s < r.expiry → ∀ m, exec (.pauseExpiry q m) s = .next s) ∧
    (∀ m, isHead s = true → r.state = .paused → r.expiry ≤ now s → ∃ t, exec (.pauseExpiry q m) s = .next t ∧
      (seqOf k t).state = .free ∧ (∀ p, p ≠ k → seqOf p t = seqOf p s) ∧
      getF (Reg.Kvc.expireCnt.at kvcBase) t = (getF (Reg.Kvc.expireCnt.at kvcBase) s + 1) % 2 ^ 32 ∧
      (∀ b ∈ t.kv.dir, b.seq = k → b.freeing = true) ∧ sameFields (Reg.Kvc.expireCnt.at kvcBase :: reportFields) s t))

/-- DISCARD drops the uncommitted shadows. GO closes a commit of every uncommitted shadow under the next sequence number,
with the named step where AT is 1; with 16 pending it is ignored and counted and the shadows stay. On an idle part
pending commits without AT apply together, in order, and one with AT holds those behind it. A step boundary that is not
due does nothing; one that is due applies every commit that waits for no later step, starts its step and becomes the
newest boundary; a commit whose own step has passed sets LATE. (R182, R275, R276, Table 10-15) -/
def Obligations.CommitsAndBoundaries : Prop :=
  (∀ s : State, exec .commitDiscard s = .next { s with cfg := { s.cfg with shadows := [] } }) ∧
  (∀ (s : State) (d : Bool) (c : Instr) (at_ : Option Nat),
    (c = .commitGo d ∧ at_ = none ∨ c = .commitGoAt d ∧ at_ = some (getF (Reg.Sch.commitStep.at schBase) s)) →
    let shadows := if d then [] else s.cfg.shadows
    (16 ≤ s.cfg.commits.length → ∃ t, exec c s = .next t ∧ getF Reg.Glb.wignCnt t = (getF Reg.Glb.wignCnt s + 1) % 2 ^ 32 ∧
      getF Reg.Glb.wignLast t = schBase ∧ sameFields [Reg.Glb.wignCnt, Reg.Glb.wignLast] s t ∧
      t = { s with regs := t.regs, cfg := { s.cfg with shadows := shadows }, flt := { s.flt with life := t.flt.life } }) ∧
    (s.cfg.commits.length < 16 → ∃ t, exec c s = .next t ∧
      getF (Reg.Sch.commitIssued.at schBase) t = (getF (Reg.Sch.commitIssued.at schBase) s + 1) % 2 ^ 16 ∧
      sameFields [Reg.Sch.commitIssued.at schBase] s t ∧
      t = { s with regs := t.regs, cfg := { s.cfg with
        shadows := [], commits := s.cfg.commits ++ [⟨getF (Reg.Sch.commitIssued.at schBase) t, at_, shadows⟩] } })) ∧
  (∀ s : State,
    (s.sched.steps ≠ [] → exec .commitIdleApply s = .next s) ∧
    (s.sched.steps = [] → s.cfg.internals = [] → (∀ c ∈ s.cfg.commits, c.atStep = none) →
      ∃ t, exec .commitIdleApply s = .next t ∧ t.cfg.commits = [] ∧ t.cfg.shadows = s.cfg.shadows ∧
        ∀ c, s.cfg.commits.getLast? = some c → getF (Reg.Sch.commitApplied.at schBase) t = c.seq % 2 ^ 16) ∧
    (∀ c l n, s.sched.steps = [] → s.cfg.internals = [] → s.cfg.commits = c :: l → c.atStep = some n →
      ∃ t, exec .commitIdleApply s = .next t ∧ t.cfg.commits = s.cfg.commits ∧
        getF (Reg.Sch.commitApplied.at schBase) t = getF (Reg.Sch.commitApplied.at schBase) s)) ∧
  (∀ (s : State) (n : Nat),
    (boundaryDue n s = false → exec (.stepBoundary n) s = .next s) ∧
    (boundaryDue n s = true → n < lostBase → ∃ t, exec (.stepBoundary n) s = .next t ∧ t.cfg.internals = [] ∧
      t.cfg.shadows = s.cfg.shadows ∧ t.sched.boundary = some n ∧ (∃ r, stepOf n t = some r ∧ r.started = true) ∧
      ((∀ c ∈ s.cfg.commits, ∀ m, c.atStep = some m → m ≤ n) → t.cfg.commits = [] ∧
        (∀ c, s.cfg.commits.getLast? = some c → getF (Reg.Sch.commitApplied.at schBase) t = c.seq % 2 ^ 16) ∧
        (∀ c ∈ s.cfg.commits, ∀ m, c.atStep = some m → m < n → (∀ d ∈ s.cfg.commits, d.values = []) →
          getF (Reg.Sch.commitLate.at schBase) t = 1)) ∧
      (∀ c l m, s.cfg.commits = c :: l → c.atStep = some m → n < m → t.cfg.commits = s.cfg.commits)))

/-- LOAD without management firmware is held. With it, a KIND above 1 is rejected with error 2, a load during another is
ignored and counted, a base image while one is ACTIVE or an amendment while the state is NONE is rejected with error 13,
and any other begins its first pass. ABORT ends a load in VERIFYING with error 17 and is else ignored and counted. The
first pass ends in APPLYING, in the amendment's internal commit, or in a rejection. The second ends ACTIVE, or with
error 3 and nothing of the image in force. DEACTIVATE is ignored and counted unless the part is at rest; else the image,
its ports, its keys and its epochs' installation go, and the state is NONE. (R34, R269, R270, R271, R272, Table 10-6,
Table 10-7, Table 10-13) -/
def Obligations.ImageLoads : Prop :=
  ∀ s : State,
    let same := fun (l : List Field) (t : State) => sameFields l s t ∧ quiet { t with ens := s.ens } = quiet s
    let ignored := fun (c : Instr) => ∃ t, exec c s = .next t ∧ getF Reg.Glb.wignCnt t = (getF Reg.Glb.wignCnt s + 1) % 2 ^ 32 ∧
      getF Reg.Glb.wignLast t = 0x10C ∧ sameFields [Reg.Glb.wignCnt, Reg.Glb.wignLast] s t ∧
      t = { s with regs := t.regs, flt := { s.flt with life := t.flt.life } }
    let rejected := fun (c : Instr) (err : Nat) => ∃ t, exec c s = .next t ∧ getF Reg.Glb.ensErr t = err % 256 ∧
      getF Reg.Glb.ensReject t = 1 ∧ t.ens = s.ens ∧ same [Reg.Glb.ensErr, Reg.Glb.ensReject] t
    let failed := fun (c : Instr) (err : Nat) => ∃ t, exec c s = .next t ∧ getF Reg.Glb.ensErr t = err % 256 ∧
      getF Reg.Glb.ensReject t = 1 ∧ ensState t = 0 ∧ getF Reg.Glb.state t = 1 ∧ t.ens = { s.ens with load := none } ∧
      same [Reg.Glb.ensErr, Reg.Glb.ensReject, Reg.Glb.ensState, Reg.Glb.state] t
    let refused := fun (c : Instr) (err : Nat) => ∃ t, exec c s = .next t ∧ getF Reg.Glb.ensErr t = err % 256 ∧
      getF Reg.Glb.ensReject t = 1 ∧ getF Reg.Glb.ensAmend t = 0 ∧ t.ens = { s.ens with load := none } ∧
      same [Reg.Glb.ensErr, Reg.Glb.ensReject, Reg.Glb.ensAmend] t
    (∀ i : EnsImage,
      let runs := isSet Reg.Glb.mgmtFwRun s
      let busy := ensState s = 1 ∨ ensState s = 2 ∨ isSet Reg.Glb.ensAmend s = true
      (runs = false → s.ens.held = none → exec (.ensLoad i) s = .next { s with ens := { s.ens with held := some i } }) ∧
      (runs = false → s.ens.held ≠ none → ignored (.ensLoad i)) ∧
      (runs = true → 1 < i.kind → rejected (.ensLoad i) 2) ∧
      (runs = true → i.kind ≤ 1 → busy → ignored (.ensLoad i)) ∧
      (runs = true → i.kind ≤ 1 → ¬ busy → (ensState s = 3 ↔ i.kind = 0) → rejected (.ensLoad i) 13) ∧
      (runs = true → i.kind = 0 → ¬ busy → ensState s ≠ 3 → ∃ t, exec (.ensLoad i) s = .next t ∧ ensState t = 1 ∧
        getF Reg.Glb.state t = 2 ∧ getF Reg.Glb.ensErr t = 0 ∧ getF Reg.Glb.ensClamps t = 0 ∧
        t.ens = { s.ens with load := some ⟨i, false⟩ } ∧
        same [Reg.Glb.ensState, Reg.Glb.state, Reg.Glb.ensErr, Reg.Glb.ensClamps] t) ∧
      (runs = true → i.kind = 1 → ¬ busy → ensState s = 3 → ∃ t, exec (.ensLoad i) s = .next t ∧ getF Reg.Glb.ensAmend t = 1 ∧
        getF Reg.Glb.ensErr t = 0 ∧ getF Reg.Glb.ensClamps t = 0 ∧ t.ens = { s.ens with load := some ⟨i, true⟩ } ∧
        same [Reg.Glb.ensAmend, Reg.Glb.ensErr, Reg.Glb.ensClamps] t)) ∧
    (ensState s = 1 → failed .ensAbort 17) ∧ (ensState s ≠ 1 → ignored .ensAbort) ∧
    (s.ens.load = none → exec .ensVerifyEnd s = .next s ∧ ∀ bad, exec (.ensApplyEnd bad) s = .next s) ∧
    (∀ l, s.ens.load = some l → l.amend = false →
      (ensState s ≠ 1 → exec .ensVerifyEnd s = .next s) ∧
      (ensState s = 1 → baseError l.image s = 0 → exec .ensVerifyEnd s = .next (setF Reg.Glb.ensState 2 s)) ∧
      (ensState s = 1 → baseError l.image s ≠ 0 → failed .ensVerifyEnd (baseError l.image s))) ∧
    (∀ l, s.ens.load = some l → l.amend = true →
      (s.ens.image = none → refused .ensVerifyEnd 13) ∧
      (∀ b, s.ens.image = some b → amendError b l.image s ≠ 0 → refused .ensVerifyEnd (amendError b l.image s)) ∧
      (∀ b, s.ens.image = some b → amendError b l.image s = 0 → ∃ t c, exec .ensVerifyEnd s = .next t ∧ t.ens.load = none ∧
        t.ens.amending.isSome = true ∧ t.ens.image = s.ens.image ∧ t.cfg.internals = s.cfg.internals ++ [c] ∧ c.amend = true ∧
        t.cfg.commits = s.cfg.commits ∧ t.cfg.shadows = s.cfg.shadows)) ∧
    (ensState s ≠ 2 → ∀ bad, exec (.ensApplyEnd bad) s = .next s) ∧
    (∀ l, s.ens.load = some l → ensState s = 2 →
      (∃ t j, exec (.ensApplyEnd none) s = .next t ∧ ensState t = 3 ∧ getF Reg.Glb.imageActive t = 1 ∧
        getF Reg.Glb.ensSeq t = l.image.seq % 2 ^ 64 ∧ t.ens.load = none ∧ t.ens.image = some j ∧ j.seq = l.image.seq ∧
        j.placements = l.image.placements ∧ j.power = l.image.power ∧ t.cfg.imageEver = true ∧ t.cfg.shadows = s.cfg.shadows ∧
        t.sched.steps = s.sched.steps) ∧
      (∀ k, ∃ t, exec (.ensApplyEnd (some k)) s = .next t ∧ ensState t = 0 ∧ getF Reg.Glb.state t = 1 ∧
        getF Reg.Glb.ensErr t = 3 ∧ getF Reg.Glb.ensReject t = 1 ∧ t.ens.load = none ∧ t.ens.image = none ∧
        t.sched.tenantCount = 0 ∧ t.sched.steps = s.sched.steps ∧ t.cfg = s.cfg)) ∧
    (canDeactivate s = false → ignored .ensDeactivate) ∧
    (canDeactivate s = true → ∃ t, exec .ensDeactivate s = .next t ∧ ensState t = 0 ∧ getF Reg.Glb.state t = 1 ∧
      getF Reg.Glb.imageActive t = 0 ∧ getF Reg.Glb.seqRun t = 0 ∧ getF Reg.Glb.ctrlRun t = 0 ∧ t.ens.image = none ∧
      t.ens.load = none ∧ t.sec.slotKeys = [] ∧ t.sec.secrets = [] ∧ (∀ n, n ≤ 19 → portState n t = 0) ∧
      (∀ n, (slotRec n t).state ≠ .installed) ∧ t.sram = s.sram)

/-- A scrub pass without its grant does nothing; with it, corrected words are counted, lines that cannot be corrected are
poisoned (stated where no key/value block lies in SRAM, since freeing one clears its lines), and the grant is given
back. FLTPOP takes the oldest entry. An hour after the last copy management firmware asks for the snapshot's grant, and
with it writes the next of 16 copies and gives the grant back. LIF_READ of 1 to 256 bytes answers bytes of the newest
valid copy, or zeros where none is valid; no other length can be given. (R416, R417, R418, R421, R423, Table 17-4) -/
def Obligations.ScrubbingAndLifetime : Prop :=
  (∀ (s : State) (i : SliceIx) (n : Nat),
    (∀ bad, holds (.scrub i.toNat) s = false → exec (.scrubPass i n bad) s = .next s) ∧
    (holds (.scrub i.toNat) s = true → s.mnt.waiting = [] → ∃ t, exec (.scrubPass i n []) s = .next t ∧
      t.mnt.granted = s.mnt.granted.filter (fun g => ¬ g.act = .scrub i.toNat) ∧ t.mnt.waiting = [] ∧
      getF (Reg.Pwr.corrCnt.at pwrBase) t % 2 ^ 32 = (getF (Reg.Pwr.corrCnt.at pwrBase) s + n) % 2 ^ 32 ∧
      sameFields (Reg.Pwr.corrCnt.at pwrBase :: reportFields) s t ∧
      quiet { t with mnt := s.mnt, flt := { t.flt with sliceCorr := s.flt.sliceCorr } } = quiet s) ∧
    (∀ bad, holds (.scrub i.toNat) s = true → s.kv.dir = [] → ∃ t, exec (.scrubPass i n bad) s = .next t ∧
      (∀ l ∈ bad, sliceOf l.1 = i.toNat → isPoisoned l.1 t = true) ∧ (∀ k ∈ s.flt.poisoned, k ∈ t.flt.poisoned))) ∧
  (∀ s : State, exec .glbFltpop s = .next { s with flt := { s.flt with queue := s.flt.queue.drop 1 } }) ∧
  (∀ s : State,
    let asked := fun (u : State) => (∃ r ∈ u.mnt.waiting, r.act = .snapshot) ∨ holds .snapshot u = true
    (isSet Reg.Glb.mgmtFwRun s = false → exec .lifetimeSnapshot s = .next s) ∧
    (isSet Reg.Glb.mgmtFwRun s = true → holds .snapshot s = false → now s < s.flt.lastSnapshot + 3600 * 47000000 →
      exec .lifetimeSnapshot s = .next s) ∧
    (isSet Reg.Glb.mgmtFwRun s = true → holds .snapshot s = false → s.flt.lastSnapshot + 3600 * 47000000 ≤ now s →
      ∃ t, exec .lifetimeSnapshot s = .next t ∧ asked t ∧ t.flt.copies = s.flt.copies ∧ t.flt.snapshots = s.flt.snapshots) ∧
    (isSet Reg.Glb.mgmtFwRun s = true → holds .snapshot s = true → s.mnt.waiting = [] →
      ∃ t, exec .lifetimeSnapshot s = .next t ∧ holds .snapshot t = false ∧ t.flt.snapshots = s.flt.snapshots + 1 ∧
        SMap.get dfltCopy t.flt.copies ((s.flt.snapshots + 1) % 16) = ⟨s.flt.snapshots + 1, s.flt.life, true⟩ ∧
        (∀ k, k ≠ (s.flt.snapshots + 1) % 16 → SMap.get dfltCopy t.flt.copies k = SMap.get dfltCopy s.flt.copies k) ∧
        t = { s with mnt := { s.mnt with granted := t.mnt.granted }, flt := { s.flt with
          copies := t.flt.copies, snapshots := s.flt.snapshots + 1, lastSnapshot := now s } })) ∧
  (∀ (s : State) (o : BitVec 16) (n : Nat),
    (n = 0 ∨ 256 < n → exec (.lifRead o n) s = .fault .badLength) ∧
    (0 < n → n ≤ 256 → ∃ l, exec (.lifRead o n) s = .next { s with answer := .bytes l } ∧ l.length = n ∧
      (newestCopy s = none → l = List.replicate n 0) ∧
      (∀ c, newestCopy s = some c →
        (o = 0 → n = 4 → l = [0x45, 0x46, 0x49, 0x4C]) ∧ (o = 8 → n = 4 → l = leBytes 4 c.number) ∧
        (o = 0x618 → n = 8 → l = leBytes 8 (SMap.get dfltZero c.counts 0x618)) ∧ (0x6000 ≤ o.toNat → l = List.replicate n 0))))

/-- RESET_N low gives every register its reset value and ends everything in progress, whatever the state; the meter but for
its collector, the identity region, the counter area, the lifetime store, the weights in the arrays, the installed
epochs as DORMANT and what the power stage keeps are left. Its release waits for PWR_GOOD, starts LTIME at 0 and reads
the factory area; a word that cannot be read sets ID_FAIL and is reported. CRYSTAL_STOP stops the crystal and nothing
else. (R394, R434, R439, R444, R445) -/
def Obligations.ConventionalReset : Prop :=
  ∀ s : State,
    (∃ t, exec .resetNAssert s = .next t ∧ (∀ f, getF f t = resetField f.key) ∧ t.pins = { s.pins with resetN := false } ∧
      t.cfg = cfgReset ∧ t.ens = ensReset ∧ t.sync = syncReset ∧ t.lnk = lnkReset ∧ t.sched = schedReset ∧
      t.kv = { kvReset with reserved := s.kv.reserved } ∧ t.host = { hostReset with mem := s.host.mem } ∧ t.mnt = ⟨[], []⟩ ∧
      t.banks = [] ∧ t.pnts = [] ∧ t.vecs = [] ∧ t.sec.slotKeys = [] ∧ t.sec.secrets = [] ∧ t.sec.nonce = none ∧
      t.sec.factory = s.sec.factory ∧ t.sec.cfgKeys = s.sec.cfgKeys ∧ t.sec.floor = s.sec.floor ∧
      t.sec.key0Revoked = s.sec.key0Revoked ∧ t.flt.copies = s.flt.copies ∧ t.flt.queue = [] ∧ t.flt.poisoned = [] ∧
      t.mtr = { s.mtr with acts := [], interval := 0, win := [], held := none } ∧ t.pwr.on = s.pwr.on ∧ t.pwr.pg = s.pwr.pg ∧
      t.pwr.latch = s.pwr.latch ∧
      (SMap.sorted s.arrs = true → ∀ a, (arrOf a t).levels = (arrOf a s).levels ∧ (arrOf a t).age = (arrOf a s).age ∧
        (arrOf a t).job = none ∧ (arrOf a t).reads = []) ∧
      (SMap.sorted s.wgt.slots = true → ∀ n,
        ((slotRec n s).state = .installed ∨ (slotRec n s).state = .dormant → (slotRec n t).state = .dormant ∧
          (slotRec n t).num = (slotRec n s).num ∧ (slotRec n t).placement = (slotRec n s).placement) ∧
        ((slotRec n s).state = .installing ∨ (slotRec n s).state = .failed ∨ (slotRec n s).state = .empty →
          (slotRec n t).state = .empty)) ∧
      t.pending = s.pending) ∧
    (∀ (corr : Nat) (ok : Bool),
      (s.pins.resetN = true ∨ pwrGood s = false → exec (.resetNRelease corr ok) s = .next s) ∧
      (s.pins.resetN = false → pwrGood s = true → ∃ t, exec (.resetNRelease corr ok) s = .next t ∧ t.pins.resetN = true ∧
        t.ltime = 0 ∧ getF Reg.Glb.secFloor t = s.sec.floor % 2 ^ 32 ∧ getF Reg.Glb.secKeySlots t = cfgKeysWord s % 2 ^ 8 ∧
        getF Reg.Glb.secIdCorr t = corr % 2 ^ 32 ∧
        (ok = true → getF Reg.Glb.secIdFail t = getF Reg.Glb.secIdFail s ∧ t.flt.queue = s.flt.queue) ∧
        (ok = false → getF Reg.Glb.secIdFail t = 1) ∧
        sameFields ([Reg.Glb.secFloor, Reg.Glb.secKeySlots, Reg.Glb.secIdCorr, Reg.Glb.secIdFail, Reg.Pwr.corrCnt.at (pwrBase + 32),
          Reg.Glb.uncCnt.at 64] ++ reportFields) s t ∧
        quiet { t with pins := s.pins, ltime := s.ltime } = quiet s)) ∧
    exec .crystalStop s = .next { s with pins := { s.pins with crystal := false } }

/-- The boot ROM tries slot A, then slot B; the first that it accepts starts management firmware in NOIMAGE with SRAM of
zeros and the newest valid lifetime record, and with neither BOOT_FAIL sets. POD_ADDRESS_WRITE writes the pod address,
and lights the image's ports where LIGHTING had waited for it. CHECKING ends in LIGHTING with the ports lit once every
epoch is settled. LIGHTING ends once every port is UP, HELD or DOWN: the cores run, and the part serves where an epoch
is INSTALLED. (R291, R395, R396, R443, R446, R447, R448, Table 19-10) -/
def Obligations.StartUp : Prop :=
  ∀ s : State,
    (∀ (a b : FwSlot) (bad : List (BitVec 4)),
      let boots := s.pins.resetN = true ∧ getF Reg.Glb.state s = 0 ∧ isSet Reg.Glb.mgmtFwRun s = false ∧ isSet Reg.Glb.secBootFail s = false
      let started := fun (x : FwSlot) (slotB : Nat) => ∃ t, exec (.bootRomEnd a b bad) s = .next t ∧ getF Reg.Glb.state t = 1 ∧
        getF Reg.Glb.mgmtFwRun t = 1 ∧ getF Reg.Glb.secSlotB t = slotB ∧ getF Reg.Glb.secSvn t = x.svn.toNat ∧
        getF (Reg.Kvc.nonce.at kvcBase) t = s.kv.reserved % 2 ^ 64 ∧ t.sram = [] ∧ t.flt.poisoned = [] ∧
        t.sec.fwDig = x.fwDig ∧ t.sec.seqDig = x.seqDig ∧ t.sec.nonce = some (Config.nonce s.fresh) ∧
        t.pwr = { s.pwr with latch := .none } ∧ (∀ n ∈ bad, (SMap.get dfltCopy t.flt.copies n.toNat).valid = false) ∧
        sameFields ([Reg.Glb.state, Reg.Glb.mgmtFwRun, Reg.Glb.secSlotB, Reg.Glb.secSvn, Reg.Kvc.nonce.at kvcBase,
          Reg.Glb.uncCnt.at 72] ++ reportFields) s t ∧
        t.sched = s.sched ∧ t.kv = s.kv ∧ t.wgt = s.wgt ∧ t.arrs = s.arrs ∧ t.ens = s.ens ∧ t.mtr = s.mtr
      (¬ boots → exec (.bootRomEnd a b bad) s = .next s) ∧
      (boots → slotAccepted a s = true → started a 0) ∧
      (boots → slotAccepted a s = false → slotAccepted b s = true → started b 1) ∧
      (boots → slotAccepted a s = false → slotAccepted b s = false →
        exec (.bootRomEnd a b bad) s = .next (setF Reg.Glb.secBootFail 1 s))) ∧
    (∀ (x : FwSlot), slotAccepted x s = true ↔ x.headerOk = true ∧ x.sigOk = true ∧ s.sec.floor ≤ x.svn.toNat ∧
      (x.keyIx = 1 ∨ x.keyIx = 0 ∧ s.sec.key0Revoked = false)) ∧
    (∀ (board : BitVec 6) (slot : BitVec 4), ∃ t, exec (.podAddressWrite board slot) s = .next t ∧
      getF (Reg.Lnk.topoPod.at lnkBase) t = board.toNat * 16 + slot.toNat ∧ getF (Reg.Lnk.topoBoard.at lnkBase) t = board.toNat ∧
      getF (Reg.Lnk.topoSlot.at lnkBase) t = slot.toNat ∧ t.lnk.podKnown = true ∧
      (s.lnk.podKnown = true ∨ getF Reg.Glb.state s ≠ 6 →
        sameFields [Reg.Lnk.topoPod.at lnkBase, Reg.Lnk.topoBoard.at lnkBase, Reg.Lnk.topoSlot.at lnkBase] s t ∧
        t = { s with regs := t.regs, lnk := { s.lnk with podKnown := true } }) ∧
      (s.lnk.podKnown = false → getF Reg.Glb.state s = 6 →
        (∀ n ∈ enPorts s, getF (portF Reg.Port.en n) t = 1 ∧ (portState n s = 0 → portState n t = 1)) ∧
        t = { s with regs := t.regs, lnk := { s.lnk with podKnown := true, ports := t.lnk.ports } })) ∧
    (getF Reg.Glb.state s ≠ 5 ∨ checkingOver s = false → exec .checkingEnd s = .next s) ∧
    (getF Reg.Glb.state s = 5 → checkingOver s = true → ∃ t, exec .checkingEnd s = .next t ∧ getF Reg.Glb.state t = 6 ∧
      (s.lnk.podKnown = true → ∀ n ∈ enPorts s, getF (portF Reg.Port.en n) t = 1 ∧ (portState n s = 0 → portState n t = 1)) ∧
      (s.lnk.podKnown = false → sameFields [Reg.Glb.state] s t) ∧
      t = { s with regs := t.regs, lnk := { s.lnk with ports := t.lnk.ports } }) ∧
    (let past := getF Reg.Glb.state s = 6 ∧ lightingOver s = true ∧ getF Reg.Glb.seqRun s = 0
     (¬ past → exec .lightingEnd s = .next s) ∧
     (past → ∃ t, exec .lightingEnd s = .next t ∧ getF Reg.Glb.seqRun t = 15 ∧ getF Reg.Glb.ctrlRun t = 1 ∧
       getF Reg.Glb.state t = (if anyInstalled s then 7 else 6) ∧
       sameFields [Reg.Glb.seqRun, Reg.Glb.ctrlRun, Reg.Glb.state] s t ∧ t = { s with regs := t.regs }))

/-- A restart of the management core holds every new maintenance request and ends a load in progress with error 14; steps go
on. When firmware runs again, grants resume and a held LOAD is taken. SEQUENCER_HALT stops the cores of its mask, and
the control plane with the last of them. A core that runs again starts the control plane; where that had stopped, every
step in flight fails. (R34, R36, R269, Table 1-6) -/
def Obligations.CoreRestarts : Prop :=
  ∀ s : State,
    (∀ n, isSet Reg.Glb.mgmtFwRun s = false → exec (.mgmtCoreRestart n) s = .next s) ∧
    (∀ n, isSet Reg.Glb.mgmtFwRun s = true → ∃ t, exec (.mgmtCoreRestart n) s = .next t ∧
      t.ens.load = none ∧ t.ens.held = s.ens.held ∧ t.sched.steps = s.sched.steps ∧ t.kv = s.kv ∧
      (s.ens.load = none ∨ ensState s ≠ 2 → getF Reg.Glb.mgmtFwRun t = 0 ∧ getF Reg.Glb.arbHold t = 1) ∧
      (s.ens.load = none → sameFields [Reg.Glb.mgmtFwRun, Reg.Glb.arbHold] s t ∧ t = { s with regs := t.regs }) ∧
      (∀ l, s.ens.load = some l → l.amend = false → getF Reg.Glb.ensErr t = 14 ∧ ensState t = 0) ∧
      (∀ l, s.ens.load = some l → l.amend = true → getF Reg.Glb.mgmtFwRun t = 0 ∧ getF Reg.Glb.arbHold t = 1 ∧
        getF Reg.Glb.ensAmend t = 0 ∧ sameFields [Reg.Glb.mgmtFwRun, Reg.Glb.arbHold, Reg.Glb.ensAmend] s t)) ∧
    (isSet Reg.Glb.mgmtFwRun s = true ∨ getF Reg.Glb.state s = 0 → exec .managementFirmwareRunsAgain s = .next s) ∧
    (isSet Reg.Glb.mgmtFwRun s = false → getF Reg.Glb.state s ≠ 0 →
      (∃ t, exec .managementFirmwareRunsAgain s = .next t ∧ getF Reg.Glb.mgmtFwRun t = 1 ∧ getF Reg.Glb.arbHold t = 0 ∧ t.ens.held = none) ∧
      (s.mnt.waiting = [] → s.mtr.held = none → s.ens.held = none → ∃ t, exec .managementFirmwareRunsAgain s = .next t ∧
        sameFields [Reg.Glb.mgmtFwRun, Reg.Glb.arbHold] s t ∧ t = { s with regs := t.regs })) ∧
    (∀ mask : BitVec 4, ∃ t, exec (.sequencerHalt mask) s = .next t ∧
      (∀ i, i < 4 → (getF Reg.Glb.seqRun t).testBit i = ((getF Reg.Glb.seqRun s).testBit i && !mask.getLsbD i)) ∧
      (getF Reg.Glb.seqRun t = 0 → getF Reg.Glb.ctrlRun t = 0) ∧
      (getF Reg.Glb.seqRun t ≠ 0 → getF Reg.Glb.ctrlRun t = getF Reg.Glb.ctrlRun s % 2) ∧
      sameFields [Reg.Glb.seqRun, Reg.Glb.ctrlRun] s t ∧ t = { s with regs := t.regs }) ∧
    (∀ mask : BitVec 4,
      let waits := isSet Reg.Glb.imageActive s = false ∨ mask = 0 ∨ getF Reg.Glb.state s < 6
      (waits → exec (.sequencerCoreRunsAgain mask) s = .next s) ∧
      (¬ waits → ∃ t, exec (.sequencerCoreRunsAgain mask) s = .next t ∧ getF Reg.Glb.ctrlRun t = 1 ∧
        (∀ i, i < 4 → (getF Reg.Glb.seqRun t).testBit i = ((getF Reg.Glb.seqRun s).testBit i || mask.getLsbD i)) ∧
        (isSet Reg.Glb.ctrlRun s = true → sameFields [Reg.Glb.seqRun, Reg.Glb.ctrlRun] s t ∧ t = { s with regs := t.regs }) ∧
        (isSet Reg.Glb.ctrlRun s = false → isHead s = true → (∀ r ∈ s.sched.steps, r.plan.step < lostBase) → t.sched.steps = [])))

/-- Above 36 V the stage starts, unless a latch holds it off until the input has fallen below 34 V; the start releases
THERMTRIP_N. Below 34 V or above 58 V the rails shut down and the die is held in reset. A rail is good only once every
rail before it is, and its loss withdraws PWR_GOOD and nothing else. A rail fault shuts every rail down and latches its
rail. A droop trip is counted and stretches its region's clock until the release, which counts the time in its bin of
the lifetime record. (R355, R356, R357, R359, R360, Table 14-2, Table 17-4) -/
def Obligations.PowerStage : Prop :=
  ∀ s : State,
    (∀ v : BitVec 16, let n := v.toNat
      let starts := 3600 < n ∧ n ≤ 5800 ∧ s.pwr.on = false ∧ (s.pwr.latch = .none ∨ s.pwr.armed = true)
      (starts → exec (.vinRise v) s = .next { s with
        pwr := { s.pwr with vin10mV := n, on := true, armed := false }, pins := { s.pins with thermtripN := true } }) ∧
      (¬ starts → exec (.vinRise v) s = .next { s with pwr := { s.pwr with vin10mV := n } }) ∧
      (3400 ≤ n → n ≤ 5800 → exec (.vinLoss v) s = .next { s with pwr := { s.pwr with vin10mV := n } }) ∧
      (n < 3400 ∨ 5800 < n → ∃ t, exec (.vinLoss v) s = .next t ∧ t.pwr.on = false ∧ t.pwr.pg = [] ∧ t.pins.resetN = false ∧
        t.pwr.vin10mV = n ∧ t.pwr.latch = s.pwr.latch ∧ (t.pwr.armed = true ↔ s.pwr.armed = true ∨ n < 3400) ∧
        (∀ f, getF f t = resetField f.key) ∧ t.sched = schedReset ∧ t.pins = { s.pins with resetN := false })) ∧
    (∀ n, 5 < n → exec (.railPowerGood n) s = .fault .noSuchRail ∧ exec (.railPowerGoodLoss n) s = .fault .noSuchRail ∧
      exec (.railFault n) s = .fault .noSuchRail) ∧
    (∀ n, n ≤ 5 →
      let may := s.pwr.on = true ∧ ∀ k, k < n → k ∈ s.pwr.pg
      (may → ∃ t, exec (.railPowerGood n) s = .next t ∧ (∀ k, k ∈ t.pwr.pg ↔ k = n ∨ k ∈ s.pwr.pg) ∧
        t = { s with pwr := { s.pwr with pg := t.pwr.pg } }) ∧
      (¬ may → exec (.railPowerGood n) s = .next s) ∧
      (∃ t, exec (.railPowerGoodLoss n) s = .next t ∧ pwrGood t = false ∧ (∀ k, k ∈ t.pwr.pg ↔ k ≠ n ∧ k ∈ s.pwr.pg) ∧
        t = { s with pwr := { s.pwr with pg := t.pwr.pg } }) ∧
      (s.pwr.on = false → exec (.railFault n) s = .next s) ∧
      (s.pwr.on = true → ∃ t, exec (.railFault n) s = .next t ∧ t.pwr.on = false ∧ t.pwr.pg = [] ∧ t.pins.resetN = false ∧
        t.pwr.latch = .rail n ∧ (t.pwr.armed = true ↔ s.pwr.vin10mV < 3400) ∧ (∀ f, getF f t = resetField f.key))) ∧
    (∀ r : RegionIx,
      let cnt := pwrF (Reg.Pwr.droopCnt.at (4 * r.toNat))
      (∃ t, exec (.droopTrip r) s = .next t ∧ getF cnt t = (getF cnt s + 1) % 2 ^ 32 ∧ sameFields [cnt] s t ∧
        (∀ k, k ∈ t.pwr.droop ↔ k = r.toNat ∨ k ∈ s.pwr.droop) ∧
        t = { s with regs := t.regs, pwr := { s.pwr with droop := t.pwr.droop } }) ∧
      (∀ ns, r.toNat ∉ s.pwr.droop → exec (.droopRelease r ns) s = .next s) ∧
      (∀ ns, r.toNat ∈ s.pwr.droop → ∃ t, exec (.droopRelease r ns) s = .next t ∧
        (∀ k, k ∈ t.pwr.droop ↔ k ≠ r.toNat ∧ k ∈ s.pwr.droop) ∧
        (let off := 0x100 + 4 * (5 * r.toNat + droopBin ns)
         lifeGet off t = min (lifeGet off s + 1) (2 ^ 32 - 1) ∧ ∀ o, o ≠ off → lifeGet o t = lifeGet o s) ∧
        t = { s with pwr := { s.pwr with droop := t.pwr.droop }, flt := { s.flt with life := t.flt.life } }))

/-- A conversion error or a sample outside −40 to +150 °C faults its sensor with kind 0, a stuck one with kind 2, the tenth
in a row far from its group's median with kind 3, and 1 ms of silence with kind 1; the fault is reported once, and
clears after 10 s of passed tests while FAULTED stays. A sample that passes is the sensor's reading; the second in a row
of a good sensor at its trip limit asserts THERMTRIP_N and shuts the rails down. The 100 µs update sets every region's
temperature, raises its band at once and moves its throttle level by the rules of R366; a band falls by 1 after 1 s
below its limit less the hysteresis. (R361, R362, R363, R364, R366, Table 14-4, Table 14-5) -/
def Obligations.SensorsAndBands : Prop :=
  (∀ (s : State) (n : Nat) (raw : Option (BitVec 16)), 71 < n → exec (.sensorSample n raw) s = .fault .noSuchSensor ∧
    exec (.sensorSilentTimeout n) s = .fault .noSuchSensor ∧ exec (.sensorFaultClear n) s = .fault .noSuchSensor) ∧
  (∀ (s : State) (n : Nat), n ≤ 71 →
    let med := groupMedian n s
    let old := sensorOf n s
    let flags := [senF Reg.Pwr.senFault n, senF Reg.Pwr.senFaulted n, senF Reg.Pwr.senKind n]
    let others := fun (t : State) => (∀ k, k ≠ n → sensorOf k t = sensorOf k s) ∧ t.pwr = { s.pwr with sensors := t.pwr.sensors } ∧
      quiet { t with pwr := s.pwr } = quiet s
    let faults := fun (t : State) (kind : Nat) => getF (senF Reg.Pwr.senFault n) t = 1 ∧
      (faulted n s = false → getF (senF Reg.Pwr.senFaulted n) t = 1 ∧ getF (senF Reg.Pwr.senKind n) t = kind) ∧
      (faulted n s = true → sameFields [senF Reg.Pwr.senRaw n] s t) ∧ (sensorOf n t).passSince = none ∧ others t
    let reads := fun (t : State) (v : BitVec 16) => getF (senF Reg.Pwr.senRaw n) t = v.toNat ∧
      sameFields ([senF Reg.Pwr.senRaw n] ++ flags ++ reportFields) s t
    (∃ t, exec (.sensorSample n none) s = .next t ∧ faults t 0 ∧ sameFields (flags ++ reportFields) s t) ∧
    (∀ v : BitVec 16,
      let stuck := v.toInt = rawOf n s ∧ old.sameSince + ticksS 1 ≤ now s ∧
        ∃ m m0, med = some m ∧ old.sameMedian = some m0 ∧ 96 ≤ (m - m0).natAbs
      let far := ∃ m, med = some m ∧ getF (pwrF Reg.Pwr.thmDisagree) s * 32 < (2 * v.toInt - m).natAbs
      let range := -640 ≤ v.toInt ∧ v.toInt ≤ 2400
      (¬ range → ∃ t, exec (.sensorSample n (some v)) s = .next t ∧ reads t v ∧ faults t 0) ∧
      (range → stuck → ∃ t, exec (.sensorSample n (some v)) s = .next t ∧ reads t v ∧ faults t 2) ∧
      (range → ¬ stuck → far → 9 ≤ old.apart → ∃ t, exec (.sensorSample n (some v)) s = .next t ∧ reads t v ∧ faults t 3) ∧
      (range → ¬ stuck → (far → old.apart < 9) → (faulted n s = true ∨ v.toInt < tripLimit n ∨ old.hot = 0) →
        ∃ t, exec (.sensorSample n (some v)) s = .next t ∧ getF (senF Reg.Pwr.senRaw n) t = v.toNat ∧
          sameFields [senF Reg.Pwr.senRaw n] s t ∧ (sensorOf n t).passSince = some (old.passSince.getD (now s)) ∧
          (sensorOf n t).lastAt = now s ∧ (sensorOf n t).hot = (if faulted n s = false ∧ tripLimit n ≤ v.toInt then 1 else 0) ∧
          (far → (sensorOf n t).apart = old.apart + 1) ∧ (¬ far → (sensorOf n t).apart = 0) ∧ others t) ∧
      (range → ¬ stuck → (far → old.apart < 9) → faulted n s = false → tripLimit n ≤ v.toInt → 0 < old.hot →
        ∃ t, exec (.sensorSample n (some v)) s = .next t ∧ t.pins.thermtripN = false ∧ t.pins.resetN = false ∧ t.pwr.on = false ∧
          t.pwr.pg = [] ∧ t.pwr.latch = .trip n)) ∧
    (now s < old.lastAt + ticksMs 1 → exec (.sensorSilentTimeout n) s = .next s) ∧
    (old.lastAt + ticksMs 1 ≤ now s → ∃ t, exec (.sensorSilentTimeout n) s = .next t ∧ faults t 1 ∧
      sameFields (flags ++ reportFields) s t) ∧
    (let passed := ∃ a, old.passSince = some a ∧ a + ticksS 10 ≤ now s
     (¬ passed → exec (.sensorFaultClear n) s = .next s) ∧
     (passed → exec (.sensorFaultClear n) s = .next (setF (senF Reg.Pwr.senFault n) 0 s)))) ∧
  (∀ s : State, ∃ t, exec .thermalUpdate s = .next t ∧
    (∀ r, r < 8 →
      let a := sourceReading r s
      let l := getF (regF Reg.Pwr.regLth r) s
      let least := leastLevel (bandOf r t) s
      let thr : Int := getF (pwrF Reg.Pwr.thmThrottle) s
      let up := due (SMap.get dfltNone s.pwr.lastUp r) (ticksMs 1) s
      let down := due (SMap.get dfltNone s.pwr.lastDown r) (ticksMs 10) s
      let new := getF (regF Reg.Pwr.regLth r) t
      getF (regF Reg.Pwr.regTemp r) t = (a % 65536).toNat ∧ (bandOf r s ≤ 4 → bandOf r t = max (bandOf r s) (bandFor a)) ∧
      (thr + 80 ≤ a → new = max least (min 12 (l + 2)) % 16) ∧
      (thr ≤ a → a < thr + 80 → up = true → new = max least (min 12 (l + 1)) % 16) ∧
      (thr ≤ a → a < thr + 80 → up = false → new = max least l % 16) ∧
      (a < thr → (thr - 32 ≤ a ∨ l ≤ least ∨ down = false) → new = max least l % 16) ∧
      (a < thr - 32 → least < l → down = true → new = max least (l - 1) % 16)) ∧
    t.pwr.tCount = s.pwr.tCount + 1 ∧
    (∀ k, k < 14 → SMap.get dfltInt t.pwr.tSum k = SMap.get dfltInt s.pwr.tSum k + sourceReading k s) ∧
    t.sram = s.sram ∧ t.sched = s.sched ∧ t.kv = s.kv ∧ t.ens = s.ens ∧ t.mnt = s.mnt ∧ t.pwr.sensors = s.pwr.sensors) ∧
  (∀ (s : State) (r : RegionIx),
    let k := r.toNat
    let since := SMap.get dfltNone s.pwr.below k
    let falls := 0 < bandOf k s ∧ ∃ a, since = some a ∧ a + ticksS 1 ≤ now s
    (¬ falls → exec (.bandFall r) s = .next s) ∧
    (falls → bandOf k s ≤ 4 → ∃ t, exec (.bandFall r) s = .next t ∧ bandOf k t = bandOf k s - 1 ∧
      SMap.get dfltZero t.pwr.topBand k = max (SMap.get dfltZero s.pwr.topBand k) (bandOf k s) ∧
      t.sram = s.sram ∧ t.sched = s.sched ∧ t.kv = s.kv ∧ t.pwr.sensors = s.pwr.sensors))

/-- A power sample adds its excess over the limit to the bucket; a peak sets L_p to 12, a full bucket raises it by 2, and a
mean 50 W below the limit with the bucket less than half full lowers it by 1, each no oftener than its rule. The wave
level rises by 1 at a source's limit and falls by 1 once every source is 2 °C below. A hold whose time has come is
released. The published headroom word carries the next number and ends staleness; a word older than 1 ms sets
HDRM_STALE. The one-second update takes the mean power, moves the thermal resistances unless they are held, starts the
sums over and counts the second in the lifetime record. (R35, R366, R367, R368, R369, R370, Table 14-6) -/
def Obligations.PowerLevels : Prop :=
  (∀ (s : State) (mW mA : Nat) (vin : BitVec 16),
    let e := s.pwr.excess + 10 * mW - 10 * (getF (pwrF Reg.Pwr.lim) s * 250)
    let samples := mW :: s.pwr.samples.take 9
    let bucket := getF (pwrF Reg.Pwr.limBucket) s * 1000000
    let peak := 1450000 < mW ∨ 42000 < mA
    let full := bucket ≤ e ∧ due s.pwr.overAt (ticksUs 100) s = true
    let ease := 0 < lp s ∧ samples.sum * 1000 / samples.length + 50000000 < getF (pwrF Reg.Pwr.lim) s * 250000 ∧ 2 * e < bucket ∧
      due s.pwr.easeAt (ticksMs 1) s = true
    ∃ t, exec (.powerSample mW mA vin) s = .next t ∧ t.pwr.excess = e ∧ t.pwr.samples = samples ∧ t.pwr.vin10mV = vin.toNat ∧
      t.pwr.pSum = s.pwr.pSum + mW ∧ t.pwr.pCount = s.pwr.pCount + 1 ∧
      (peak → lp t = 12 ∧ t.pwr.peak = true) ∧ (¬ peak → full → lp t = min 12 (lp s + 2)) ∧
      (¬ peak → ¬ full → ease → lp t = (lp s - 1) % 16) ∧ (¬ peak → ¬ full → ¬ ease → lp t = lp s) ∧
      getF (pwrF Reg.Pwr.peakCnt) t % 2 ^ 32 = (getF (pwrF Reg.Pwr.peakCnt) s + (if peak then 1 else 0)) % 2 ^ 32 ∧
      getF (pwrF Reg.Pwr.bucketCnt) t % 2 ^ 32 = (getF (pwrF Reg.Pwr.bucketCnt) s + (if full then 1 else 0)) % 2 ^ 32 ∧
      (s.mnt.waiting = [] → sameFields ([pwrF Reg.Pwr.lp, pwrF Reg.Pwr.peakCnt, pwrF Reg.Pwr.bucketCnt] ++ reportFields) s t ∧
        quiet { t with pwr := s.pwr } = quiet s)) ∧
  (∀ s : State,
    let lvl := getF (pwrF Reg.Pwr.waveLevel) s
    let moved := fun (v src : Nat) => ∃ t, exec .waveLevelUpdate s = .next t ∧ getF (pwrF Reg.Pwr.waveLevel) t = v ∧
      t.pwr.waveSrc = src ∧ t.pwr = { s.pwr with waveUp := t.pwr.waveUp, waveDown := t.pwr.waveDown, waveSrc := src } ∧
      sameFields (pwrF Reg.Pwr.waveLevel :: reportFields) s t ∧ quiet { t with pwr := s.pwr } = quiet s
    let rises := lvl < 12 ∧ due s.pwr.waveUp (ticksMs 1) s = true
    let eases := 0 < lvl ∧ waveCool s = true ∧ due s.pwr.waveDown (ticksMs 10) s = true
    (∀ k, waveHot s = some k → (8 ≤ k ∧ k ≤ 13 ∧ sourceLimit k s ≤ sourceReading k s) ∧
      (rises → moved (lvl + 1) k) ∧ (¬ rises → exec .waveLevelUpdate s = .next s)) ∧
    (waveHot s = none → (∀ k, 8 ≤ k → k ≤ 13 → sourceReading k s < sourceLimit k s) ∧
      (eases → lvl < 16 → moved (lvl - 1) s.pwr.waveSrc) ∧ (¬ eases → exec .waveLevelUpdate s = .next s)) ∧
    (∀ n, exec (.waveHoldRelease n) s =
      .next { s with pwr := { s.pwr with held := s.pwr.held.filter fun x => ¬ (x.1 = n ∧ x.2 ≤ now s) } })) ∧
  (∀ s : State,
    let addr := getF (pwrF Reg.Pwr.hdrmAddr) s * 32
    let stale := isSet Reg.Glb.ctrlRun s = true ∧ isSet Reg.Glb.hdrmStale s = false ∧ s.pwr.pubAt.getD 0 + ticksMs 1 < now s
    (isSet Reg.Glb.mgmtFwRun s = false → exec .headroomPublish s = .next s) ∧
    (isSet Reg.Glb.mgmtFwRun s = true → ∃ t, exec .headroomPublish s = .next t ∧ t.pwr.pub = s.pwr.pub + 1 ∧
      t.pwr.pubAt = some (now s) ∧ sramTake 4 addr t = leBytes 4 ((s.pwr.pub + 1) % 2 ^ 32) ∧ sameBytes addr 32 s t ∧
      isSet Reg.Glb.hdrmStale t = false ∧
      sameFields ([Reg.Glb.hdrmStale, Reg.Sch.kappa.at schBase] ++ reportFields) s t ∧
      (isSet Reg.Glb.ctrlRun s = false → getF (Reg.Sch.kappa.at schBase) t = getF (Reg.Sch.kappa.at schBase) s)) ∧
    (¬ stale → exec .headroomStaleTimeout s = .next s) ∧
    (stale → ∃ t, exec .headroomStaleTimeout s = .next t ∧ isSet Reg.Glb.hdrmStale t = true ∧
      sameFields (Reg.Glb.hdrmStale :: reportFields) s t ∧ quiet t = quiet s)) ∧
  (∀ s : State, ∃ t, exec .rthUpdate s = .next t ∧
    t.pwr.pMean = (if s.pwr.pCount = 0 then 0 else s.pwr.pSum / s.pwr.pCount) ∧ t.pwr.tSum = [] ∧ t.pwr.tCount = 0 ∧
    t.pwr.pSum = 0 ∧ t.pwr.pCount = 0 ∧ lifeGet 0x10 t = min (lifeGet 0x10 s + 1) (2 ^ 64 - 1) ∧
    (let u := { s with pwr := { s.pwr with pMean := t.pwr.pMean } }
     (coolantN s = none ∨ rthHeld u = true ∨ s.pwr.tCount = 0 → t.pwr.rth = s.pwr.rth) ∧
     (∀ c, coolantN s = some c → rthHeld u = false → s.pwr.tCount ≠ 0 → ∀ k, k < 14 →
       rthOf k t = rthNext k c u ∧ 10000000 ≤ rthOf k t ∧ rthOf k t ≤ 200000000)) ∧
    t = { s with flt := { s.flt with life := t.flt.life }, pwr := { s.pwr with
      rth := t.pwr.rth, pMean := t.pwr.pMean, tSum := [], tCount := 0, pSum := 0, pCount := 0 } })

/-- A write that the ring does not take, or that its requester does not reach, changes nothing; one with a second parity
failure is discarded, counted in domain 11 and reported, and one that passes on its repeat is counted there as
corrected. Stated for a register of each access code: a read-only field keeps its value, a live field takes the legal
value at once, a step-latched one puts it into its shadow, a one-to-clear bit clears, a frozen field refuses a change
with a count, a command register leaves its defined codes to their rows and counts the others, and a wrong access size
is counted. An access that must wait joins the requester's queue. (R10, R12, R275, R277, R278, R281, R410, R426, R428,
R429, Table 0-8, Table 10-12) -/
def Obligations.RegisterWrites : Prop :=
  ∀ (s : State) (r : Requester),
    let k := r.toNat
    let goes := fun (off : Nat) => ringRuns s = true ∧ reaches k off s = true ∧ (k ≠ 0 ∨ hostStalled s = false)
    let word := fun (off v : Nat) => Instr.registerWrite r (BitVec.ofNat 26 off) 4 v .good
    let clampedTwo := fun (n : Nat) (t : State) => getF Reg.Glb.clampCnt t % 2 ^ 32 = (getF Reg.Glb.clampCnt s + n) % 2 ^ 32
    let ignored := fun (c : Instr) (off : Nat) => ∃ t, exec c s = .next t ∧
      getF Reg.Glb.wignCnt t = (getF Reg.Glb.wignCnt s + 1) % 2 ^ 32 ∧ getF Reg.Glb.wignLast t = off ∧
      sameFields [Reg.Glb.wignCnt, Reg.Glb.wignLast] s t ∧ t = { s with regs := t.regs, flt := { s.flt with life := t.flt.life } }
    (∀ (off : BitVec 26) (size : BitVec 7) (v : Nat) (par : Parity),
      let c := Instr.registerWrite r off size v par
      (size.toNat = 0 ∨ 64 < size.toNat → exec c s = .fault .badLength) ∧
      (0 < size.toNat → size.toNat ≤ 64 →
        (ringRuns s = false ∨ reaches k off.toNat s = false → exec c s = .next s) ∧
        (ringRuns s = true → reaches k off.toNat s = true → par = .badTwice →
          ∃ t, exec c s = .next t ∧ reports (domUncorrected 11 1 s) t) ∧
        (goes off.toNat → par ≠ .badTwice → inWindow off.toNat = false → rootOnly off.toNat = false →
          ((reqOf k s).queue ≠ [] ∨ crossingOpen off.toNat s = false) → ∃ t, exec c s = .next t ∧
          reqOf k t = { reqOf k s with queue := (reqOf k s).queue ++ [⟨true, off.toNat, size.toNat, v⟩] } ∧
          (∀ j, j ≠ k → reqOf j t = reqOf j s) ∧
          t = { (if par = .badOnce then domCorrected 11 1 s else s) with cfg := { s.cfg with reqs := t.cfg.reqs } }))) ∧
    (∀ v, goes 0 → exec (word 0 v) s = .next s) ∧
    (∀ v, goes (pwrBase + 4) → (reqOf k s).queue = [] →
      let a := v / 2 ^ 20 % 2 ^ 12
      let b := v % 2 ^ 16
      ∃ t, exec (word (pwrBase + 4) v) s = .next t ∧
      getF (pwrF Reg.Pwr.limBucket) t = min a 3000 ∧ getF (pwrF Reg.Pwr.lim) t = max 1600 (min b 4600) ∧
      clampedTwo ((if 3000 < a then 1 else 0) + (if b < 1600 ∨ 4600 < b then 1 else 0)) t ∧
      sameFields [pwrF Reg.Pwr.limBucket, pwrF Reg.Pwr.lim, Reg.Glb.clampCnt, Reg.Glb.clampLast] s t ∧
      t = { s with regs := t.regs, flt := { s.flt with life := t.flt.life } }) ∧
    (∀ v, goes (schBase + 0x114) → (reqOf k s).queue = [] → crossingOpen (schBase + 0x114) s = true →
      let a := v % 2 ^ 14
      let key := (Reg.Sch.chunk.at schBase).key
      ∃ t, exec (word (schBase + 0x114) v) s = .next t ∧ SMap.get dfltZero t.cfg.shadows key = max 64 (min a 8192) ∧
      (∀ j, j ≠ key → SMap.get dfltZero t.cfg.shadows j = SMap.get dfltZero s.cfg.shadows j) ∧
      clampedTwo (if a < 64 ∨ 8192 < a then 1 else 0) t ∧ sameFields [Reg.Glb.clampCnt, Reg.Glb.clampLast] s t ∧
      t = { s with regs := t.regs, cfg := { s.cfg with shadows := t.cfg.shadows }, flt := { s.flt with life := t.flt.life } }) ∧
    (∀ v, goes 0x110 → isSet Reg.Glb.ensReject s = true →
      exec (word 0x110 v) s = .next (setF Reg.Glb.ensReject (if v.testBit 26 then 0 else 1) s)) ∧
    (∀ v, goes (pwrBase + 0x10) → (reqOf k s).queue = [] →
      let a := v / 2 ^ 5 % 2 ^ 24
      let c := word (pwrBase + 0x10) v
      (a = getF (pwrF Reg.Pwr.hdrmAddr) s → exec c s = .next s) ∧
      (a ≠ getF (pwrF Reg.Pwr.hdrmAddr) s → isSet Reg.Glb.imageActive s = true → ignored c (pwrBase + 0x10)) ∧
      (a ≠ getF (pwrF Reg.Pwr.hdrmAddr) s → isSet Reg.Glb.imageActive s = false →
        exec c s = .next (setF (pwrF Reg.Pwr.hdrmAddr) a s))) ∧
    (∀ v, goes 0x10C →
      let code := v / 2 ^ 28 % 16
      (1 ≤ code → code ≤ 3 → exec (word 0x10C v) s = .next s) ∧ (code = 0 ∨ 3 < code → ignored (word 0x10C v) 0x10C)) ∧
    (∀ (size : BitVec 7) (v : Nat), goes (pwrBase + 4) → (reqOf k s).queue = [] → 0 < size.toNat → size.toNat ≤ 64 →
      size.toNat ≠ 4 → ignored (.registerWrite r (BitVec.ofNat 26 (pwrBase + 4)) size v .good) (pwrBase + 4))

/-- A read of a pair's LO half samples both halves and latches the high one for its requester alone; out of reach it returns
0, and after a second parity failure 0xFFFF_FFFF, counted in domain 11. A write of LO goes to the requester's hold; a
write of HI applies both halves as one write and empties the hold, also where the frozen field refuses it. An offset
that is no such half cannot be given. A requester's held accesses go on when their crossing is open. An abort ends the
oldest access of a requester that waits for a stopped clock, counted, and resets the crossing; a bit of a requester
without one is ignored and counted. (R277, R281, R338, R340, R342, R410, R426, R430, R431) -/
def Obligations.PairsAndHungAccesses : Prop :=
  ∀ (s : State) (r : Requester),
    let k := r.toNat
    let goes := fun (off : Nat) => ringRuns s = true ∧ reaches k off s = true ∧ (k ≠ 0 ∨ hostStalled s = false)
    let ignoredAt := fun (c : Instr) (off : Nat) => ∃ t, exec c s = .next t ∧
      getF Reg.Glb.wignCnt t = (getF Reg.Glb.wignCnt s + 1) % 2 ^ 32 ∧ getF Reg.Glb.wignLast t = off ∧
      sameFields [Reg.Glb.wignCnt, Reg.Glb.wignLast] s t ∧
      t = { s with regs := t.regs, cfg := { s.cfg with reqs := t.cfg.reqs }, flt := { s.flt with life := t.flt.life } }
    let others := fun (t : State) => ∀ j, j ≠ k → reqOf j t = reqOf j s
    (∀ (off : BitVec 26) (par : Parity),
      let c := Instr.pairLoRead r off par
      (isPairLo off.toNat = false → exec c s = .fault .noSuchPair) ∧
      (isPairLo off.toNat = true → ringRuns s = false → exec c s = .next s) ∧
      (isPairLo off.toNat = true → ringRuns s = true → reaches k off.toNat s = false → exec c s = .next { s with answer := .value 0 }) ∧
      (isPairLo off.toNat = true → ringRuns s = true → reaches k off.toNat s = true → par = .badTwice → ∃ t, exec c s = .next t ∧
        t.answer = .value 0xFFFFFFFF ∧ reports { domUncorrected 11 1 s with answer := t.answer } t) ∧
      (∀ v : Word, isPairHi off.toNat = false → exec (.pairHiWrite r off v par) s = .fault .noSuchPair)) ∧
    (ringRuns s = true → reaches k 0x60 s = true → ∃ t, exec (.pairLoRead r 0x60 .good) s = .next t ∧
      t.answer = .value (now s % 2 ^ 32) ∧ SMap.get dfltZero (reqOf k t).latches 0x60 = now s / 2 ^ 32 ∧
      (reqOf k t).queue = (reqOf k s).queue ∧ others t ∧
      t = { s with answer := t.answer, cfg := { s.cfg with reqs := t.cfg.reqs } }) ∧
    (goes 0x100 → ∀ v, ∃ t, exec (.registerWrite r 0x100 4 v .good) s = .next t ∧
      SMap.get dfltNone (reqOf k t).holds 0x100 = some (v % 2 ^ 32) ∧ (reqOf k t).queue = (reqOf k s).queue ∧ others t ∧
      t = { s with cfg := { s.cfg with reqs := t.cfg.reqs } }) ∧
    (goes 0x104 → ∀ hi : Word,
      let old := getF Reg.Glb.ensAddr s
      let v := (SMap.get dfltNone (reqOf k s).holds 0x100).getD (old % 2 ^ 32) + hi.toNat * 2 ^ 32
      let busy := getF Reg.Glb.ensState s = 1 ∨ getF Reg.Glb.ensState s = 2 ∨ isSet Reg.Glb.ensAmend s = true
      let emptied := fun (t : State) => SMap.get dfltNone (reqOf k t).holds 0x100 = none ∧ others t
      let c := Instr.pairHiWrite r 0x104 hi .good
      (v = old → ∃ t, exec c s = .next t ∧ emptied t ∧ t = { s with cfg := { s.cfg with reqs := t.cfg.reqs } }) ∧
      (v ≠ old → busy → ignoredAt c 0x104 ∧ ∃ t, exec c s = .next t ∧ emptied t) ∧
      (v ≠ old → ¬ busy → v < 2 ^ 64 → ∃ t, exec c s = .next t ∧ emptied t ∧ getF Reg.Glb.ensAddr t = v / 256 * 256 ∧
        getF Reg.Glb.clampCnt t % 2 ^ 32 = (getF Reg.Glb.clampCnt s + (if v % 256 = 0 then 0 else 1)) % 2 ^ 32 ∧
        sameFields [Reg.Glb.ensAddr, Reg.Glb.clampCnt, Reg.Glb.clampLast] s t ∧
        t = { s with regs := t.regs, cfg := { s.cfg with reqs := t.cfg.reqs }, flt := { s.flt with life := t.flt.life } })) ∧
    (ringRuns s = false → exec (.hungAccessResume r) s = .next s ∧ ∀ m, exec (.glbRingabort m) s = .next s) ∧
    (ringRuns s = true → s.cfg.posted = [] →
      (∀ a l, (reqOf k s).queue = a :: l → crossingOpen a.off s = false → ∃ t, exec (.hungAccessResume r) s = .next t ∧
        (∀ j, reqOf j t = reqOf j s) ∧ t = { s with cfg := { s.cfg with reqs := t.cfg.reqs } }) ∧
      (∀ v, (reqOf k s).queue = [⟨true, schBase + 0x114, 4, v⟩] → crossingOpen (schBase + 0x114) s = true →
        ∃ t, exec (.hungAccessResume r) s = .next t ∧ (reqOf k t).queue = [] ∧
        SMap.get dfltZero t.cfg.shadows (Reg.Sch.chunk.at schBase).key = max 64 (min (v % 2 ^ 14) 8192) ∧
        sameFields [Reg.Glb.clampCnt, Reg.Glb.clampLast] s t) ∧
      (stoppedClock k s = none → ignoredAt (.glbRingabort (BitVec.ofNat 4 (2 ^ k))) 0x68) ∧
      (∀ a b, (reqOf k s).queue = [a] → stoppedClock k s = some b → ∃ t, exec (.glbRingabort (BitVec.ofNat 4 (2 ^ k))) s = .next t ∧
        (reqOf k t).queue = [] ∧ others t ∧ crossingOf b t = ⟨.held, (crossingOf b s).far, 0⟩ ∧
        (∀ j, j ≠ b → crossingOf j t = crossingOf j s) ∧
        getF Reg.Glb.ringAbortCnt t = (getF Reg.Glb.ringAbortCnt s + 1) % 2 ^ 32 ∧
        getF Reg.Glb.xrstDropCnt t = (getF Reg.Glb.xrstDropCnt s + (crossingOf b s).entries) % 2 ^ 32 ∧
        t.answer = (if a.write then s.answer else .value 0xFFFFFFFF) ∧
        sameFields [Reg.Glb.ringAbortCnt, Reg.Glb.xrstDropCnt] s t ∧
        t = { s with regs := t.regs, answer := t.answer,
                     cfg := { s.cfg with reqs := t.cfg.reqs, crossings := t.cfg.crossings } }))

/-- P0 to P14 accept exactly the part in slot (s + k + 1) mod 16 of the same board on its port P(14 − k), P15 the pair
partner in mirrored operation and any part without it, P16 to P19 any identity; the identity is reported either way, and
the port becomes UP or HELD by it. Port P(k) of one slot and port P(14 − k) of the other face each other, each pair of
slots on exactly one port, which is the direct port of the pair. (R295, R296) -/
def Obligations.PeerIdentities : Prop :=
  (∀ (s : State) (n pod port : Nat),
    (n ≤ 14 → (peerOk n pod port s = true ↔ pod = getF (Reg.Lnk.topoBoard.at lnkBase) s * 16 +
      (getF (Reg.Lnk.topoSlot.at lnkBase) s + n + 1) % 16 ∧ port = 14 - n)) ∧
    (isMirrored s = true → (peerOk 15 pod port s = true ↔ pod = getF (Reg.Lnk.pairPod.at lnkBase) s)) ∧
    (isMirrored s = false → peerOk 15 pod port s = true) ∧ (16 ≤ n → n ≤ 19 → peerOk n pod port s = true)) ∧
  (∀ (s : State) (n : Nat) (pod : BitVec 10) (port : BitVec 5) (ack : BitVec 12) (a b c d : BitVec 9), n ≤ 19 → portState n s = 5 →
    ∃ t, exec (.peerIdentity n pod port ack [a, b, c, d]) s = .next t ∧ getF (portF Reg.Port.peerPod n) t = pod.toNat ∧
      getF (portF Reg.Port.peerPort n) t = port.toNat ∧
      portState n t = (if peerOk n pod.toNat port.toNat s then 6 else 7)) ∧
  (∀ a b : Nat, a < 16 → b < 16 → a ≠ b →
    (∃ k, k ≤ 14 ∧ (a + k + 1) % 16 = b ∧ (b + (14 - k) + 1) % 16 = a ∧ ∀ j, j ≤ 14 → (a + j + 1) % 16 = b → j = k) ∧
    (∀ s : State, getF (Reg.Lnk.topoSlot.at lnkBase) s = a → ∀ pod, pod % 16 = b →
      directPort pod s ≤ 14 ∧ (a + directPort pod s + 1) % 16 = b)) ∧
  (∀ s : State, (getF (Reg.Lnk.topoSlot.at lnkBase) s = 3 → directPort 9 s = 5) ∧
    (getF (Reg.Lnk.topoSlot.at lnkBase) s = 9 → directPort 3 s = 9))

/-- A request that has waited longer than MNT_CTL.AGE, 10 s at reset, takes rank 0 and sends MNT_AGED once. Claims in force
above the allowance stay, and nothing with a claim is granted until the claims fit. While ARB_HOLD is 1 a request, the
end of an activity and an evaluation of what waits grant nothing. While L_p is above 0 whatever they grant claims 0 W.
The thermal level of a region decides nothing about a grant. (R373, R374) -/
def Obligations.GrantsHeldAndAged : Prop :=
  getF (Reg.Pwr.mntAge.at pwrBase) State.reset = 10 ∧
  (∀ (s : State) (m : MntAct) (q : MntReq), (s.mnt.waiting.find? fun x => x.act = m) = some q →
    let late := q.arrival + ticksS (getF (Reg.Pwr.mntAge.at pwrBase) s) < now s
    let marked := s.mnt.waiting.map fun x => if x.act = m then { x with aged := true } else x
    (q.aged = true ∨ ¬ late → exec (.maintAge m) s = .next s) ∧
    (q.aged = false → late → exec (.maintAge m) s = .next (arbitrate (emitPart 0x0604 (actRank m).1
      (addF (Reg.Pwr.agedCnt.at pwrBase) 1 { s with mnt := { s.mnt with waiting := marked } }))) ∧
      ∀ x ∈ marked, x.act = m → reqRank x = 0)) ∧
  (∀ (s : State) (m : MntAct) (c : Instr) (t : State),
    (c = .maintRequest m ∨ c = .maintActivityEnd m ∨ c = .maintAge m) → exec c s = .next t →
    (isSet Reg.Glb.arbHold s = true → ∀ g ∈ t.mnt.granted, g ∈ s.mnt.granted) ∧
    (0 < lp s → ∀ g ∈ t.mnt.granted, g ∈ s.mnt.granted ∨ g.claim = 0)) ∧
  (∀ s : State, ∃ l, (arbitrate s).mnt.granted = s.mnt.granted ++ l ∧ (isSet Reg.Glb.arbHold s = true → l = []) ∧
    ((0 < lp s ∨ getF (Reg.Pwr.mntAllow.at pwrBase) s * 250 < claims s) → ∀ g ∈ l, g.claim = 0)) ∧
  (∀ (s : State) (q : MntReq) (r v : Nat), r < 8 → grantable q (setF (regF Reg.Pwr.regLth r) v s) = grantable q s)

/-- With a command at the front of the queue a step is that command on the state with the queue's rest. On an empty queue
nothing is commanded: the block idles, and LTIME counts one tick while the crystal runs and the part is not in reset
(the model's choice). (R333) The idle tick is the model's choice (entry 2 of the assumption log): the table of
operations has no row for a tick. -/
def Obligations.StepFromQueue : Prop :=
  (∀ (s : State) (c : Instr) (l : List Instr), Machine.step { s with pending := c :: l } = exec c { s with pending := l }) ∧
  (∀ s : State, s.pending = [] → ∃ t, Machine.step s = .next t ∧
    t.ltime = (if s.pins.resetN && s.pins.crystal then s.ltime + 1 else s.ltime) ∧ t = { s with ltime := t.ltime })

/-- From any state in which SRAM, the register file and host memory have their canonical form (addresses strictly rising,
nothing listed that reads as an unlisted one), a step that answers a next state leaves them in it, and takes exactly the
front command off the queue. (R22, R434) The canonical form, and that an unlisted byte reads 0, are the model's (entries
4, 5 and 6 of the assumption log): the spec lays out the stores, not how they are listed. -/
def Obligations.StoresKeepTheirForm : Prop :=
  ∀ s t : State, Machine.step s = .next t →
    (storesWf s → storesWf t) ∧ t.pending = s.pending.drop 1

/-- A command whose operands name units that the part has and lengths that it carries answers a next state in every state;
any other ends in a fault; none is refused. So a run from any state whose queue holds such commands never stops. (R13,
R314, Table 18-1) Which operands can be given is the model's WellFormed (entry 7 of the assumption log). -/
def Obligations.EveryCommandRuns : Prop :=
  (∀ (c : Instr) (s : State), wellFormed c = true → ∃ t, exec c s = .next t) ∧
  (∀ (c : Instr) (s : State), wellFormed c = false → ∃ f, exec c s = .fault f) ∧
  (∀ (s : State) (k : Nat), queueOk s → runs k s)

/-- Every register reads its reset value, among them the identity word, the power limit, the step limits and the pennants'
row windows; the state is ROM, nothing is in force, in flight, queued or poisoned, every array is UNMAPPED and every
epoch slot EMPTY; the stores have their canonical form and no command waits. Which epoch slots and arrays a part left
the factory with, and its rails being good, are the model's choice of a part (entries 3, 4 and 5 of the assumption log).
(R244, R434, R445, Table 18-6) -/
def Obligations.ResetState : Prop :=
  let s := State.reset
  (∀ f, getF f s = resetField f.key) ∧ storesWf s ∧ s.pending = [] ∧
  getF Reg.Glb.idPart s = 0x8192 ∧ getF Reg.Glb.state s = 0 ∧ getF Reg.Glb.mgmtFwRun s = 0 ∧ getF Reg.Glb.imageActive s = 0 ∧
  getF (pwrF Reg.Pwr.lim) s = 4600 ∧ getF (pwrF Reg.Pwr.limBucket) s = 3000 ∧ getF (Reg.Sch.limMaxSeq.at schBase) s = 8192 ∧
  getF (Reg.Sch.chunk.at schBase) s = 512 ∧ getF (Reg.Kvc.dirCap.at kvcBase) s = 786432 ∧
  (∀ a, a < 8192 → arrState a s = 0 ∧ getF (arrF Reg.Pnt.rows a) s = 1024 ∧ getF (arrF Reg.Pnt.fs a) s = 256) ∧
  (∀ n, (slotRec n s).state = .empty) ∧ (∀ n, (seqOf n s).state = .free) ∧ s.sched.steps = [] ∧ s.ens.image = none ∧
  s.flt.queue = [] ∧ s.flt.poisoned = [] ∧ s.cfg.commits = [] ∧ s.host.events = [] ∧ s.kv.dir = [] ∧ s.ltime = 0 ∧
  s.pins.resetN = true ∧ s.pins.crystal = true ∧ s.host.funcMask = true
end

