-- ==== Sys2Proof/Laws/Map.lean ====
section
/-! SUPPORT. Laws of sparse maps: reading after writing, and that every map operation keeps the canonical form. -/

namespace Sys2Proof.Machine
open Sys2Proof

variable {α : Type}

/-! ### Reading after writing -/

theorem SMap.get_put_same (d : Nat → α) (k : Nat) (v : α) (m : SMap α) : SMap.get d (SMap.put k v m) k = v := by
  induction m with
  | nil => simp [SMap.put, SMap.get]
  | cons e m ih =>
    obtain ⟨j, w⟩ := e
    by_cases h : k = j
    · simp [SMap.put, SMap.get, h]
    · by_cases g : k < j
      · simp [SMap.put, SMap.get, h, g]
      · simp [SMap.put, SMap.get, h, g, ih]

theorem SMap.get_put_other (d : Nat → α) (k l : Nat) (v : α) (m : SMap α) (h : l ≠ k) :
    SMap.get d (SMap.put k v m) l = SMap.get d m l := by
  induction m with
  | nil => simp [SMap.put, SMap.get, h]
  | cons e m ih =>
    obtain ⟨j, w⟩ := e
    by_cases h1 : k = j
    · subst h1; simp [SMap.put, SMap.get, h]
    · by_cases g : k < j
      · simp [SMap.put, SMap.get, h1, g, h]
      · simp [SMap.put, SMap.get, h1, g, ih]

theorem SMap.get_erase_same (d : Nat → α) (k : Nat) (m : SMap α) : SMap.get d (SMap.erase k m) k = d k := by
  induction m with
  | nil => simp [SMap.erase, SMap.get]
  | cons e m ih =>
    obtain ⟨j, w⟩ := e
    by_cases h : k = j
    · simp [SMap.erase, h]; rw [← h]; exact ih
    · simp [SMap.erase, SMap.get, h, ih]

theorem SMap.get_erase_other (d : Nat → α) (k l : Nat) (m : SMap α) (h : l ≠ k) :
    SMap.get d (SMap.erase k m) l = SMap.get d m l := by
  induction m with
  | nil => simp [SMap.erase]
  | cons e m ih =>
    obtain ⟨j, w⟩ := e
    by_cases h1 : k = j
    · subst h1; simp [SMap.erase, SMap.get, h, ih]
    · simp [SMap.erase, SMap.get, h1, ih]

/-- A read of the key written gives the value written. -/
@[simp] theorem SMap.get_set_same [DecidableEq α] (d : Nat → α) (m : SMap α) (k : Nat) (v : α) :
    SMap.get d (SMap.set d m k v) k = v := by
  unfold SMap.set
  split
  · rename_i h; rw [SMap.get_erase_same, h]
  · exact SMap.get_put_same d k v m

/-- A read of another key gives what it gave. -/
theorem SMap.get_set_other [DecidableEq α] (d : Nat → α) (m : SMap α) (k l : Nat) (v : α) (h : l ≠ k) :
    SMap.get d (SMap.set d m k v) l = SMap.get d m l := by
  unfold SMap.set
  split
  · exact SMap.get_erase_other d k l m h
  · exact SMap.get_put_other d k l v m h

/-! ### The canonical form -/

/-- Every key of a map is above a bound. -/
def SMap.above (b : Nat) (m : SMap α) : Prop := ∀ e ∈ m, b < e.1

theorem SMap.sorted_cons (j : Nat) (w : α) (m : SMap α) :
    SMap.sorted ((j, w) :: m) = true ↔ SMap.above j m ∧ SMap.sorted m = true := by
  induction m generalizing j w with
  | nil => simp [SMap.sorted, SMap.above]
  | cons e m ih =>
    obtain ⟨k, x⟩ := e
    have h := ih k x
    simp only [SMap.sorted, Bool.and_eq_true, decide_eq_true_eq]
    constructor
    · rintro ⟨hj, hs⟩
      refine ⟨?_, hs⟩
      intro e he
      rcases List.mem_cons.1 he with rfl | he
      · exact hj
      · exact Nat.lt_trans hj ((h.1 hs).1 e he)
    · rintro ⟨ha, hs⟩
      exact ⟨ha (k, x) (by simp), hs⟩

theorem SMap.wf_cons [DecidableEq α] (d : Nat → α) (j : Nat) (w : α) (m : SMap α) :
    SMap.wf d ((j, w) :: m) = true ↔ SMap.above j m ∧ w ≠ d j ∧ SMap.wf d m = true := by
  simp only [SMap.wf, Bool.and_eq_true, SMap.sorted_cons, List.all_cons, decide_eq_true_eq]
  exact ⟨fun ⟨⟨a, b⟩, c, e⟩ => ⟨a, c, b, e⟩, fun ⟨a, c, b, e⟩ => ⟨⟨a, b⟩, c, e⟩⟩

theorem SMap.above_put (b k : Nat) (v : α) (m : SMap α) (hk : b < k) (h : SMap.above b m) : SMap.above b (SMap.put k v m) := by
  induction m with
  | nil => intro e he; simp [SMap.put] at he; subst he; exact hk
  | cons e m ih =>
    obtain ⟨j, w⟩ := e
    have hj : b < j := h (j, w) (by simp)
    have hm : SMap.above b m := fun e he => h e (by simp [he])
    intro x hx
    by_cases h1 : k = j
    · simp [SMap.put, h1] at hx
      rcases hx with rfl | hx
      · exact hj
      · exact hm _ hx
    · by_cases h2 : k < j
      · simp [SMap.put, h1, h2] at hx
        rcases hx with rfl | rfl | hx
        · exact hk
        · exact hj
        · exact hm _ hx
      · simp [SMap.put, h1, h2] at hx
        rcases hx with rfl | hx
        · exact hj
        · exact ih hm _ hx

theorem SMap.above_erase (b k : Nat) (m : SMap α) (h : SMap.above b m) : SMap.above b (SMap.erase k m) := by
  induction m with
  | nil => simpa [SMap.erase] using h
  | cons e m ih =>
    obtain ⟨j, w⟩ := e
    have hj : b < j := h (j, w) (by simp)
    have hm : SMap.above b m := fun e he => h e (by simp [he])
    unfold SMap.erase
    split
    · exact ih hm
    · intro x hx
      rcases List.mem_cons.1 hx with rfl | hx
      · exact hj
      · exact ih hm _ hx

theorem SMap.wf_put [DecidableEq α] (d : Nat → α) (k : Nat) (v : α) (m : SMap α) (hv : v ≠ d k) (h : SMap.wf d m = true) :
    SMap.wf d (SMap.put k v m) = true := by
  induction m with
  | nil => simp [SMap.put, SMap.wf, SMap.sorted, hv]
  | cons e m ih =>
    obtain ⟨j, w⟩ := e
    obtain ⟨ha, hw, hm⟩ := (SMap.wf_cons d j w m).1 h
    by_cases h1 : k = j
    · subst h1
      simp only [SMap.put, if_true]
      exact (SMap.wf_cons d k v m).2 ⟨ha, hv, hm⟩
    · by_cases h2 : k < j
      · simp only [SMap.put, h1, h2, if_true, if_false]
        refine (SMap.wf_cons d k v _).2 ⟨?_, hv, h⟩
        intro e he
        rcases List.mem_cons.1 he with rfl | he
        · exact h2
        · exact Nat.lt_trans h2 (ha e he)
      · simp only [SMap.put, h1, h2, if_false]
        exact (SMap.wf_cons d j w _).2 ⟨SMap.above_put j k v m (by omega) ha, hw, ih hm⟩

theorem SMap.wf_erase [DecidableEq α] (d : Nat → α) (k : Nat) (m : SMap α) (h : SMap.wf d m = true) :
    SMap.wf d (SMap.erase k m) = true := by
  induction m with
  | nil => simpa [SMap.erase] using h
  | cons e m ih =>
    obtain ⟨j, w⟩ := e
    obtain ⟨ha, hw, hm⟩ := (SMap.wf_cons d j w m).1 h
    unfold SMap.erase
    split
    · exact ih hm
    · exact (SMap.wf_cons d j w _).2 ⟨SMap.above_erase j k m ha, hw, ih hm⟩

/-- Writing keeps the canonical form. -/
theorem SMap.wf_set [DecidableEq α] (d : Nat → α) (m : SMap α) (k : Nat) (v : α) (h : SMap.wf d m = true) :
    SMap.wf d (SMap.set d m k v) = true := by
  unfold SMap.set
  split
  · exact SMap.wf_erase d k m h
  · rename_i hv; exact SMap.wf_put d k v m hv h

/-- Changing the value at a key keeps the canonical form. -/
theorem SMap.wf_upd [DecidableEq α] (d : Nat → α) (m : SMap α) (k : Nat) (f : α → α) (h : SMap.wf d m = true) :
    SMap.wf d (SMap.upd d m k f) = true := SMap.wf_set d m k _ h

theorem SMap.above_filter (b : Nat) (p : Nat × α → Bool) (m : SMap α) (h : SMap.above b m) : SMap.above b (m.filter p) :=
  fun e he => h e (List.mem_filter.1 he).1

/-- Dropping entries keeps the canonical form. -/
theorem SMap.wf_filter [DecidableEq α] (d : Nat → α) (p : Nat × α → Bool) (m : SMap α) (h : SMap.wf d m = true) :
    SMap.wf d (m.filter p) = true := by
  induction m with
  | nil => simpa using h
  | cons e m ih =>
    obtain ⟨j, w⟩ := e
    obtain ⟨ha, hw, hm⟩ := (SMap.wf_cons d j w m).1 h
    rw [List.filter_cons]
    split
    · exact (SMap.wf_cons d j w _).2 ⟨SMap.above_filter j p m ha, hw, ih hm⟩
    · exact ih hm

/-! ### Bytes -/

/-- Writing bytes keeps the canonical form of a byte map. -/
theorem putBytes_wf (a : Nat) (l : List Byte) (m : SMap Byte) (h : SMap.wf dfltByte m = true) :
    SMap.wf dfltByte (putBytes a l m) = true := by
  induction l generalizing a m with
  | nil => simpa [putBytes] using h
  | cons b l ih => exact ih (a + 1) _ (SMap.wf_set dfltByte m a b h)

/-- A byte below the bytes written reads as before. -/
theorem putBytes_below (a : Nat) (l : List Byte) (m : SMap Byte) (k : Nat) (h : k < a) :
    SMap.get dfltByte (putBytes a l m) k = SMap.get dfltByte m k := by
  induction l generalizing a m with
  | nil => simp [putBytes]
  | cons b l ih =>
    rw [putBytes, ih (a + 1) _ (by omega), SMap.get_set_other _ _ _ _ _ (by omega)]

/-- A byte beyond the bytes written reads as before. -/
theorem putBytes_beyond (a : Nat) (l : List Byte) (m : SMap Byte) (k : Nat) (h : a + l.length ≤ k) :
    SMap.get dfltByte (putBytes a l m) k = SMap.get dfltByte m k := by
  induction l generalizing a m with
  | nil => simp [putBytes]
  | cons b l ih =>
    simp only [List.length_cons] at h
    rw [putBytes, ih (a + 1) _ (by omega), SMap.get_set_other _ _ _ _ _ (by omega)]

/-- The bytes written are read back. -/
theorem takeBytes_putBytes (a : Nat) (l : List Byte) (m : SMap Byte) : takeBytes l.length a (putBytes a l m) = l := by
  induction l generalizing a m with
  | nil => simp [takeBytes]
  | cons b l ih =>
    have h : SMap.get dfltByte (putBytes (a + 1) l (SMap.set dfltByte m a b)) a = b := by
      rw [putBytes_below _ _ _ _ (by omega), SMap.get_set_same]
    simp only [List.length_cons, takeBytes, putBytes, h, ih]

end Sys2Proof.Machine
end

