-- ==== Sys2Proof/Laws/Keeps.lean ====
section
/-! SUPPORT. What every operation of the block keeps: the queue of waiting commands, and the canonical form of SRAM, of
host memory and of the register file. `Keeps s t` says that it holds from `s` to `t`; it is closed under composition, and
the files of the operations prove it of each. -/

namespace Sys2Proof.Machine
open Sys2Proof

/-- From `s` to `t` the queue stands, and the three memories keep their canonical form. -/
structure Keeps (s t : State) : Prop where
  queue : t.pending = s.pending
  sram : SMap.wf dfltByte s.sram = true → SMap.wf dfltByte t.sram = true
  regs : SMap.wf resetField s.regs = true → SMap.wf resetField t.regs = true
  host : SMap.wf dfltByte s.host.mem = true → SMap.wf dfltByte t.host.mem = true

theorem Keeps.refl (s : State) : Keeps s s := ⟨rfl, id, id, id⟩

theorem Keeps.trans {s t u : State} (h : Keeps s t) (g : Keeps t u) : Keeps s u :=
  ⟨g.queue.trans h.queue, fun x => g.sram (h.sram x), fun x => g.regs (h.regs x), fun x => g.host (h.host x)⟩

/-- A change of the other fields alone. -/
theorem keeps_upd {s t : State} {ltime_ : Word64} {pins_ : Pins} {cfg_ : CfgState} {ens_ : EnsState} {sync_ :
      SyncState} {flt_ : FaultState} {host_ : HostState} {lnk_ : LnkState} {sched_ : SchedState} {kv_ : KvState}
      {sec_ : SecState} {banks_ : SMap Bank} {wgt_ : WgtState} {arrs_ : SMap ArrRec} {hoists_ : SMap HoistRec}
      {pnts_ : SMap PntRec} {vecs_ : SMap VecRec} {mnt_ : MntState} {pwr_ : PwrState} {mtr_ : MeterState}
      {answer_ : Answer} {fresh_ : Nat}
    (h : Keeps s t) (hm : host_.mem = t.host.mem) :
    Keeps s ⟨t.regs, ltime_, pins_, cfg_, ens_, sync_, flt_, host_, lnk_, sched_, kv_, sec_, banks_, wgt_,
      arrs_, hoists_, pnts_, vecs_, mnt_, pwr_, mtr_, t.sram, answer_, fresh_, t.pending⟩ :=
  ⟨h.queue, h.sram, h.regs, fun x => hm ▸ h.host x⟩

variable {α β γ : Type} {s : State}

/-! ### Local definitions -/

theorem keeps_let {A : State} {F : State → State} (hA : Keeps s A) (hF : ∀ x, Keeps s x → Keeps s (F x)) :
    Keeps s (let x := A; F x) := hF A hA
theorem keeps_letP {A : α × State} {F : α × State → State} (hA : Keeps s A.2) (hF : ∀ x : α × State, Keeps s x.2 → Keeps s (F x)) :
    Keeps s (let x := A; F x) := hF A hA
theorem keeps_letF {A : State × α} {F : State × α → State} (hA : Keeps s A.1) (hF : ∀ x : State × α, Keeps s x.1 → Keeps s (F x)) :
    Keeps s (let x := A; F x) := hF A hA
theorem keeps_letV {A : γ} {F : γ → State} (hF : ∀ x, Keeps s (F x)) : Keeps s (let x := A; F x) := hF A

theorem keeps2_let {A : State} {F : State → β × State} (hA : Keeps s A) (hF : ∀ x, Keeps s x → Keeps s (F x).2) :
    Keeps s (let x := A; F x).2 := hF A hA
theorem keeps2_letP {A : α × State} {F : α × State → β × State} (hA : Keeps s A.2)
    (hF : ∀ x : α × State, Keeps s x.2 → Keeps s (F x).2) : Keeps s (let x := A; F x).2 := hF A hA
theorem keeps2_letF {A : State × α} {F : State × α → β × State} (hA : Keeps s A.1)
    (hF : ∀ x : State × α, Keeps s x.1 → Keeps s (F x).2) : Keeps s (let x := A; F x).2 := hF A hA
theorem keeps2_letV {A : γ} {F : γ → β × State} (hF : ∀ x, Keeps s (F x).2) : Keeps s (let x := A; F x).2 := hF A

theorem keeps1_let {A : State} {F : State → State × β} (hA : Keeps s A) (hF : ∀ x, Keeps s x → Keeps s (F x).1) :
    Keeps s (let x := A; F x).1 := hF A hA
theorem keeps1_letP {A : α × State} {F : α × State → State × β} (hA : Keeps s A.2)
    (hF : ∀ x : α × State, Keeps s x.2 → Keeps s (F x).1) : Keeps s (let x := A; F x).1 := hF A hA
theorem keeps1_letF {A : State × α} {F : State × α → State × β} (hA : Keeps s A.1)
    (hF : ∀ x : State × α, Keeps s x.1 → Keeps s (F x).1) : Keeps s (let x := A; F x).1 := hF A hA
theorem keeps1_letV {A : γ} {F : γ → State × β} (hF : ∀ x, Keeps s (F x).1) : Keeps s (let x := A; F x).1 := hF A

theorem keeps2_mk {a : α} {t : State} (h : Keeps s t) : Keeps s (a, t).2 := h
theorem keeps1_mk {a : α} {t : State} (h : Keeps s t) : Keeps s (t, a).1 := h

/-! ### Cases -/

theorem keeps_ite {a b : State} {c : Prop} {i : Decidable c} (ha : Keeps s a) (hb : Keeps s b) : Keeps s (if c then a else b) := by
  split
  · exact ha
  · exact hb
theorem keeps2_ite {a b : α × State} {c : Prop} {i : Decidable c} (ha : Keeps s a.2) (hb : Keeps s b.2) :
    Keeps s (if c then a else b).2 := by
  split
  · exact ha
  · exact hb
theorem keeps1_ite {a b : State × α} {c : Prop} {i : Decidable c} (ha : Keeps s a.1) (hb : Keeps s b.1) :
    Keeps s (if c then a else b).1 := by
  split
  · exact ha
  · exact hb

theorem keeps_elim {a b c : State} (e : a = b) (ha : Keeps s a) (hc : Keeps s b → Keeps s c) : Keeps s c := hc (e ▸ ha)

/-! ### Lists -/

theorem keeps_foldl {F : State → α → State} (l : List α) (t : State) (h : Keeps s t)
    (hF : ∀ t x, Keeps s t → Keeps s (F t x)) : Keeps s (l.foldl F t) := by
  induction l generalizing t with
  | nil => exact h
  | cons a l ih => exact ih _ (hF t a h)
theorem keeps1_foldl {F : State × β → α → State × β} (l : List α) (t : State × β) (h : Keeps s t.1)
    (hF : ∀ t x, Keeps s t.1 → Keeps s (F t x).1) : Keeps s (l.foldl F t).1 := by
  induction l generalizing t with
  | nil => exact h
  | cons a l ih => exact ih _ (hF t a h)
theorem keeps2_foldl {F : β × State → α → β × State} (l : List α) (t : β × State) (h : Keeps s t.2)
    (hF : ∀ t x, Keeps s t.2 → Keeps s (F t x).2) : Keeps s (l.foldl F t).2 := by
  induction l generalizing t with
  | nil => exact h
  | cons a l ih => exact ih _ (hF t a h)

/-! ### The operations that write the three memories -/

theorem keeps_setF {z s : State} (f : Field) (v : Nat) (h : Keeps z s) : Keeps z (setF f v s) :=
  ⟨h.queue, h.sram, fun x => SMap.wf_set _ _ _ _ (h.regs x), h.host⟩

/-- A change of the register file that keeps its form. -/
theorem keeps_regs {z s : State} {m : SMap Nat} (h : Keeps z s)
    (hm : SMap.wf resetField s.regs = true → SMap.wf resetField m = true) : Keeps z { s with regs := m } :=
  ⟨h.queue, h.sram, fun x => hm (h.regs x), h.host⟩

/-- A change of SRAM that keeps its form. -/
theorem keeps_sram {z s : State} {m : SMap Byte} (h : Keeps z s)
    (hm : SMap.wf dfltByte s.sram = true → SMap.wf dfltByte m = true) : Keeps z { s with sram := m } :=
  ⟨h.queue, fun x => hm (h.sram x), h.regs, h.host⟩

theorem keeps_sramPut {z s : State} (a : Nat) (l : List Byte) (h : Keeps z s) : Keeps z (sramPut a l s) :=
  ⟨h.queue, fun x => putBytes_wf _ _ _ (h.sram x), h.regs, h.host⟩

theorem keeps_hostPut {z s : State} (a : Nat) (l : List Byte) (h : Keeps z s) : Keeps z (hostPut a l s) :=
  ⟨h.queue, h.sram, h.regs, fun x => putBytes_wf _ _ _ (h.host x)⟩

end Sys2Proof.Machine
end

