-- ==== Sys2Proof/Laws/KeepsOps.lean ====
section
/-! SUPPORT. What the operations of Machine/Ops.lean keep. -/

namespace Sys2Proof.Machine
open Sys2Proof

theorem keeps_addF {z s : State} (f : Field) (n : Nat) (hk : Keeps z s) :
    Keeps z (addF f n s) := by
  unfold addF
  refine keeps_setF _ _ ?_
  assumption

theorem keeps_satF {z s : State} (f : Field) (n : Nat) (hk : Keeps z s) :
    Keeps z (satF f n s) := by
  unfold satF
  refine keeps_setF _ _ ?_
  assumption

theorem keeps_setKeys {z s : State} (l : List (Nat × Nat)) (h : Keeps z s) : Keeps z (setKeys l s) := by
  unfold setKeys
  refine keeps_foldl _ _ h (fun _ _ hx => ?_)
  exact keeps_regs hx (SMap.wf_set _ _ _ _)

theorem keeps_draw {z s : State} (hk : Keeps z s) :
    Keeps z (draw s).2 := by
  unfold draw
  refine keeps2_mk ?_
  refine keeps_upd ?_ (by rfl)
  assumption

theorem keeps_sramPutWord {z s : State} (a : Nat) (v : Word64) (hk : Keeps z s) :
    Keeps z (sramPutWord a v s) := by
  unfold sramPutWord
  refine keeps_sramPut _ _ ?_
  assumption

theorem keeps_lifeAdd {z s : State} (off size n : Nat) (hk : Keeps z s) :
    Keeps z (lifeAdd off size n s) := by
  unfold lifeAdd
  extract_lets -merge x1
  refine keeps_upd ?_ (by rfl)
  assumption

theorem keeps_domCorrected {z s : State} (d n : Nat) (hk : Keeps z s) :
    Keeps z (domCorrected d n s) := by
  unfold domCorrected
  refine keeps_lifeAdd _ _ _ ?_
  refine keeps_addF _ _ ?_
  assumption

theorem keeps_domUncorrected {z s : State} (d n : Nat) (hk : Keeps z s) :
    Keeps z (domUncorrected d n s) := by
  unfold domUncorrected
  refine keeps_lifeAdd _ _ _ ?_
  refine keeps_addF _ _ ?_
  assumption

theorem keeps_meterAdd {z s : State} (account kind n : Nat) (hk : Keeps z s) :
    Keeps z (meterAdd account kind n s) := by
  unfold meterAdd
  extract_lets -merge x1
  refine keeps_upd ?_ (by rfl)
  assumption

theorem keeps_countClamp {z s : State} (off : Nat) (hk : Keeps z s) :
    Keeps z (countClamp off s) := by
  unfold countClamp
  refine keeps_lifeAdd _ _ _ ?_
  refine keeps_setF _ _ ?_
  refine keeps_addF _ _ ?_
  assumption

theorem keeps_countClamps {z s : State} (k_ : Nat) (hk : Keeps z s) :
    Keeps z (countClamps k_ s) := by
  induction k_ generalizing s with
  | zero =>
    rw [countClamps]
    assumption
  | succ _ ih =>
    rw [countClamps]
    refine ih ?_
    refine keeps_countClamp _ ?_
    assumption

theorem keeps_countIgnored {z s : State} (off : Nat) (hk : Keeps z s) :
    Keeps z (countIgnored off s) := by
  unfold countIgnored
  refine keeps_lifeAdd _ _ _ ?_
  refine keeps_setF _ _ ?_
  refine keeps_addF _ _ ?_
  assumption

theorem keeps_signal {z s : State} (v : Nat) (hk : Keeps z s) :
    Keeps z (signal v s) := by
  unfold signal
  extract_lets -merge x1 x2
  refine keeps_ite ?_ ?_
  · refine keeps_upd ?_ (by rfl)
    assumption
  · refine keeps_upd ?_ (by rfl)
    assumption

theorem keeps_ringAdded {z s : State} (n : Nat) (hk : Keeps z s) :
    Keeps z (ringAdded n s) := by
  unfold ringAdded
  extract_lets -merge x1 x2 x3 x4
  refine keeps_ite ?_ ?_
  · refine keeps_signal _ ?_
    refine keeps_upd ?_ (by rfl)
    assumption
  · refine keeps_upd ?_ (by rfl)
    assumption

theorem keeps_ringAdvance {z s : State} (n k : Nat) (hk : Keeps z s) :
    Keeps z (ringAdvance n k s) := by
  unfold ringAdvance
  extract_lets -merge x1
  have hx1 : Keeps z x1 := by
    unfold x1
    refine keeps_addF _ _ ?_
    assumption
  try clear_value x1
  refine keeps_ringAdded _ ?_
  refine keeps_hostPut _ _ ?_
  assumption

theorem keeps_writeEvent {z s : State} (e : Event) (hk : Keeps z s) :
    Keeps z (writeEvent e s) := by
  unfold writeEvent
  extract_lets -merge x1
  refine keeps_ringAdvance _ _ ?_
  refine keeps_hostPut _ _ ?_
  assumption

theorem keeps_drainEvents {z s : State} (k_ : List Event) (hk : Keeps z s) :
    Keeps z (drainEvents k_ s) := by
  induction k_ generalizing s with
  | nil =>
    rw [drainEvents]
    extract_lets -merge x1
    refine keeps_upd ?_ (by rfl)
    assumption
  | cons _ _ ih =>
    rw [drainEvents]
    extract_lets -merge x2
    refine keeps_ite ?_ ?_
    · refine ih ?_
      refine keeps_writeEvent _ ?_
      assumption
    · refine keeps_upd ?_ (by rfl)
      assumption

theorem keeps_drainQueue {z s : State} (hk : Keeps z s) :
    Keeps z (drainQueue s) := by
  unfold drainQueue
  extract_lets -merge x1 x2 x3
  have hx3 : Keeps z x3 := by
    unfold x3
    refine keeps_writeEvent _ ?_
    refine keeps_upd ?_ (by rfl)
    assumption
  try clear_value x3
  refine keeps_ite ?_ ?_
  · refine keeps_drainEvents _ ?_
    assumption
  · refine keeps_drainEvents _ ?_
    assumption

theorem keeps_queueEvent {z s : State} (e : Event) (hk : Keeps z s) :
    Keeps z (queueEvent e s) := by
  unfold queueEvent
  extract_lets -merge x1 x2
  refine keeps_ite ?_ ?_
  · refine keeps_addF _ _ ?_
    refine keeps_upd ?_ (by rfl)
    assumption
  · refine keeps_drainQueue ?_
    refine keeps_upd ?_ (by rfl)
    assumption

theorem keeps_sendOn {z s : State} (port : Nat) (m : Msg) (hk : Keeps z s) :
    Keeps z (sendOn port m s) := by
  unfold sendOn
  extract_lets -merge x1 x2
  refine keeps_upd ?_ (by rfl)
  assumption

theorem keeps_sendTo {z s : State} (pod : Nat) (typ layer step len : Nat) (b : MsgBody) (hk : Keeps z s) :
    Keeps z (sendTo pod typ layer step len b s) := by
  unfold sendTo
  refine keeps_sendOn _ _ ?_
  assumption

theorem keeps_sendAll {z s : State} (typ step len : Nat) (b : MsgBody) (hk : Keeps z s) :
    Keeps z (sendAll typ step len b s) := by
  unfold sendAll
  refine keeps_foldl _ _ ?_ (fun _ _ _ => ?_)
  · assumption
  · refine keeps_sendTo _ _ _ _ _ _ ?_
    assumption

theorem keeps_hear {z s : State} (pod : Nat) (hk : Keeps z s) :
    Keeps z (hear pod s) := by
  unfold hear
  extract_lets -merge x1
  refine keeps_upd ?_ (by rfl)
  assumption

theorem keeps_emit {z s : State} (code ten seq step detail : Nat) (hk : Keeps z s) :
    Keeps z (emit code ten seq step detail s) := by
  unfold emit
  extract_lets -merge x1
  refine keeps_ite ?_ ?_
  · refine keeps_sendTo _ _ _ _ _ _ ?_
    assumption
  · refine keeps_queueEvent _ ?_
    assumption

theorem keeps_emitPart {z s : State} (code detail : Nat) (hk : Keeps z s) :
    Keeps z (emitPart code detail s) := by
  unfold emitPart
  refine keeps_emit _ _ _ _ _ ?_
  assumption

theorem keeps_queueFault {z s : State} (code src detail : Nat) (hk : Keeps z s) :
    Keeps z (queueFault code src detail s) := by
  unfold queueFault
  extract_lets -merge x1 x2 x3
  have hx3 : Keeps z x3 := by
    unfold x3
    refine keeps_upd ?_ (by rfl)
    assumption
  try clear_value x3
  refine keeps_ite ?_ ?_
  · refine keeps_upd ?_ (by rfl)
    assumption
  · refine keeps_ite ?_ ?_
    · refine keeps_ite ?_ ?_
      · refine keeps_signal _ ?_
        assumption
      · assumption
    · refine keeps_lifeAdd _ _ _ ?_
      refine keeps_setF _ _ ?_
      refine keeps_satF _ _ ?_
      assumption

theorem keeps_report {z s : State} (code src detail : Nat) (hk : Keeps z s) :
    Keeps z (report code src detail s) := by
  unfold report
  extract_lets -merge x1 x2 x3
  have hx1 : Keeps z x1 := by
    unfold x1
    refine keeps_queueFault _ _ _ ?_
    assumption
  try clear_value x1
  have hx2 : Keeps z x2 := by
    unfold x2
    split
    · refine keeps_lifeAdd _ _ _ ?_
      assumption
    · assumption
  try clear_value x2
  refine keeps_ite ?_ ?_
  · assumption
  · refine keeps_emitPart _ _ ?_
    refine keeps_upd ?_ (by rfl)
    assumption

end Sys2Proof.Machine
end

