-- ==== Sys2Proof/Laws/KeepsSteps.lean ====
section
/-! SUPPORT. What the operations of Machine/Steps.lean keep. -/

namespace Sys2Proof.Machine
open Sys2Proof

theorem keeps_setSeq {z s : State} (q : Nat) (r : SeqRec) (hk : Keeps z s) :
    Keeps z (setSeq q r s) := by
  unfold setSeq
  extract_lets -merge x1
  refine keeps_upd ?_ (by rfl)
  assumption

theorem keeps_freeSeq {z s : State} (q : Nat) (hk : Keeps z s) :
    Keeps z (freeSeq q s) := by
  unfold freeSeq
  refine keeps_setSeq _ _ ?_
  assumption

theorem keeps_updStep {z s : State} (n : Nat) (f : StepRec → StepRec) (hk : Keeps z s) :
    Keeps z (updStep n f s) := by
  unfold updStep
  extract_lets -merge x1
  refine keeps_upd ?_ (by rfl)
  assumption

theorem keeps_freeBanks {z s : State} (hk : Keeps z s) :
    Keeps z (freeBanks s) := by
  unfold freeBanks
  extract_lets -merge x1
  refine keeps_upd ?_ (by rfl)
  assumption

theorem keeps_dropStep {z s : State} (n : Nat) (hk : Keeps z s) :
    Keeps z (dropStep n s) := by
  unfold dropStep
  extract_lets -merge x1 x2 x3
  refine keeps_freeBanks ?_
  refine keeps_upd ?_ (by rfl)
  assumption

theorem keeps_dropVectors {z s : State} (n : Nat) (hk : Keeps z s) :
    Keeps z (dropVectors n s) := by
  unfold dropVectors
  refine keeps_upd ?_ (by rfl)
  assumption

theorem keeps_clearLines {z s : State} (l n : Nat) (h : Keeps z s) : Keeps z (clearLines l n s) :=
  ⟨h.queue, fun x => SMap.wf_filter _ _ _ (h.sram x), h.regs, h.host⟩

theorem keeps_freeBlock {z s : State} (b : Block) (hk : Keeps z s) :
    Keeps z (freeBlock b s) := by
  unfold freeBlock
  extract_lets -merge x1 x2
  have hx1 : Keeps z x1 := by
    unfold x1
    split
    · refine keeps_clearLines _ _ ?_
      assumption
    · assumption
  try clear_value x1
  refine keeps_upd ?_ (by rfl)
  assumption

theorem keeps_freeWhere {z s : State} (p : Block → Bool) (hk : Keeps z s) :
    Keeps z (freeWhere p s) := by
  unfold freeWhere
  refine keeps_foldl _ _ ?_ (fun _ _ _ => ?_)
  · assumption
  · refine keeps_freeBlock _ ?_
    assumption

theorem keeps_mapBlocks {z s : State} (f : Block → Block) (hk : Keeps z s) :
    Keeps z (mapBlocks f s) := by
  unfold mapBlocks
  extract_lets -merge x1
  refine keeps_upd ?_ (by rfl)
  assumption

theorem keeps_discardBlocks {z s : State} (q : Nat) (hk : Keeps z s) :
    Keeps z (discardBlocks q s) := by
  unfold discardBlocks
  extract_lets -merge x1
  have hx1 : Keeps z x1 := by
    unfold x1
    refine keeps_freeWhere _ ?_
    assumption
  try clear_value x1
  refine keeps_mapBlocks _ ?_
  assumption

theorem keeps_tierFull {z s : State} (which : Nat) (hk : Keeps z s) :
    Keeps z (tierFull which s) := by
  unfold tierFull
  refine keeps_emitPart _ _ ?_
  assumption

theorem keeps_allocBlock {z s : State} (ten seq blk lslot fmt first : Nat) (step : Option Nat) (hk : Keeps z s) :
    Keeps z (allocBlock ten seq blk lslot fmt first step s) := by
  unfold allocBlock
  extract_lets -merge x1 x2 x3
  refine keeps_ite ?_ ?_
  · refine keeps_ite ?_ ?_
    · assumption
    · refine keeps_tierFull _ ?_
      refine keeps_upd ?_ (by rfl)
      assumption
  · split
    · refine keeps_ite ?_ ?_
      · assumption
      · refine keeps_tierFull _ ?_
        refine keeps_upd ?_ (by rfl)
        assumption
    · extract_lets -merge x4
      refine keeps_upd ?_ (by rfl)
      assumption

theorem keeps_sealWhere {z s : State} (lslot : Nat) (p : Block → Bool) (hk : Keeps z s) :
    Keeps z (sealWhere lslot p s) := by
  unfold sealWhere
  extract_lets -merge x1 x2
  have hx2 : Keeps z x2 := by
    unfold x2
    refine keeps_freeWhere _ ?_
    assumption
  try clear_value x2
  refine keeps_mapBlocks _ ?_
  assumption

theorem keeps_openFor {z s : State} (ten seq lslot lo count : Nat) (step : Option Nat) (hk : Keeps z s) :
    Keeps z (openFor ten seq lslot lo count step s) := by
  unfold openFor
  extract_lets -merge x1 x2
  have hx2 : Keeps z x2 := by
    unfold x2
    refine keeps_sealWhere _ _ ?_
    assumption
  try clear_value x2
  refine keeps_foldl _ _ ?_ (fun _ _ _ => ?_)
  · assumption
  · refine keeps_ite ?_ ?_
    · refine keeps_allocBlock _ _ _ _ _ _ _ ?_
      assumption
    · assumption

theorem keeps_openPlan {z s : State} (p : Plan) (hk : Keeps z s) :
    Keeps z (openPlan p s) := by
  unfold openPlan
  refine keeps_foldl _ _ ?_ (fun _ _ _ => ?_)
  · assumption
  · refine keeps_foldl _ _ ?_ (fun _ _ _ => ?_)
    · assumption
    · refine keeps_openFor _ _ _ _ _ _ ?_
      assumption

theorem keeps_commitBlocks {z s : State} (n seq len : Nat) (hk : Keeps z s) :
    Keeps z (commitBlocks n seq len s) := by
  unfold commitBlocks
  extract_lets -merge x1
  have hx1 : Keeps z x1 := by
    unfold x1
    refine keeps_mapBlocks _ ?_
    assumption
  try clear_value x1
  refine keeps_freeWhere _ ?_
  assumption

theorem keeps_sealSeq {z s : State} (q : Nat) (hk : Keeps z s) :
    Keeps z (sealSeq q s) := by
  unfold sealSeq
  refine keeps_mapBlocks _ ?_
  assumption

theorem keeps_fetchOne {z s t : State} (n : Nat) (h : Keeps z s) (e : fetchOne n s = some t) : Keeps z t := by
  unfold fetchOne at e
  split at e
  · cases e
  · split at e
    · cases e
    · split at e
      · cases e
        exact keeps_upd (keeps_updStep _ _ h) (by rfl)
      · cases e

theorem keeps_fetchStep {z s : State} (n : Nat) (k : Nat) (h : Keeps z s) : Keeps z (fetchStep n k s) := by
  induction k generalizing s with
  | zero => exact h
  | succ k ih =>
    unfold fetchStep
    split
    · exact ih (keeps_fetchOne n h ‹_›)
    · exact h

theorem keeps_fetchMore {z s : State} (hk : Keeps z s) :
    Keeps z (fetchMore s) := by
  unfold fetchMore
  refine keeps_foldl _ _ ?_ (fun _ _ _ => ?_)
  · assumption
  · refine keeps_fetchStep _ _ ?_
    assumption

theorem keeps_dropStaged {z s : State} (n : Nat) (hk : Keeps z s) :
    Keeps z (dropStaged n s) := by
  unfold dropStaged
  extract_lets -merge x1
  refine keeps_upd ?_ (by rfl)
  assumption

theorem keeps_abortBlocks {z s : State} (n : Nat) (hk : Keeps z s) :
    Keeps z (abortBlocks n s) := by
  unfold abortBlocks
  extract_lets -merge x1
  have hx1 : Keeps z x1 := by
    unfold x1
    refine keeps_freeWhere _ ?_
    assumption
  try clear_value x1
  refine keeps_dropStaged _ ?_
  assumption

theorem keeps_sweepBlocks {z s : State} (hk : Keeps z s) :
    Keeps z (sweepBlocks s) := by
  unfold sweepBlocks
  refine keeps_freeWhere _ ?_
  assumption

theorem keeps_noticeEpoch {z s : State} (e : Nat) (hk : Keeps z s) :
    Keeps z (noticeEpoch e s) := by
  unfold noticeEpoch
  refine keeps_ite ?_ ?_
  · refine keeps_sendAll _ _ _ _ ?_
    assumption
  · assumption

theorem keeps_dropMirror {z s : State} (q : Nat) (hk : Keeps z s) :
    Keeps z (dropMirror q s) := by
  unfold dropMirror
  refine keeps_ite ?_ ?_
  · refine keeps_sendOn _ _ ?_
    assumption
  · assumption

theorem keeps_endSeq {z s : State} (q : Nat) (hk : Keeps z s) :
    Keeps z (endSeq q s) := by
  unfold endSeq
  extract_lets -merge x1 x2 x3
  have hx2 : Keeps z x2 := by
    unfold x2
    refine keeps_discardBlocks _ ?_
    refine keeps_freeSeq _ ?_
    assumption
  try clear_value x2
  have hx3 : Keeps z x3 := by
    unfold x3
    refine keeps_dropMirror _ ?_
    assumption
  try clear_value x3
  refine keeps_noticeEpoch _ ?_
  refine keeps_sendAll _ _ _ _ ?_
  assumption

theorem keeps_endSeqError {z s : State} (q cause : Nat) (hk : Keeps z s) :
    Keeps z (endSeqError q cause s) := by
  unfold endSeqError
  extract_lets -merge x1
  refine keeps_endSeq _ ?_
  refine keeps_emit _ _ _ _ _ ?_
  assumption

theorem keeps_finishRelease {z s : State} (q : Nat) (hk : Keeps z s) :
    Keeps z (finishRelease q s) := by
  unfold finishRelease
  refine keeps_endSeq _ ?_
  assumption

theorem keeps_failSeq {z s : State} (cause : Nat) (ended : List Nat) (q : Nat) (hk : Keeps z s) :
    Keeps z (failSeq cause ended q s) := by
  unfold failSeq
  extract_lets -merge x1 x2
  refine keeps_ite ?_ ?_
  · refine keeps_finishRelease _ ?_
    refine keeps_setSeq _ _ ?_
    assumption
  · refine keeps_ite ?_ ?_
    · refine keeps_endSeqError _ _ ?_
      refine keeps_setSeq _ _ ?_
      assumption
    · refine keeps_ite ?_ ?_
      · refine keeps_setSeq _ _ ?_
        assumption
      · refine keeps_endSeqError _ _ ?_
        refine keeps_addF _ _ ?_
        refine keeps_setSeq _ _ ?_
        assumption

theorem keeps_abortLocal {z s : State} (n : Nat) (hk : Keeps z s) :
    Keeps z (abortLocal n s) := by
  unfold abortLocal
  refine keeps_sweepBlocks ?_
  refine keeps_fetchMore ?_
  refine keeps_dropStep _ ?_
  refine keeps_dropVectors _ ?_
  refine keeps_abortBlocks _ ?_
  assumption

theorem keeps_failStep {z s : State} (n cause : Nat) (ended : List Nat) (hk : Keeps z s) :
    Keeps z (failStep n cause ended s) := by
  unfold failStep
  extract_lets -merge x1 x2 x3 x4
  have hx1 : Keeps z x1 := by
    unfold x1
    refine keeps_addF _ _ ?_
    assumption
  try clear_value x1
  have hx2 : Keeps z x2 := by
    unfold x2
    refine keeps_emit _ _ _ _ _ ?_
    assumption
  try clear_value x2
  have hx3 : Keeps z x3 := by
    unfold x3
    refine keeps_sendAll _ _ _ _ ?_
    assumption
  try clear_value x3
  have hx4 : Keeps z x4 := by
    unfold x4
    refine keeps_abortLocal _ ?_
    assumption
  try clear_value x4
  split
  · assumption
  · refine keeps_foldl _ _ ?_ (fun _ _ _ => ?_)
    · assumption
    · refine keeps_failSeq _ _ _ ?_
      assumption

theorem keeps_endFrom {z s : State} (q cause : Nat) (hk : Keeps z s) :
    Keeps z (endFrom q cause s) := by
  unfold endFrom
  extract_lets -merge x1 x2
  refine keeps_ite ?_ ?_
  · refine keeps_ite ?_ ?_
    · assumption
    · refine keeps_endSeqError _ _ ?_
      assumption
  · refine keeps_sendTo _ _ _ _ _ _ ?_
    assumption

theorem keeps_failHere {z s : State} (n cause : Nat) (hk : Keeps z s) :
    Keeps z (failHere n cause s) := by
  unfold failHere
  refine keeps_ite ?_ ?_
  · refine keeps_failStep _ _ _ ?_
    assumption
  · refine keeps_sendTo _ _ _ _ _ _ ?_
    assumption

theorem keeps_failIssuer {z s : State} (step : Option Nat) (cause : Nat) (hk : Keeps z s) :
    Keeps z (failIssuer step cause s) := by
  unfold failIssuer
  split
  · refine keeps_failHere _ _ ?_
    assumption
  · assumption

theorem keeps_failAll {z s : State} (cause : Nat) (hk : Keeps z s) :
    Keeps z (failAll cause s) := by
  unfold failAll
  refine keeps_foldl _ _ ?_ (fun _ _ _ => ?_)
  · assumption
  · refine keeps_failHere _ _ ?_
    assumption

end Sys2Proof.Machine
end

