-- ==== Sys2Proof/Laws/KeepsMaint.lean ====
section
/-! SUPPORT. What the operations of Machine/Maint.lean keep. -/

namespace Sys2Proof.Machine
open Sys2Proof

theorem keeps_setArr {z s : State} (a : Nat) (r : ArrRec) (hk : Keeps z s) :
    Keeps z (setArr a r s) := by
  unfold setArr
  refine keeps_upd ?_ (by rfl)
  assumption

theorem keeps_updArr {z s : State} (a : Nat) (f : ArrRec → ArrRec) (hk : Keeps z s) :
    Keeps z (updArr a f s) := by
  unfold updArr
  refine keeps_setArr _ _ ?_
  assumption

theorem keeps_setPnt {z s : State} (p : Nat) (r : PntRec) (hk : Keeps z s) :
    Keeps z (setPnt p r s) := by
  unfold setPnt
  refine keeps_upd ?_ (by rfl)
  assumption

theorem keeps_updPnt {z s : State} (p : Nat) (f : PntRec → PntRec) (hk : Keeps z s) :
    Keeps z (updPnt p f s) := by
  unfold updPnt
  refine keeps_setPnt _ _ ?_
  assumption

theorem keeps_setArrState {z s : State} (a n : Nat) (hk : Keeps z s) :
    Keeps z (setArrState a n s) := by
  unfold setArrState
  refine keeps_setF _ _ ?_
  assumption

theorem keeps_retire {z s : State} (a cause : Nat) (hk : Keeps z s) :
    Keeps z (retire a cause s) := by
  unfold retire
  extract_lets -merge x1 x2 x3 x4 x5
  have hx2 : Keeps z x2 := by
    unfold x2
    refine keeps_setArrState _ _ ?_
    assumption
  try clear_value x2
  have hx3 : Keeps z x3 := by
    unfold x3
    refine keeps_ite ?_ ?_
    · refine keeps_lifeAdd _ _ _ ?_
      assumption
    · assumption
  try clear_value x3
  have hx4 : Keeps z x4 := by
    unfold x4
    refine keeps_lifeAdd _ _ _ ?_
    refine keeps_addF _ _ ?_
    assumption
  try clear_value x4
  have hx5 : Keeps z x5 := by
    unfold x5
    refine keeps_updArr _ _ ?_
    assumption
  try clear_value x5
  refine keeps_emitPart _ _ ?_
  assumption

theorem keeps_toSpare {z s : State} (a : Nat) (hk : Keeps z s) :
    Keeps z (toSpare a s) := by
  unfold toSpare
  refine keeps_ite ?_ ?_
  · refine keeps_retire _ _ ?_
    assumption
  · refine keeps_setArrState _ _ ?_
    assumption

theorem keeps_programCycle {z s : State} (a : Nat) (hk : Keeps z s) :
    Keeps z (programCycle a s) := by
  unfold programCycle
  refine keeps_lifeAdd _ _ _ ?_
  assumption

theorem keeps_setSlot {z s : State} (n : Nat) (r : EpSlot) (hk : Keeps z s) :
    Keeps z (setSlot n r s) := by
  unfold setSlot
  extract_lets -merge x1
  refine keeps_upd ?_ (by rfl)
  assumption

theorem keeps_markStale {z s : State} (a : Nat) (hk : Keeps z s) :
    Keeps z (markStale a s) := by
  unfold markStale
  extract_lets -merge x1 x2 x3
  have hx2 : Keeps z x2 := by
    unfold x2
    refine keeps_ite ?_ ?_
    · assumption
    · refine keeps_setF _ _ ?_
      assumption
  try clear_value x2
  refine keeps_updArr _ _ ?_
  refine keeps_addF _ _ ?_
  assumption

theorem keeps_staleIfDue {z s : State} (a : Nat) (hk : Keeps z s) :
    Keeps z (staleIfDue a s) := by
  unfold staleIfDue
  refine keeps_ite ?_ ?_
  · refine keeps_markStale _ ?_
    assumption
  · assumption

theorem keeps_startStandin {z s : State} (a sp : Nat) (touch : Bool) (hk : Keeps z s) :
    Keeps z (startStandin a sp touch s) := by
  unfold startStandin
  extract_lets -merge x1 x2
  have hx1 : Keeps z x1 := by
    unfold x1
    refine keeps_setF _ _ ?_
    refine keeps_setArrState _ _ ?_
    assumption
  try clear_value x1
  have hx2 : Keeps z x2 := by
    unfold x2
    refine keeps_updArr _ _ ?_
    assumption
  try clear_value x2
  refine keeps_staleIfDue _ ?_
  refine keeps_updArr _ _ ?_
  assumption

theorem keeps_startMove {z s : State} (l q b : Nat) (dest : MoveDest) (h : Keeps z s) : Keeps z (startMove l q b dest s) := by
  unfold startMove
  split
  · exact h
  · cases dest <;> dsimp only <;> repeat' split
    all_goals first
      | exact h
      | exact keeps_upd (keeps_mapBlocks _ h) (by rfl)

theorem keeps_startResync {z s : State} (hk : Keeps z s) :
    Keeps z (startResync s) := by
  unfold startResync
  extract_lets -merge x1 x2
  refine keeps_setF _ _ ?_
  refine keeps_setF _ _ ?_
  refine keeps_upd ?_ (by rfl)
  assumption

theorem keeps_startAct {z s : State} (m : MntAct) (hk : Keeps z s) :
    Keeps z (startAct m s) := by
  unfold startAct
  split
  · extract_lets -merge x1
    have hx1 : Keeps z x1 := by
      unfold x1
      refine keeps_updPnt _ _ ?_
      assumption
    try clear_value x1
    refine keeps_foldl _ _ ?_ (fun _ _ _ => ?_)
    · assumption
    · refine keeps_updArr _ _ ?_
      assumption
  · split
    · refine keeps_startStandin _ _ _ ?_
      assumption
    · assumption
  · split
    · refine keeps_startStandin _ _ _ ?_
      assumption
    · assumption
  · refine keeps_staleIfDue _ ?_
    refine keeps_updArr _ _ ?_
    assumption
  · refine keeps_staleIfDue _ ?_
    refine keeps_updArr _ _ ?_
    assumption
  · refine keeps_startMove _ _ _ _ ?_
    assumption
  · assumption
  · assumption
  · assumption
  · refine keeps_startResync ?_
    assumption
  · assumption
  · assumption
  · assumption
  · assumption

theorem keeps_giveGrant {z s : State} (m : MntAct) (res : List Nat) (hk : Keeps z s) :
    Keeps z (giveGrant m res s) := by
  unfold giveGrant
  extract_lets -merge x1 x2
  have hx2 : Keeps z x2 := by
    unfold x2
    refine keeps_upd ?_ (by rfl)
    assumption
  try clear_value x2
  refine keeps_startAct _ ?_
  refine keeps_addF _ _ ?_
  assumption

theorem keeps_noSpare {z s : State} (m : MntAct) (hk : Keeps z s) :
    Keeps z (noSpare m s) := by
  unfold noSpare
  split
  · refine keeps_ite ?_ ?_
    · refine keeps_report _ _ _ ?_
      refine keeps_setF _ _ ?_
      assumption
    · assumption
  · assumption

theorem keeps_evalReqs {z s : State} (k_ : List MntReq) (hk : Keeps z s) :
    Keeps z (evalReqs k_ s) := by
  induction k_ generalizing s with
  | nil =>
    rw [evalReqs]
    assumption
  | cons _ _ ih =>
    rw [evalReqs]
    extract_lets -merge x1 x2 x3 x4 x5
    have hx3 : Keeps z x3 := by
      unfold x3
      refine keeps_noSpare _ ?_
      assumption
    try clear_value x3
    refine keeps_ite ?_ ?_
    · refine ih ?_
      refine keeps_upd ?_ (by rfl)
      assumption
    · split
      · refine ih ?_
        refine keeps_giveGrant _ _ ?_
        refine keeps_upd ?_ (by rfl)
        assumption
      · refine keeps_ite ?_ ?_
        · refine ih ?_
          assumption
        · refine ih ?_
          refine keeps_addF _ _ ?_
          refine keeps_upd ?_ (by rfl)
          assumption

theorem keeps_arbitrate {z s : State} (hk : Keeps z s) :
    Keeps z (arbitrate s) := by
  unfold arbitrate
  refine keeps_evalReqs _ ?_
  assumption

theorem keeps_requestAct {z s : State} (m : MntAct) (hk : Keeps z s) :
    Keeps z (requestAct m s) := by
  unfold requestAct
  extract_lets -merge x1
  refine keeps_ite ?_ ?_
  · refine keeps_arbitrate ?_
    refine keeps_upd ?_ (by rfl)
    assumption
  · assumption

theorem keeps_releaseAct {z s : State} (m : MntAct) (hk : Keeps z s) :
    Keeps z (releaseAct m s) := by
  unfold releaseAct
  extract_lets -merge x1
  refine keeps_arbitrate ?_
  refine keeps_upd ?_ (by rfl)
  assumption

theorem keeps_releaseProgram {z s : State} (a : Nat) (hk : Keeps z s) :
    Keeps z (releaseProgram a s) := by
  unfold releaseProgram
  extract_lets -merge x1 x2 x3
  refine keeps_upd ?_ (by rfl)
  assumption

theorem keeps_roundFirst {z s : State} (a : Nat) (hk : Keeps z s) :
    Keeps z (roundFirst a s) := by
  unfold roundFirst
  extract_lets -merge x1 x2 x3
  have hx1 : Keeps z x1 := by
    unfold x1
    refine keeps_updPnt _ _ ?_
    assumption
  try clear_value x1
  have hx3 : Keeps z x3 := by
    unfold x3
    refine keeps_upd ?_ (by rfl)
    assumption
  try clear_value x3
  refine keeps_requestAct _ ?_
  assumption

theorem keeps_enterQueued {z s : State} (a : Nat) (hk : Keeps z s) :
    Keeps z (enterQueued a s) := by
  unfold enterQueued
  refine keeps_requestAct _ ?_
  refine keeps_report _ _ _ ?_
  refine keeps_setArrState _ _ ?_
  assumption

theorem keeps_touchUpStart {z s : State} (hk : Keeps z s) :
    Keeps z (touchUpStart s) := by
  unfold touchUpStart
  refine keeps_ite ?_ ?_
  · split
    · assumption
    · refine keeps_requestAct _ ?_
      assumption
  · assumption

theorem keeps_maintRequest {z s : State} (m : MntAct) (hk : Keeps z s) :
    Keeps z (maintRequest m s) := by
  unfold maintRequest
  extract_lets -merge x1
  split
  · split
    · refine keeps_ite ?_ ?_
      · refine keeps_ite ?_ ?_
        · assumption
        · refine keeps_tierFull _ ?_
          refine keeps_upd ?_ (by rfl)
          assumption
      · refine keeps_requestAct _ ?_
        assumption
    · assumption
  · refine keeps_requestAct _ ?_
    assumption

theorem keeps_ageReq {z s : State} (m : MntAct) (hk : Keeps z s) :
    Keeps z (ageReq m s) := by
  unfold ageReq
  extract_lets -merge x1 x2 x3
  have hx3 : Keeps z x3 := by
    unfold x3
    refine keeps_upd ?_ (by rfl)
    assumption
  try clear_value x3
  split
  · refine keeps_ite ?_ ?_
    · refine keeps_arbitrate ?_
      refine keeps_emitPart _ _ ?_
      refine keeps_addF _ _ ?_
      assumption
    · assumption
  · assumption

theorem keeps_queueArray {z s : State} (a : Nat) (hk : Keeps z s) :
    Keeps z (queueArray a s) := by
  unfold queueArray
  refine keeps_enterQueued _ ?_
  refine keeps_setF _ _ ?_
  assumption

theorem keeps_arrayQueue {z s : State} (a : Nat) (hk : Keeps z s) :
    Keeps z (arrayQueue a s).2 := by
  unfold arrayQueue
  refine keeps2_ite ?_ (keeps2_ite ?_ ?_)
  · refine keeps2_mk ?_
    assumption
  · refine keeps2_mk ?_
    refine keeps_queueArray _ ?_
    assumption
  · refine keeps2_mk ?_
    assumption

end Sys2Proof.Machine
end

