-- ==== Sys2Proof/Laws/KeepsReads.lean ====
section
/-! SUPPORT. What the operations of Machine/Reads.lean keep. -/

namespace Sys2Proof.Machine
open Sys2Proof

theorem keeps_deliver {z s : State} (a vid : Nat) (cols : List (Nat × Int)) (skip : Bool) (hk : Keeps z s) :
    Keeps z (deliver a vid cols skip s) := by
  unfold deliver
  extract_lets -merge x1
  split
  · assumption
  · extract_lets -merge x2 x3
    have hx3 : Keeps z x3 := by
      unfold x3
      refine keeps_updPnt _ _ ?_
      assumption
    try clear_value x3
    split
    · refine keeps_setF _ _ ?_
      assumption
    · assumption

theorem keeps_skipZeros {z s : State} (a : Nat) (k_ : Nat) (hk : Keeps z s) :
    Keeps z (skipZeros a k_ s) := by
  induction k_ generalizing s with
  | zero =>
    rw [skipZeros]
    assumption
  | succ _ ih =>
    rw [skipZeros]
    split
    · assumption
    · extract_lets -merge x1
      have hx1 : Keeps z x1 := by
        unfold x1
        refine keeps_ite ?_ ?_
        · assumption
        · refine keeps_addF _ _ ?_
          assumption
      try clear_value x1
      refine keeps_ite ?_ ?_
      · refine ih ?_
        refine keeps_deliver _ _ _ _ ?_
        refine keeps_setArr _ _ ?_
        assumption
      · assumption

theorem keeps_quantiseVector {z s : State} (p : Nat) (t : VecTag) (segs : List Segment) (hk : Keeps z s) :
    Keeps z (quantiseVector p t segs s) := by
  unfold quantiseVector
  extract_lets -merge x1 x2 x3 x4 x5 x6 x7 x8 x9 x10 x11
  have hx8 : Keeps z x8 := by
    unfold x8
    refine keeps_ite ?_ ?_
    · refine keeps_addF _ _ ?_
      assumption
    · assumption
  try clear_value x8
  have hx10 : Keeps z x10 := by
    unfold x10
    refine keeps_updPnt _ _ ?_
    assumption
  try clear_value x10
  have hx11 : Keeps z x11 := by
    unfold x11
    refine keeps_foldl _ _ ?_ (fun _ _ _ => ?_)
    · assumption
    · refine keeps_updArr _ _ ?_
      assumption
  try clear_value x11
  refine keeps_ite ?_ ?_
  · assumption
  · refine keeps_foldl _ _ ?_ (fun _ _ _ => ?_)
    · assumption
    · refine keeps_skipZeros _ _ ?_
      assumption

theorem keeps_unchecked {z s : State} (a : Nat) (hk : Keeps z s) :
    Keeps z (unchecked a s) := by
  unfold unchecked
  extract_lets -merge x1
  have hx1 : Keeps z x1 := by
    unfold x1
    refine keeps_setF _ _ ?_
    assumption
  try clear_value x1
  refine keeps_ite ?_ ?_
  · refine keeps_queueArray _ ?_
    assumption
  · assumption

theorem keeps_standinEnd {z s : State} (a : Nat) (hk : Keeps z s) :
    Keeps z (standinEnd a s) := by
  unfold standinEnd
  split
  · refine keeps_ite ?_ ?_
    · assumption
    · refine keeps_setF _ _ ?_
      assumption
  · assumption

theorem keeps_standinStart {z s : State} (a : Nat) (hk : Keeps z s) :
    Keeps z (standinStart a s) := by
  unfold standinStart
  split
  · extract_lets -merge x1 x2
    have hx1 : Keeps z x1 := by
      unfold x1
      refine keeps_setF _ _ ?_
      refine keeps_setF _ _ ?_
      assumption
    try clear_value x1
    have hx2 : Keeps z x2 := by
      unfold x2
      refine keeps_ite ?_ ?_
      · refine keeps_setF _ _ ?_
        refine keeps_updArr _ _ ?_
        assumption
      · assumption
    try clear_value x2
    refine keeps_ite ?_ ?_
    · assumption
    · refine keeps_unchecked _ ?_
      assumption
  · assumption

theorem keeps_flagChecksum {z s : State} (a m : Nat) (hk : Keeps z s) :
    Keeps z (flagChecksum a m s) := by
  unfold flagChecksum
  extract_lets -merge x1 x2 x3 x4
  have hx3 : Keeps z x3 := by
    unfold x3
    refine keeps_setF _ _ ?_
    refine keeps_addF _ _ ?_
    assumption
  try clear_value x3
  have hx4 : Keeps z x4 := by
    unfold x4
    refine keeps_report _ _ _ ?_
    assumption
  try clear_value x4
  refine keeps_ite ?_ ?_
  · assumption
  · refine keeps_ite ?_ ?_
    · refine keeps_unchecked _ ?_
      assumption
    · assumption

theorem keeps_flagCheck {z s : State} (a : Nat) (hk : Keeps z s) :
    Keeps z (flagCheck a s) := by
  unfold flagCheck
  extract_lets -merge x1 x2
  have hx1 : Keeps z x1 := by
    unfold x1
    refine keeps_setF _ _ ?_
    refine keeps_addF _ _ ?_
    assumption
  try clear_value x1
  have hx2 : Keeps z x2 := by
    unfold x2
    refine keeps_standinEnd _ ?_
    refine keeps_report _ _ _ ?_
    assumption
  try clear_value x2
  refine keeps_ite ?_ ?_
  · assumption
  · refine keeps_ite ?_ ?_
    · assumption
    · refine keeps_unchecked _ ?_
      assumption

theorem keeps_compareOne {z s : State} (a col : Nat) (diff : Int) (hk : Keeps z s) :
    Keeps z (compareOne a col diff s) := by
  unfold compareOne
  extract_lets -merge x1 x2 x3 x4
  have hx4 : Keeps z x4 := by
    unfold x4
    refine keeps_ite ?_ ?_
    · refine keeps_addF _ _ ?_
      assumption
    · assumption
  try clear_value x4
  refine keeps_ite ?_ ?_
  · assumption
  · refine keeps_setF _ _ ?_
    refine keeps_setArr _ _ ?_
    assumption

theorem keeps_compareRead {z s : State} (a d : Nat) (par : ReadPar) (lv : SMap Int)
    (pts : List (Nat × Nat × List Int × List (Nat × Nat))) (lates : List (Nat × Nat)) (hk : Keeps z s) :
    Keeps z (compareRead a d par lv pts lates s) := by
  unfold compareRead
  split
  · assumption
  · extract_lets -merge x1
    refine keeps_foldl _ _ ?_ (fun _ _ _ => ?_)
    · assumption
    · refine keeps_foldl _ _ ?_ (fun _ _ _ => ?_)
      · assumption
      · extract_lets -merge x3 x4 x5
        refine keeps_compareOne _ _ _ ?_
        assumption

theorem keeps_dwellEnd {z s : State} (a : Nat) (hk : Keeps z s) :
    Keeps z (dwellEnd a s) := by
  unfold dwellEnd
  extract_lets -merge x1 x2 x3 x4
  have hx2 : Keeps z x2 := by
    unfold x2
    refine keeps_setF _ _ ?_
    assumption
  try clear_value x2
  have hx4 : Keeps z x4 := by
    unfold x4
    refine keeps_setArr _ _ ?_
    assumption
  try clear_value x4
  split
  · assumption
  · extract_lets -merge x7 x8 x9
    have hx9 : Keeps z x9 := by
      unfold x9
      refine keeps_setArr _ _ ?_
      assumption
    try clear_value x9
    refine keeps_ite ?_ ?_
    · assumption
    · refine keeps_ite ?_ ?_
      · refine keeps_ite ?_ ?_
        · assumption
        · refine keeps_setF _ _ ?_
          refine keeps_addF _ _ ?_
          assumption
      · refine keeps_ite ?_ ?_
        · refine keeps_ite ?_ ?_
          · refine keeps_flagCheck _ ?_
            assumption
          · refine keeps_flagChecksum _ _ ?_
            assumption
        · refine keeps_addF _ _ ?_
          refine keeps_setArr _ _ ?_
          assumption

theorem keeps_suspectEvent {z s : State} (a : Nat) (hk : Keeps z s) :
    Keeps z (suspectEvent a s) := by
  unfold suspectEvent
  extract_lets -merge x1 x2 x3 x4 x5 x6
  have hx4 : Keeps z x4 := by
    unfold x4
    refine keeps_setF _ _ ?_
    refine keeps_domUncorrected _ _ ?_
    refine keeps_addF _ _ ?_
    assumption
  try clear_value x4
  have hx6 : Keeps z x6 := by
    unfold x6
    refine keeps_updArr _ _ ?_
    refine keeps_setF _ _ ?_
    assumption
  try clear_value x6
  refine keeps_ite ?_ ?_
  · refine keeps_ite ?_ ?_
    · refine keeps_enterQueued _ ?_
      assumption
    · refine keeps_setArrState _ _ ?_
      assumption
  · refine keeps_ite ?_ ?_
    · refine keeps_ite ?_ ?_
      · refine keeps_satF _ _ ?_
        assumption
      · refine keeps_enterQueued _ ?_
        refine keeps_setF _ _ ?_
        assumption
    · refine keeps_satF _ _ ?_
      assumption

theorem keeps_suspectWindowEnd {z s : State} (a : Nat) (hk : Keeps z s) :
    Keeps z (suspectWindowEnd a s) := by
  unfold suspectWindowEnd
  refine keeps_ite ?_ ?_
  · refine keeps_arbitrate ?_
    refine keeps_setArrState _ _ ?_
    refine keeps_setF _ _ ?_
    assumption
  · assumption

theorem keeps_countSlots {z s : State} (a ten slots : Nat) (hk : Keeps z s) :
    Keeps z (countSlots a ten slots s) := by
  unfold countSlots
  extract_lets -merge x1
  refine keeps_meterAdd _ _ _ ?_
  refine keeps_updArr _ _ ?_
  assumption

theorem keeps_countClips {z s : State} (a step : Nat) (wasSplit wasSat : Bool) (new : List Sample) (hk : Keeps z s) :
    Keeps z (countClips a step wasSplit wasSat new s) := by
  unfold countClips
  extract_lets -merge x1 x2 x3 x4 x5 x6 x7
  have hx4 : Keeps z x4 := by
    unfold x4
    refine keeps_ite ?_ ?_
    · refine keeps_setF _ _ ?_
      assumption
    · assumption
  try clear_value x4
  have hx5 : Keeps z x5 := by
    unfold x5
    refine keeps_ite ?_ ?_
    · refine keeps_addF _ _ ?_
      assumption
    · assumption
  try clear_value x5
  have hx6 : Keeps z x6 := by
    unfold x6
    refine keeps_ite ?_ ?_
    · refine keeps_setF _ _ ?_
      assumption
    · assumption
  try clear_value x6
  have hx7 : Keeps z x7 := by
    unfold x7
    refine keeps_ite ?_ ?_
    · refine keeps_addF _ _ ?_
      assumption
    · assumption
  try clear_value x7
  refine keeps_ite ?_ ?_
  · refine keeps_report _ _ _ ?_
    refine keeps_updArr _ _ ?_
    assumption
  · assumption

theorem keeps_outcome {z s : State} (a o : Nat) (hk : Keeps z s) :
    Keeps z (outcome a o s) := by
  unfold outcome
  refine keeps_lifeAdd _ _ _ ?_
  assumption

theorem keeps_settleSlice {z s : State} (a : Nat) (par : ReadPar) (res : SMap Int) (bad : Bool) (xs : List Int) (newLate : Bool) (sl : SliceRec) (hk : Keeps z s) :
    Keeps z (settleSlice a par res bad xs newLate sl s).2 := by
  unfold settleSlice
  extract_lets -merge x1 x2 x3
  have hx2 : Keeps z x2 := by
    unfold x2
    refine keeps_addF _ _ ?_
    assumption
  try clear_value x2
  have hx3 : Keeps z x3 := by
    unfold x3
    refine keeps_ite ?_ ?_
    · refine keeps_outcome _ _ ?_
      refine keeps_domCorrected _ _ ?_
      refine keeps_addF _ _ ?_
      assumption
    · assumption
  try clear_value x3
  refine keeps2_ite ?_ ?_
  · refine keeps2_mk ?_
    assumption
  · refine keeps2_mk ?_
    assumption

theorem keeps_releaseReads {z s : State} (a : Nat) (k_ : Nat) (hk : Keeps z s) :
    Keeps z (releaseReads a k_ s) := by
  induction k_ generalizing s with
  | zero =>
    rw [releaseReads]
    assumption
  | succ _ ih =>
    rw [releaseReads]
    split
    · assumption
    · extract_lets -merge x1 x2
      have hx1 : Keeps z x1 := by
        unfold x1
        refine keeps_deliver _ _ _ _ ?_
        refine keeps_setArr _ _ ?_
        assumption
      try clear_value x1
      have hx2 : Keeps z x2 := by
        unfold x2
        refine keeps_ite ?_ ?_
        · assumption
        · refine keeps_suspectEvent _ ?_
          refine keeps_outcome _ _ ?_
          assumption
      try clear_value x2
      refine keeps_ite ?_ ?_
      · refine ih ?_
        assumption
      · assumption

theorem keeps_storeCheck {z s : State} (a : Nat) (res cal : Ecc) (hk : Keeps z s) :
    Keeps z (storeCheck a res cal s) := by
  unfold storeCheck
  extract_lets -merge x1 x2
  have hx1 : Keeps z x1 := by
    unfold x1
    split
    · assumption
    · refine keeps_domCorrected _ _ ?_
      assumption
    · refine keeps_report _ _ _ ?_
      refine keeps_updArr _ _ ?_
      refine keeps_domUncorrected _ _ ?_
      assumption
  try clear_value x1
  have hx2 : Keeps z x2 := by
    unfold x2
    refine keeps_updArr _ _ ?_
    refine keeps_domUncorrected _ _ ?_
    assumption
  try clear_value x2
  split
  · assumption
  · refine keeps_domCorrected _ _ ?_
    assumption
  · refine keeps_requestAct _ ?_
    refine keeps_report _ _ _ ?_
    assumption

theorem keeps_arrayRead {z s : State} (a : Nat) (idle : Bool) (lates : List (Nat × Nat)) (res cal : Ecc) (hk : Keeps z s) :
    Keeps z (arrayRead a idle lates res cal s) := by
  unfold arrayRead
  extract_lets -merge x1 x2 x3 x4 x5 x6 x7 x8 x9
  have hx1 : Keeps z x1 := by
    unfold x1
    refine keeps_storeCheck _ _ _ ?_
    assumption
  try clear_value x1
  have hx2 : Keeps z x2 := by
    unfold x2
    refine keeps_standinStart _ ?_
    refine keeps_standinEnd _ ?_
    refine keeps_skipZeros _ _ ?_
    assumption
  try clear_value x2
  have hx9 : Keeps z x9 := by
    unfold x9
    refine keeps_upd ?_ (by rfl)
    assumption
  try clear_value x9
  split
  · assumption
  · extract_lets -merge x10 x11 x12 x13 x14 x15 x16 x17 x18 x19
    have hx14 : Keeps z x14 := by
      unfold x14
      refine keeps_addF _ _ ?_
      refine keeps_addF _ _ ?_
      assumption
    try clear_value x14
    have hx15 : Keeps z x15 := by
      unfold x15
      refine keeps_countClips _ _ _ _ _ ?_
      assumption
    try clear_value x15
    have hx16 : Keeps z x16.2 := by
      unfold x16
      refine keeps2_foldl _ _ ?_ (fun _ _ _ => ?_)
      · refine keeps2_mk ?_
        assumption
      · extract_lets -merge x21
        have hx21 : Keeps z x21.2 := by
          unfold x21
          refine keeps_settleSlice _ _ _ _ _ _ _ ?_
          assumption
        try clear_value x21
        refine keeps2_ite ?_ ?_
        · refine keeps2_mk ?_
          assumption
        · refine keeps2_mk ?_
          assumption
    try clear_value x16
    have hx17 : Keeps z x17 := by
      unfold x17
      refine keeps_countSlots _ _ _ ?_
      refine keeps_compareRead _ _ _ _ _ _ ?_
      assumption
    try clear_value x17
    have hx19 : Keeps z x19 := by
      unfold x19
      refine keeps_updArr _ _ ?_
      assumption
    try clear_value x19
    refine keeps_ite ?_ ?_
    · assumption
    · refine keeps_skipZeros _ _ ?_
      refine keeps_releaseReads _ _ ?_
      assumption

theorem keeps_sliceRetry {z s : State} (a : Nat) (lates : List (Nat × Nat)) (hk : Keeps z s) :
    Keeps z (sliceRetry a lates s) := by
  unfold sliceRetry
  extract_lets -merge x1 x2 x3 x4
  have hx3 : Keeps z x3 := by
    unfold x3
    refine keeps_upd ?_ (by rfl)
    assumption
  try clear_value x3
  have hx4 : Keeps z x4 := by
    unfold x4
    refine keeps_addF _ _ ?_
    assumption
  try clear_value x4
  split
  · assumption
  · extract_lets -merge x5 x6 x7 x8 x9 x10 x11
    have hx8 : Keeps z x8 := by
      unfold x8
      refine keeps_countClips _ _ _ _ _ ?_
      assumption
    try clear_value x8
    have hx9 : Keeps z x9.2 := by
      unfold x9
      refine keeps_settleSlice _ _ _ _ _ _ _ ?_
      assumption
    try clear_value x9
    have hx11 : Keeps z x11 := by
      unfold x11
      refine keeps_countSlots _ _ _ ?_
      refine keeps_compareRead _ _ _ _ _ _ ?_
      assumption
    try clear_value x11
    refine keeps_skipZeros _ _ ?_
    refine keeps_releaseReads _ _ ?_
    refine keeps_updArr _ _ ?_
    assumption

end Sys2Proof.Machine
end

