-- ==== Sys2Proof/Laws/KeepsCalib.lean ====
section
/-! SUPPORT. What the operations of Machine/Calib.lean keep. -/

namespace Sys2Proof.Machine
open Sys2Proof

theorem keeps_setHoist {z s : State} (h : Nat) (r : HoistRec) (hk : Keeps z s) :
    Keeps z (setHoist h r s) := by
  unfold setHoist
  refine keeps_upd ?_ (by rfl)
  assumption

theorem keeps_switchGate {z s : State} (h : Nat) (vana opening : Bool) (hk : Keeps z s) :
    Keeps z (switchGate h vana opening s) := by
  unfold switchGate
  extract_lets -merge x1
  refine keeps_upd ?_ (by rfl)
  assumption

theorem keeps_powerupCheck {z s : State} (hk : Keeps z s) :
    Keeps z (powerupCheck s) := by
  unfold powerupCheck
  refine keeps_ite ?_ ?_
  · refine keeps_setF _ _ ?_
    assumption
  · assumption

theorem keeps_dataCheck {z s : State} (hk : Keeps z s) :
    Keeps z (dataCheck s) := by
  unfold dataCheck
  extract_lets -merge x1
  refine keeps_setF _ _ ?_
  assumption

theorem keeps_beginCycles {z s : State} (p : Nat) (hk : Keeps z s) :
    Keeps z (beginCycles p s) := by
  unfold beginCycles
  refine keeps_foldl _ _ ?_ (fun _ _ _ => ?_)
  · assumption
  · refine keeps_updArr _ _ ?_
    assumption

theorem keeps_convOff {z s : State} (h : Nat) (hk : Keeps z s) :
    Keeps z (convOff h s) := by
  unfold convOff
  extract_lets -merge x1 x2
  have hx1 : Keeps z x1 := by
    unfold x1
    refine keeps_setF _ _ ?_
    assumption
  try clear_value x1
  have hx2 : Keeps z x2 := by
    unfold x2
    refine keeps_switchGate _ _ _ ?_
    assumption
  try clear_value x2
  refine keeps_arbitrate ?_
  refine keeps_upd ?_ (by rfl)
  refine keeps_foldl _ _ ?_ (fun _ _ _ => ?_)
  · assumption
  · refine keeps_updPnt _ _ ?_
    assumption

theorem keeps_convEnable {z s : State} (h : Nat) (en : Bool) (hk : Keeps z s) :
    Keeps z (convEnable h en s) := by
  unfold convEnable
  extract_lets -merge x1
  have hx1 : Keeps z x1 := by
    unfold x1
    refine keeps_switchGate _ _ _ ?_
    refine keeps_setF _ _ ?_
    assumption
  try clear_value x1
  refine keeps_ite ?_ ?_
  · refine keeps_ite ?_ ?_
    · refine keeps_countIgnored _ ?_
      assumption
    · refine keeps_ite ?_ ?_
      · assumption
      · refine keeps_powerupCheck ?_
        refine keeps_foldl _ _ ?_ (fun _ _ _ => ?_)
        · assumption
        · refine keeps_beginCycles _ ?_
          refine keeps_updPnt _ _ ?_
          assumption
  · refine keeps_ite ?_ ?_
    · refine keeps_countIgnored _ ?_
      assumption
    · refine keeps_ite ?_ ?_
      · refine keeps_convOff _ ?_
        assumption
      · assumption

theorem keeps_gateRampDone {z s : State} (h : Nat) (vana : Bool) (hk : Keeps z s) :
    Keeps z (gateRampDone h vana s) := by
  unfold gateRampDone
  extract_lets -merge x1
  split
  · assumption
  · extract_lets -merge x2 x3 x4 x5
    have hx2 : Keeps z x2 := by
      unfold x2
      refine keeps_upd ?_ (by rfl)
      assumption
    try clear_value x2
    have hx5 : Keeps z x5 := by
      unfold x5
      refine keeps_upd ?_ (by rfl)
      assumption
    try clear_value x5
    refine keeps_ite ?_ ?_
    · refine keeps_powerupCheck ?_
      refine keeps_upd ?_ (by rfl)
      assumption
    · refine keeps_dataCheck ?_
      refine keeps_setHoist _ _ ?_
      refine keeps_setF _ _ ?_
      assumption

theorem keeps_waiveHoist {z s : State} (h : Nat) (hk : Keeps z s) :
    Keeps z (waiveHoist h s) := by
  unfold waiveHoist
  refine keeps_foldl _ _ ?_ (fun _ _ _ => ?_)
  · assumption
  · refine keeps_updArr _ _ ?_
    assumption

theorem keeps_referenceReading {z s : State} (h uv vana : Nat) (hk : Keeps z s) :
    Keeps z (referenceReading h uv vana s) := by
  unfold referenceReading
  extract_lets -merge x1 x2 x3 x4 x5 x6
  have hx6 : Keeps z x6 := by
    unfold x6
    refine keeps_setF _ _ ?_
    refine keeps_setHoist _ _ ?_
    assumption
  try clear_value x6
  refine keeps_ite ?_ ?_
  · assumption
  · refine keeps_ite ?_ ?_
    · refine keeps_ite ?_ ?_
      · refine keeps_report _ _ _ ?_
        refine keeps_setF _ _ ?_
        refine keeps_setF _ _ ?_
        refine keeps_setHoist _ _ ?_
        assumption
      · refine keeps_setHoist _ _ ?_
        assumption
    · refine keeps_ite ?_ ?_
      · refine keeps_ite ?_ ?_
        · refine keeps_waiveHoist _ ?_
          assumption
        · assumption
      · refine keeps_setHoist _ _ ?_
        assumption

theorem keeps_flagData {z s : State} (a c : Nat) (hk : Keeps z s) :
    Keeps z (flagData a c s) := by
  unfold flagData
  extract_lets -merge x1
  have hx1 : Keeps z x1 := by
    unfold x1
    refine keeps_updArr _ _ ?_
    assumption
  try clear_value x1
  refine keeps_ite ?_ ?_
  · assumption
  · refine keeps_report _ _ _ ?_
    refine keeps_addF _ _ ?_
    assumption

theorem keeps_dataFlagStat {z s : State} (a : Nat) (hk : Keeps z s) :
    Keeps z (dataFlagStat a s) := by
  unfold dataFlagStat
  extract_lets -merge x1
  refine keeps_setF _ _ ?_
  refine keeps_setF _ _ ?_
  assumption

theorem keeps_flagConv {z s : State} (a c : Nat) (hk : Keeps z s) :
    Keeps z (flagConv a c s) := by
  unfold flagConv
  refine keeps_ite ?_ ?_
  · refine keeps_flagData _ _ ?_
    assumption
  · refine keeps_ite ?_ ?_
    · refine keeps_flagChecksum _ _ ?_
      assumption
    · refine keeps_flagCheck _ ?_
      assumption

theorem keeps_calFail {z s : State} (a q i kind : Nat) (hk : Keeps z s) :
    Keeps z (calFail a q i kind s) := by
  unfold calFail
  extract_lets -merge x1 x2 x3 x4 x5 x6
  have hx3 : Keeps z x3 := by
    unfold x3
    refine keeps_setF _ _ ?_
    refine keeps_setF _ _ ?_
    refine keeps_setF _ _ ?_
    refine keeps_setF _ _ ?_
    assumption
  try clear_value x3
  have hx4 : Keeps z x4 := by
    unfold x4
    refine keeps_updPnt _ _ ?_
    refine keeps_lifeAdd _ _ _ ?_
    assumption
  try clear_value x4
  have hx6 : Keeps z x6 := by
    unfold x6
    refine keeps_updArr _ _ ?_
    assumption
  try clear_value x6
  refine keeps_ite ?_ ?_
  · split
    · refine keeps_flagConv _ _ ?_
      assumption
    · assumption
  · assumption

theorem keeps_calValue {z s : State} (a : Nat) (m : Nat × Nat × Int) (hk : Keeps z s) :
    Keeps z (calValue a s m) := by
  unfold calValue
  extract_lets -merge x1 x2 x3 x4 x5 x6
  refine keeps_ite ?_ ?_
  · refine keeps_calFail _ _ _ _ ?_
    assumption
  · refine keeps_ite ?_ ?_
    · refine keeps_calFail _ _ _ _ ?_
      assumption
    · refine keeps_updArr _ _ ?_
      assumption

theorem keeps_clearFlags {z s : State} (a : Nat) (meas : List (Nat × Nat × Int)) (hk : Keeps z s) :
    Keeps z (clearFlags a meas s) := by
  unfold clearFlags
  extract_lets -merge x1 x2 x3
  have hx2 : Keeps z x2 := by
    unfold x2
    refine keeps_updArr _ _ ?_
    assumption
  try clear_value x2
  have hx3 : Keeps z x3 := by
    unfold x3
    refine keeps_dataFlagStat _ ?_
    assumption
  try clear_value x3
  refine keeps_ite ?_ ?_
  · refine keeps_setF _ _ ?_
    assumption
  · assumption

theorem keeps_cyclePassed {z s : State} (a : Nat) (h : Keeps z s) : Keeps z (cyclePassed a s) := by
  unfold cyclePassed
  extract_lets -merge +onlyGivenNames bit s1
  have hb : ∀ f t, Keeps z t → Keeps z (bit f t) := fun f t ht => keeps_ite (keeps_setF _ _ ht) ht
  exact keeps_updArr _ _ (hb _ _ (hb _ _ h))

theorem keeps_roundEnd {z s : State} (p : Nat) (hk : Keeps z s) :
    Keeps z (roundEnd p s) := by
  unfold roundEnd
  extract_lets -merge x1 x2 x3 x4 x5
  have hx2 : Keeps z x2 := by
    unfold x2
    refine keeps_ite ?_ ?_
    · refine keeps_addF _ _ ?_
      assumption
    · refine keeps_ite ?_ ?_
      · assumption
      · refine keeps_setF _ _ ?_
        refine keeps_addF _ _ ?_
        assumption
  try clear_value x2
  have hx3 : Keeps z x3 := by
    unfold x3
    refine keeps_updPnt _ _ ?_
    assumption
  try clear_value x3
  refine keeps_ite ?_ ?_
  · refine keeps_arbitrate ?_
    refine keeps_upd ?_ (by rfl)
    assumption
  · assumption

theorem keeps_cycleValues {z s : State} (a : Nat) (meas : List (Nat × Nat × Int)) (hk : Keeps z s) :
    Keeps z (cycleValues a meas s) := by
  unfold cycleValues
  extract_lets -merge x4 x5 x6 x7 x8
  have hx4 : Keeps z x4 := by
    unfold x4
    refine keeps_foldl _ _ ?_ (fun _ _ _ => ?_)
    · assumption
    · refine keeps_calValue _ _ ?_
      assumption
  try clear_value x4
  have hx5 : Keeps z x5 := by
    unfold x5
    refine keeps_clearFlags _ _ ?_
    assumption
  try clear_value x5
  have hx8 : Keeps z x8 := by
    unfold x8
    refine keeps_ite ?_ ?_
    · refine keeps_updArr _ _ ?_
      assumption
    · assumption
  try clear_value x8
  refine keeps_ite ?_ ?_
  · assumption
  · refine keeps_cyclePassed _ ?_
    assumption

theorem keeps_reverifyCycle {z s : State} (a : Nat) (meas : List (Nat × Nat × Int)) (hk : Keeps z s) :
    Keeps z (reverifyCycle a meas s) := by
  unfold reverifyCycle
  exact keeps_updPnt _ _ (keeps_cycleValues _ _ hk)

theorem keeps_calibrationCycleEnd {z s : State} (a : Nat) (meas : List (Nat × Nat × Int)) (lates : Nat) (hk : Keeps z s) :
    Keeps z (calibrationCycleEnd a meas lates s) := by
  unfold calibrationCycleEnd
  extract_lets -merge x1 x2 x3 x4 x5 x6
  have hx4 : Keeps z x4 := by
    unfold x4
    refine keeps_addF _ _ ?_
    assumption
  try clear_value x4
  have hx5 : Keeps z x5 := by
    unfold x5
    refine keeps_addF _ _ ?_
    assumption
  try clear_value x5
  have hx6 : Keeps z x6 := by
    unfold x6
    refine keeps_ite ?_ ?_
    · exact keeps_cycleValues _ _ hx5
    · refine keeps_updPnt _ _ ?_
      refine keeps_addF _ _ ?_
      assumption
  try clear_value x6
  refine keeps_ite (keeps_ite ?_ ?_) (keeps_ite ?_ (keeps_ite ?_ ?_))
  · exact keeps_reverifyCycle _ _ hx4
  · exact keeps_addF _ _ hx4
  · assumption
  · exact keeps_roundEnd _ hk
  · refine keeps_roundEnd _ ?_
    refine keeps_updArr _ _ ?_
    assumption

theorem keeps_delayLineCount {z s : State} (a c count : Nat) (hk : Keeps z s) :
    Keeps z (delayLineCount a c count s) := by
  unfold delayLineCount
  extract_lets -merge x1 x2 x3 x4
  refine keeps_ite ?_ ?_
  · refine keeps_calFail _ _ _ _ ?_
    assumption
  · refine keeps_ite ?_ ?_
    · refine keeps_calFail _ _ _ _ ?_
      assumption
    · refine keeps_ite ?_ ?_
      · refine keeps_calFail _ _ _ _ ?_
        assumption
      · refine keeps_updArr _ _ ?_
        assumption

theorem keeps_calForce {z s : State} (p : Nat) (hk : Keeps z s) :
    Keeps z (calForce p s) := by
  unfold calForce
  extract_lets -merge x1
  have hx1 : Keeps z x1 := by
    unfold x1
    refine keeps_foldl _ _ ?_ (fun _ _ _ => ?_)
    · assumption
    · refine keeps_updArr _ _ ?_
      assumption
  try clear_value x1
  refine keeps_requestAct _ ?_
  assumption

theorem keeps_calibrationAgeLimit {z s : State} (a : Nat) (hk : Keeps z s) :
    Keeps z (calibrationAgeLimit a s) := by
  unfold calibrationAgeLimit
  extract_lets -merge x1
  refine keeps_ite ?_ ?_
  · refine keeps_report _ _ _ ?_
    refine keeps_setF _ _ ?_
    assumption
  · assumption

theorem keeps_bandDiscard {z s : State} (r : Nat) (hk : Keeps z s) :
    Keeps z (bandDiscard r s) := by
  unfold bandDiscard
  refine keeps_foldl _ _ ?_ (fun _ _ _ => ?_)
  · assumption
  · refine keeps_ite ?_ ?_
    · refine keeps_waiveHoist _ ?_
      refine keeps_foldl _ _ ?_ (fun _ _ _ => ?_)
      · assumption
      · extract_lets -merge x1 x2
        refine keeps_ite ?_ ?_
        · refine keeps_updPnt _ _ ?_
          refine keeps_addF _ _ ?_
          assumption
        · assumption
    · assumption

end Sys2Proof.Machine
end

