-- ==== Sys2Proof/Laws/KeepsReset.lean ====
section
/-! SUPPORT. What the operations of Machine/Reset.lean keep. -/

namespace Sys2Proof.Machine
open Sys2Proof

theorem keeps_conventionalReset {z s : State} (h : Keeps z s) : Keeps z (conventionalReset s) :=
  ⟨h.queue, fun _ => rfl, fun _ => rfl, h.host⟩

theorem keeps_dieOff {z s : State} (hk : Keeps z s) :
    Keeps z (dieOff s) := by
  unfold dieOff
  extract_lets -merge x1 x2
  have hx1 : Keeps z x1 := by
    unfold x1
    refine keeps_conventionalReset ?_
    assumption
  try clear_value x1
  refine keeps_upd ?_ (by rfl)
  assumption

end Sys2Proof.Machine
end

