-- ==== Sys2Proof/Laws/KeepsSync.lean ====
section
/-! SUPPORT. What the operations of Machine/Sync.lean keep. -/

namespace Sys2Proof.Machine
open Sys2Proof

theorem keeps_addressFault {z s : State} (port addr : Nat) (write : Bool) (hk : Keeps z s) :
    Keeps z (addressFault port addr write s) := by
  unfold addressFault
  extract_lets -merge x1 x2
  have hx1 : Keeps z x1 := by
    unfold x1
    refine keeps_lifeAdd _ _ _ ?_
    assumption
  try clear_value x1
  have hx2 : Keeps z x2 := by
    unfold x2
    refine keeps_setF _ _ ?_
    refine keeps_setF _ _ ?_
    assumption
  try clear_value x2
  refine keeps_ite ?_ ?_
  · refine keeps_setF _ _ ?_
    assumption
  · refine keeps_report _ _ _ ?_
    refine keeps_setF _ _ ?_
    refine keeps_setF _ _ ?_
    assumption

theorem keeps_killBlock {z s : State} (b : Block) (hk : Keeps z s) :
    Keeps z (killBlock b s) := by
  unfold killBlock
  extract_lets -merge x1 x2 x3 x4 x5
  have hx2 : Keeps z x2 := by
    unfold x2
    refine keeps_foldl _ _ ?_ (fun _ _ _ => ?_)
    · assumption
    · refine keeps_failHere _ _ ?_
      assumption
  try clear_value x2
  have hx3 : Keeps z x3 := by
    unfold x3
    refine keeps_sendOn _ _ ?_
    assumption
  try clear_value x3
  have hx5 : Keeps z x5 := by
    unfold x5
    refine keeps_foldl _ _ ?_ (fun _ _ _ => ?_)
    · assumption
    · refine keeps_ite ?_ ?_
      · refine keeps_failStep _ _ _ ?_
        assumption
      · refine keeps_failHere _ _ ?_
        assumption
  try clear_value x5
  refine keeps_ite ?_ ?_
  · refine keeps_upd ?_ (by rfl)
    assumption
  · refine keeps_freeBlock _ ?_
    refine keeps_endFrom _ _ ?_
    assumption

theorem keeps_zeroWatch {z s : State} (line : Nat) (hk : Keeps z s) :
    Keeps z (zeroWatch line s) := by
  unfold zeroWatch
  refine keeps_foldl _ _ ?_ (fun _ _ _ => ?_)
  · assumption
  · extract_lets -merge x1
    refine keeps_ite ?_ ?_
    · refine keeps_sramPutWord _ _ ?_
      assumption
    · assumption

theorem keeps_copyFails {z s : State} (b : Block) (hk : Keeps z s) :
    Keeps z (copyFails b s) := by
  unfold copyFails
  refine keeps_addF _ _ ?_
  refine keeps_mapBlocks _ ?_
  refine keeps_upd ?_ (by rfl)
  refine keeps_ite ?_ ?_
  · refine keeps_clearLines _ _ ?_
    assumption
  · assumption

theorem keeps_hotPoison {z s : State} (b : Block) (hk : Keeps z s) :
    Keeps z (hotPoison b s) := by
  unfold hotPoison
  refine keeps_ite ?_ ?_
  · refine keeps_ite ?_ ?_
    · refine keeps_ite ?_ ?_
      · refine keeps_killBlock _ ?_
        assumption
      · refine keeps_killBlock _ ?_
        refine keeps_copyFails _ ?_
        assumption
    · refine keeps_copyFails _ ?_
      assumption
  · refine keeps_killBlock _ ?_
    assumption

theorem keeps_poisonResponse {z s : State} (addr : Nat) (holds : LineHolds) (issuer : Option Nat) (hk : Keeps z s) :
    Keeps z (poisonResponse addr holds issuer s) := by
  unfold poisonResponse
  extract_lets -merge x1 x2 x3 x4
  split
  · split
    · refine keeps_hotPoison _ ?_
      assumption
    · refine keeps_failIssuer _ _ ?_
      assumption
  · split
    · refine keeps_failHere _ _ ?_
      assumption
    · refine keeps_failIssuer _ _ ?_
      assumption
  · refine keeps_failIssuer _ _ ?_
    refine keeps_upd ?_ (by rfl)
    assumption
  · split
    · refine keeps_failHere _ _ ?_
      assumption
    · split
      · refine keeps_killBlock _ ?_
        assumption
      · assumption
    · refine keeps_ite ?_ ?_
      · assumption
      · refine keeps_endFrom _ _ ?_
        assumption
    · refine keeps_failIssuer _ _ ?_
      assumption
  · refine keeps_zeroWatch _ ?_
    refine keeps_foldl _ _ ?_ (fun _ _ _ => ?_)
    · assumption
    · refine keeps_failHere _ _ ?_
      assumption
  · split
    · refine keeps_report _ _ _ ?_
      refine keeps_upd ?_ (by rfl)
      assumption
    · refine keeps_emit _ _ _ _ _ ?_
      refine keeps_report _ _ _ ?_
      refine keeps_upd ?_ (by rfl)
      assumption
    · assumption

theorem keeps_poisonLine {z s : State} (addr : Nat) (holds : LineHolds) (issuer : Option Nat) (hk : Keeps z s) :
    Keeps z (poisonLine addr holds issuer s) := by
  unfold poisonLine
  extract_lets -merge x1 x2
  have hx2 : Keeps z x2 := by
    unfold x2
    refine keeps_upd ?_ (by rfl)
    assumption
  try clear_value x2
  refine keeps_poisonResponse _ _ _ ?_
  refine keeps_report _ _ _ ?_
  refine keeps_domUncorrected _ _ ?_
  assumption

theorem keeps_correctedWord {z s : State} (slice n : Nat) (hk : Keeps z s) :
    Keeps z (correctedWord slice n s) := by
  unfold correctedWord
  extract_lets -merge x1 x2 x3 x4 x5 x6 x7
  have hx7 : Keeps z x7 := by
    unfold x7
    refine keeps_domCorrected _ _ ?_
    refine keeps_upd ?_ (by rfl)
    assumption
  try clear_value x7
  refine keeps_ite ?_ ?_
  · refine keeps_report _ _ _ ?_
    assumption
  · assumption

theorem keeps_moved {z s : State} (before : State) (hk : Keeps z s) :
    Keeps z (moved before s) := by
  unfold moved
  extract_lets -merge x1
  refine keeps_ite ?_ ?_
  · refine keeps_upd ?_ (by rfl)
    assumption
  · assumption

theorem keeps_storeSram {z s : State} (a : Nat) (l : List Byte) (hk : Keeps z s) :
    Keeps z (storeSram a l s) := by
  unfold storeSram
  extract_lets -merge x1 x2 x3
  have hx1 : Keeps z x1 := by
    unfold x1
    refine keeps_sramPut _ _ ?_
    assumption
  try clear_value x1
  have hx3 : Keeps z x3 := by
    unfold x3
    refine keeps_ite ?_ ?_
    · refine keeps_upd ?_ (by rfl)
      assumption
    · assumption
  try clear_value x3
  refine keeps_moved _ ?_
  assumption

theorem keeps_sramAccessIn {z s : State} (port addr : Nat) (op : SramOp) (ecc : Ecc) (xfer : Xfer) (holds : LineHolds) (step : Option Nat) (hk : Keeps z s) :
    Keeps z (sramAccessIn port addr op ecc xfer holds step s) := by
  unfold sramAccessIn
  extract_lets -merge x1 x2
  have hx1 : Keeps z x1 := by
    unfold x1
    split
    · assumption
    · refine keeps_domCorrected _ _ ?_
      assumption
    · refine keeps_domCorrected _ _ ?_
      refine keeps_domUncorrected _ _ ?_
      assumption
    · refine keeps_report _ _ _ ?_
      refine keeps_domUncorrected _ _ ?_
      assumption
  try clear_value x1
  have hx2 : Keeps z x2 := by
    unfold x2
    split
    · assumption
    · refine keeps_correctedWord _ _ ?_
      assumption
    · refine keeps_poisonLine _ _ _ ?_
      assumption
  try clear_value x2
  split
  · refine keeps_ite ?_ ?_
    · refine keeps_failIssuer _ _ ?_
      refine keeps_upd ?_ (by rfl)
      assumption
    · refine keeps_upd ?_ (by rfl)
      assumption
  · split
    · refine keeps_poisonLine _ _ _ ?_
      assumption
    · refine keeps_storeSram _ _ ?_
      assumption

theorem keeps_sramAccess {z s : State} (port addr : Nat) (op : SramOp) (ecc : Ecc) (xfer : Xfer) (holds : LineHolds) (ten : Option TenantId) (step : Option Nat) (hk : Keeps z s) :
    Keeps z (sramAccess port addr op ecc xfer holds ten step s) := by
  unfold sramAccess
  refine keeps_ite ?_ ?_
  · split
    · refine keeps_addressFault _ _ _ ?_
      refine keeps_upd ?_ (by rfl)
      assumption
    · refine keeps_addressFault _ _ _ ?_
      assumption
  · refine keeps_sramAccessIn _ _ _ _ _ _ _ ?_
    refine keeps_meterAdd _ _ _ ?_
    assumption

theorem keeps_bar2WriteNow {z s : State} (off : Nat) (l : List Byte) (hk : Keeps z s) :
    Keeps z (bar2WriteNow off l s) := by
  unfold bar2WriteNow
  refine keeps_ite ?_ ?_
  · refine keeps_storeSram _ _ ?_
    refine keeps_meterAdd _ _ _ ?_
    assumption
  · refine keeps_addF _ _ ?_
    assumption

theorem keeps_bar2Write {z s : State} (off : Nat) (l : List Byte) (hk : Keeps z s) :
    Keeps z (bar2Write off l s) := by
  unfold bar2Write
  extract_lets -merge x1
  refine keeps_ite ?_ ?_
  · refine keeps_upd ?_ (by rfl)
    assumption
  · refine keeps_bar2WriteNow _ _ ?_
    assumption

theorem keeps_bar2Read {z s : State} (off n : Nat) (hk : Keeps z s) :
    Keeps z (bar2Read off n s) := by
  unfold bar2Read
  extract_lets -merge x1
  have hx1 : Keeps z x1 := by
    unfold x1
    refine keeps_meterAdd _ _ _ ?_
    assumption
  try clear_value x1
  refine keeps_ite ?_ ?_
  · refine keeps_upd ?_ (by rfl)
    assumption
  · refine keeps_addF _ _ ?_
    refine keeps_upd ?_ (by rfl)
    assumption

theorem keeps_flagFault {z s : State} (port addr : Nat) (step : Option Nat) (hk : Keeps z s) :
    Keeps z (flagFault port addr step s) := by
  unfold flagFault
  refine keeps_failIssuer _ _ ?_
  refine keeps_report _ _ _ ?_
  refine keeps_addF _ _ ?_
  assumption

theorem keeps_flagPut {z s : State} (addr : Nat) (v : Word64) (hk : Keeps z s) :
    Keeps z (flagPut addr v s) := by
  unfold flagPut
  refine keeps_moved _ ?_
  refine keeps_sramPutWord _ _ ?_
  assumption

theorem keeps_flagRead {z s : State} (port addr : Nat) (step : Option Nat) (hk : Keeps z s) :
    Keeps z (flagRead port addr step s) := by
  unfold flagRead
  refine keeps_ite ?_ ?_
  · refine keeps_upd ?_ (by rfl)
    assumption
  · refine keeps_flagFault _ _ _ ?_
    assumption

theorem keeps_flagSet {z s : State} (port addr : Nat) (v : Word64) (step : Option Nat) (hk : Keeps z s) :
    Keeps z (flagSet port addr v step s) := by
  unfold flagSet
  refine keeps_ite ?_ ?_
  · refine keeps_flagPut _ _ ?_
    assumption
  · refine keeps_flagFault _ _ _ ?_
    assumption

theorem keeps_flagAdd {z s : State} (port addr : Nat) (v : Word64) (step : Option Nat) (hk : Keeps z s) :
    Keeps z (flagAdd port addr v step s) := by
  unfold flagAdd
  refine keeps_ite ?_ ?_
  · refine keeps_flagPut _ _ ?_
    assumption
  · refine keeps_flagFault _ _ _ ?_
    assumption

theorem keeps_creditFault {z s : State} (port addr : Nat) (isOver : Bool) (step : Option Nat) (hk : Keeps z s) :
    Keeps z (creditFault port addr isOver step s) := by
  unfold creditFault
  extract_lets -merge x1 x2 x3
  have hx1 : Keeps z x1 := by
    unfold x1
    refine keeps_ite ?_ ?_
    · refine keeps_addF _ _ ?_
      assumption
    · refine keeps_addF _ _ ?_
      assumption
  try clear_value x1
  have hx2 : Keeps z x2 := by
    unfold x2
    refine keeps_ite ?_ ?_
    · assumption
    · refine keeps_setF _ _ ?_
      refine keeps_setF _ _ ?_
      refine keeps_setF _ _ ?_
      refine keeps_setF _ _ ?_
      assumption
  try clear_value x2
  refine keeps_failIssuer _ _ ?_
  refine keeps_emitPart _ _ ?_
  refine keeps_report _ _ _ ?_
  assumption

theorem keeps_cpost {z s : State} (port addr n : Nat) (step : Option Nat) (hk : Keeps z s) :
    Keeps z (cpost port addr n step s) := by
  unfold cpost
  extract_lets -merge x1
  refine keeps_ite ?_ ?_
  · refine keeps_ite ?_ ?_
    · refine keeps_flagPut _ _ ?_
      assumption
    · refine keeps_creditFault _ _ _ _ ?_
      assumption
  · refine keeps_flagFault _ _ _ ?_
    assumption

theorem keeps_ctake {z s : State} (port addr n : Nat) (step : Option Nat) (hk : Keeps z s) :
    Keeps z (ctake port addr n step s) := by
  unfold ctake
  extract_lets -merge x1
  refine keeps_ite ?_ ?_
  · refine keeps_ite ?_ ?_
    · refine keeps_flagPut _ _ ?_
      assumption
    · refine keeps_creditFault _ _ _ _ ?_
      assumption
  · refine keeps_flagFault _ _ _ ?_
    assumption

theorem keeps_addWaiter {z s : State} (x : WaitSpec) (hk : Keeps z s) :
    Keeps z (addWaiter x s) := by
  unfold addWaiter
  extract_lets -merge x1 x2 x3 x4
  have hx3 : Keeps z x3 := by
    unfold x3
    refine keeps_ite ?_ ?_
    · refine keeps_addF _ _ ?_
      assumption
    · assumption
  try clear_value x3
  refine keeps_upd ?_ (by rfl)
  assumption

theorem keeps_waitOp {z s : State} (x : WaitSpec) (hk : Keeps z s) :
    Keeps z (waitOp x s) := by
  unfold waitOp
  refine keeps_ite ?_ ?_
  · refine keeps_ite ?_ ?_
    · assumption
    · refine keeps_addWaiter _ ?_
      assumption
  · refine keeps_flagFault _ _ _ ?_
    assumption

theorem keeps_reevaluate {z s : State} (p : Waiter → Bool) (hk : Keeps z s) :
    Keeps z (reevaluate p s) := by
  unfold reevaluate
  extract_lets -merge x1
  refine keeps_upd ?_ (by rfl)
  assumption

theorem keeps_waitWake {z s : State} (line : Nat) (hk : Keeps z s) :
    Keeps z (waitWake line s) := by
  unfold waitWake
  refine keeps_reevaluate _ ?_
  assumption

theorem keeps_waitPoll {z s : State} (addr : Nat) (hk : Keeps z s) :
    Keeps z (waitPoll addr s) := by
  unfold waitPoll
  refine keeps_reevaluate _ ?_
  assumption

theorem keeps_setSq {z s : State} (q : Nat) (l : List (Word64 × Bool)) (hk : Keeps z s) :
    Keeps z (setSq q l s) := by
  unfold setSq
  extract_lets -merge x1
  refine keeps_upd ?_ (by rfl)
  assumption

theorem keeps_sqLevelHit {z s : State} (q : Nat) (hk : Keeps z s) :
    Keeps z (sqLevelHit q s) := by
  unfold sqLevelHit
  refine keeps_signal _ ?_
  refine keeps_setF _ _ ?_
  assumption

theorem keeps_sqWrite {z s : State} (q : Nat) (l : List Nat) (hk : Keeps z s) :
    Keeps z (sqWrite q l s) := by
  unfold sqWrite
  refine keeps_ite ?_ ?_
  · assumption
  · refine keeps_ite ?_ ?_
    · refine keeps_setSq _ _ ?_
      assumption
    · refine keeps_addF _ _ ?_
      refine keeps_setF _ _ ?_
      assumption

theorem keeps_sqSettle {z s : State} (q : Nat) (hk : Keeps z s) :
    Keeps z (sqSettle q s) := by
  unfold sqSettle
  extract_lets -merge x1 x2 x3
  have hx3 : Keeps z x3 := by
    unfold x3
    refine keeps_setSq _ _ ?_
    assumption
  try clear_value x3
  refine keeps_ite ?_ ?_
  · refine keeps_sqLevelHit _ ?_
    assumption
  · assumption

theorem keeps_sqDataRead {z s : State} (q : Nat) (hk : Keeps z s) :
    Keeps z (sqDataRead q s) := by
  unfold sqDataRead
  extract_lets -merge x1
  have hx1 : Keeps z x1 := by
    unfold x1
    refine keeps_setF _ _ ?_
    assumption
  try clear_value x1
  split
  · extract_lets -merge x2 x3
    have hx2 : Keeps z x2 := by
      unfold x2
      refine keeps_setSq _ _ ?_
      refine keeps_setF _ _ ?_
      assumption
    try clear_value x2
    have hx3 : Keeps z x3 := by
      unfold x3
      refine keeps_setF _ _ ?_
      assumption
    try clear_value x3
    refine keeps_upd ?_ (by rfl)
    assumption
  · refine keeps_upd ?_ (by rfl)
    assumption

theorem keeps_sqLevelWrite {z s : State} (q v : Nat) (hk : Keeps z s) :
    Keeps z (sqLevelWrite q v s) := by
  unfold sqLevelWrite
  extract_lets -merge x1 x2 x3
  have hx1 : Keeps z x1 := by
    unfold x1
    refine keeps_ite ?_ ?_
    · refine keeps_countClamp _ ?_
      assumption
    · assumption
  try clear_value x1
  have hx3 : Keeps z x3 := by
    unfold x3
    refine keeps_setF _ _ ?_
    assumption
  try clear_value x3
  refine keeps_ite ?_ ?_
  · refine keeps_sqLevelHit _ ?_
    assumption
  · assumption

theorem keeps_sqDrop {z s : State} (q : Nat) (hk : Keeps z s) :
    Keeps z (sqDrop q s) := by
  unfold sqDrop
  extract_lets -merge x1
  refine keeps_ite ?_ ?_
  · refine keeps_setF _ _ ?_
    refine keeps_addF _ _ ?_
    refine keeps_setSq _ _ ?_
    assumption
  · assumption

theorem keeps_sqFlush {z s : State} (q : Nat) (hk : Keeps z s) :
    Keeps z (sqFlush q s) := by
  unfold sqFlush
  refine keeps_setSq _ _ ?_
  refine keeps_addF _ _ ?_
  assumption

theorem keeps_sqEnable {z s : State} (q : Nat) (en : Bool) (hk : Keeps z s) :
    Keeps z (sqEnable q en s) := by
  unfold sqEnable
  extract_lets -merge x1
  have hx1 : Keeps z x1 := by
    unfold x1
    refine keeps_setF _ _ ?_
    assumption
  try clear_value x1
  refine keeps_ite ?_ ?_
  · assumption
  · refine keeps_setSq _ _ ?_
    assumption

theorem keeps_deadlockFault {z s : State} (busy : Bool) (qs : List QueueWait) (hk : Keeps z s) :
    Keeps z (deadlockFault busy qs s) := by
  unfold deadlockFault
  extract_lets -merge x1 x2 x3 x4 x5 x6
  have hx4 : Keeps z x4 := by
    unfold x4
    refine keeps_upd ?_ (by rfl)
    assumption
  try clear_value x4
  have hx5 : Keeps z x5 := by
    unfold x5
    refine keeps_setF _ _ ?_
    refine keeps_setF _ _ ?_
    assumption
  try clear_value x5
  have hx6 : Keeps z x6 := by
    unfold x6
    refine keeps_setF _ _ ?_
    refine keeps_addF _ _ ?_
    assumption
  try clear_value x6
  refine keeps_ite ?_ ?_
  · refine keeps_failAll _ ?_
    refine keeps_emitPart _ _ ?_
    refine keeps_report _ _ _ ?_
    assumption
  · assumption

theorem keeps_freezeLift {z s : State} (hk : Keeps z s) :
    Keeps z (freezeLift s) := by
  unfold freezeLift
  extract_lets -merge x1
  refine keeps_ite ?_ ?_
  · refine keeps_setF _ _ ?_
    refine keeps_upd ?_ (by rfl)
    assumption
  · assumption

end Sys2Proof.Machine
end

