-- ==== Sys2Proof/Laws/KeepsClocks.lean ====
section
/-! SUPPORT. What the operations of Machine/Clocks.lean keep. -/

namespace Sys2Proof.Machine
open Sys2Proof

theorem keeps_setClock {z s : State} (b : Nat) (on : Bool) (hk : Keeps z s) :
    Keeps z (setClock b on s) := by
  unfold setClock
  refine keeps_ite ?_ ?_
  · refine keeps_setF _ _ ?_
    assumption
  · refine keeps_ite ?_ ?_
    · refine keeps_setF _ _ ?_
      assumption
    · refine keeps_ite ?_ ?_
      · refine keeps_setF _ _ ?_
        assumption
      · refine keeps_ite ?_ ?_
        · refine keeps_setF _ _ ?_
          assumption
        · refine keeps_setF _ _ ?_
          assumption

theorem keeps_leaveUp {z s : State} (n : Nat) (hk : Keeps z s) :
    Keeps z (leaveUp n s) := by
  unfold leaveUp
  extract_lets -merge x1 x2 x3 x4
  have hx4 : Keeps z x4 := by
    unfold x4
    refine keeps_upd ?_ (by rfl)
    assumption
  try clear_value x4
  refine keeps_lifeAdd _ _ _ ?_
  refine keeps_setF _ _ ?_
  refine keeps_setF _ _ ?_
  refine keeps_addF _ _ ?_
  assumption

theorem keeps_linkLost {z s : State} (hk : Keeps z s) :
    Keeps z (linkLost s) := by
  unfold linkLost
  extract_lets -merge x1 x2
  have hx1 : Keeps z x1 := by
    unfold x1
    refine keeps_setF _ _ ?_
    refine keeps_setF _ _ ?_
    refine keeps_addF _ _ ?_
    assumption
  try clear_value x1
  have hx2 : Keeps z x2 := by
    unfold x2
    refine keeps_setF _ _ ?_
    assumption
  try clear_value x2
  refine keeps_ite ?_ ?_
  · refine keeps_signal _ ?_
    refine keeps_emitPart _ _ ?_
    refine keeps_report _ _ _ ?_
    assumption
  · assumption

theorem keeps_clockWindow {z s : State} (b edges : Nat) (hk : Keeps z s) :
    Keeps z (clockWindow b edges s) := by
  unfold clockWindow
  refine keeps_ite ?_ ?_
  · refine keeps_setClock _ _ ?_
    assumption
  · assumption

theorem keeps_setCrossing {z s : State} (b : Nat) (c : Crossing) (hk : Keeps z s) :
    Keeps z (setCrossing b c s) := by
  unfold setCrossing
  extract_lets -merge x1
  refine keeps_upd ?_ (by rfl)
  assumption

theorem keeps_crossingReset {z s : State} (b : Nat) (far : Bool) (hk : Keeps z s) :
    Keeps z (crossingReset b far s) := by
  unfold crossingReset
  extract_lets -merge x1 x2
  refine keeps_setCrossing _ _ ?_
  refine keeps_addF _ _ ?_
  assumption

theorem keeps_crossingResync {z s : State} (b : Nat) (hk : Keeps z s) :
    Keeps z (crossingResync b s) := by
  unfold crossingResync
  refine keeps_ite ?_ ?_
  · refine keeps_setCrossing _ _ ?_
    assumption
  · assumption

end Sys2Proof.Machine
end

