-- ==== Sys2Proof/Laws/KeepsHostLink.lean ====
section
/-! SUPPORT. What the operations of Machine/HostLink.lean keep. -/

namespace Sys2Proof.Machine
open Sys2Proof

theorem keeps_writePads {z s : State} (k_ : Nat) (hk : Keeps z s) :
    Keeps z (writePads k_ s) := by
  induction k_ generalizing s with
  | zero =>
    rw [writePads]
    assumption
  | succ _ ih =>
    rw [writePads]
    refine ih ?_
    refine keeps_addF _ _ ?_
    refine keeps_hostPut _ _ ?_
    assumption

theorem keeps_writeRecord {z s : State} (l : List Byte) (hk : Keeps z s) :
    Keeps z (writeRecord l s) := by
  unfold writeRecord
  extract_lets -merge x1 x2
  have hx1 : Keeps z x1 := by
    unfold x1
    refine keeps_writePads _ ?_
    assumption
  try clear_value x1
  refine keeps_ringAdvance _ _ ?_
  refine keeps_hostPut _ _ ?_
  assumption

theorem keeps_writeHeld {z s : State} (k_ : List (Nat × List Byte)) (hk : Keeps z s) :
    Keeps z (writeHeld k_ s) := by
  induction k_ generalizing s with
  | nil =>
    rw [writeHeld]
    extract_lets -merge x1
    refine keeps_upd ?_ (by rfl)
    assumption
  | cons _ _ ih =>
    rw [writeHeld]
    extract_lets -merge x2
    refine keeps_ite ?_ ?_
    · refine ih ?_
      refine keeps_writeRecord _ ?_
      assumption
    · refine keeps_upd ?_ (by rfl)
      assumption

theorem keeps_recordOut {z s : State} (n : Nat) (l : List Byte) (hk : Keeps z s) :
    Keeps z (recordOut n l s) := by
  unfold recordOut
  refine keeps_writeHeld _ ?_
  assumption

theorem keeps_doorbellNow {z s : State} (n v : Nat) (hk : Keeps z s) :
    Keeps z (doorbellNow n v s) := by
  unfold doorbellNow
  extract_lets -merge x1 x2 x3
  have hx3 : Keeps z x3 := by
    unfold x3
    refine keeps_setF _ _ ?_
    assumption
  try clear_value x3
  refine keeps_ite ?_ ?_
  · refine keeps_ite ?_ ?_
    · assumption
    · refine keeps_ite ?_ ?_
      · refine keeps_setF _ _ ?_
        assumption
      · refine keeps_countClamp _ ?_
        assumption
  · refine keeps_ite ?_ ?_
    · assumption
    · refine keeps_ite ?_ ?_
      · refine keeps_ite ?_ ?_
        · refine keeps_drainQueue ?_
          assumption
        · refine keeps_writeHeld _ ?_
          assumption
      · refine keeps_countClamp _ ?_
        assumption

theorem keeps_ringDoorbell {z s : State} (n v : Nat) (hk : Keeps z s) :
    Keeps z (ringDoorbell n v s) := by
  unfold ringDoorbell
  extract_lets -merge x1
  refine keeps_ite ?_ ?_
  · assumption
  · refine keeps_ite ?_ ?_
    · refine keeps_upd ?_ (by rfl)
      assumption
    · refine keeps_doorbellNow _ _ ?_
      assumption

theorem keeps_ringEnable {z s : State} (n : Nat) (en : Bool) (hk : Keeps z s) :
    Keeps z (ringEnable n en s) := by
  unfold ringEnable
  extract_lets -merge x1
  have hx1 : Keeps z x1 := by
    unfold x1
    refine keeps_setF _ _ ?_
    assumption
  try clear_value x1
  refine keeps_ite ?_ ?_
  · refine keeps_drainQueue ?_
    assumption
  · refine keeps_ite ?_ ?_
    · refine keeps_writeHeld _ ?_
      assumption
    · assumption

theorem keeps_coalesce {z s : State} (n : Nat) (hk : Keeps z s) :
    Keeps z (coalesce n s) := by
  unfold coalesce
  extract_lets -merge x1 x2
  refine keeps_ite ?_ ?_
  · refine keeps_signal _ ?_
    refine keeps_upd ?_ (by rfl)
    assumption
  · assumption

theorem keeps_consume {z s : State} (n : Nat) (hk : Keeps z s) :
    Keeps z (consume n s) := by
  unfold consume
  extract_lets -merge x1 x2
  have hx1 : Keeps z x1 := by
    unfold x1
    refine keeps_addF _ _ ?_
    assumption
  try clear_value x1
  have hx2 : Keeps z x2 := by
    unfold x2
    refine keeps_hostPut _ _ ?_
    assumption
  try clear_value x2
  refine keeps_ite ?_ ?_
  · refine keeps_signal _ ?_
    assumption
  · assumption

theorem keeps_cmdDone {z s : State} (h : CmdHead) (status : Nat) (hk : Keeps z s) :
    Keeps z (cmdDone h status s) := by
  unfold cmdDone
  refine keeps_ite ?_ ?_
  · assumption
  · refine keeps_emit _ _ _ _ _ ?_
    assumption

theorem keeps_runCommand {z s : State} (op : Nat) (c : CmdHead) (f : State → Option Nat × State) (h : Keeps z s)
    (hf : ∀ t, Keeps z t → Keeps z (f t).2) : Keeps z (runCommand op c f s) := by
  unfold runCommand
  refine keeps_ite ?_ h
  extract_lets -merge +onlyGivenNames x
  have hx : Keeps z x := keeps_addF _ _ (keeps_consume _ h)
  have hy := hf x hx
  split
  · rename_i e
    rw [e] at hy
    exact keeps_cmdDone _ _ hy
  · rename_i e
    rw [e] at hy
    exact keeps_upd hy (by rfl)

theorem keeps_fenceCheck {z s : State} (hk : Keeps z s) :
    Keeps z (fenceCheck s) := by
  unfold fenceCheck
  extract_lets -merge x1
  split
  · refine keeps_cmdDone _ _ ?_
    refine keeps_upd ?_ (by rfl)
    assumption
  · assumption

theorem keeps_completeCmds {z s : State} (p : Nat × CmdHead → Bool) (status : Nat) (hk : Keeps z s) :
    Keeps z (completeCmds p status s) := by
  unfold completeCmds
  extract_lets -merge x1 x2
  refine keeps_fenceCheck ?_
  refine keeps_foldl _ _ ?_ (fun _ _ _ => ?_)
  · refine keeps_upd ?_ (by rfl)
    assumption
  · refine keeps_cmdDone _ _ ?_
    assumption

theorem keeps_setTenant {z s : State} (t : Nat) (x : Tenant) (hk : Keeps z s) :
    Keeps z (setTenant t x s) := by
  unfold setTenant
  extract_lets -merge x1
  refine keeps_upd ?_ (by rfl)
  assumption

theorem keeps_clampIf {z s : State} (b : Bool) (hk : Keeps z s) :
    Keeps z (clampIf b s) := by
  unfold clampIf
  refine keeps_ite ?_ ?_
  · refine keeps_countClamp _ ?_
    assumption
  · assumption

theorem keeps_tenantSet {z s : State} (h : CmdHead) (a : TenantArgs) (hk : Keeps z s) :
    Keeps z (tenantSet h a s) := by
  unfold tenantSet
  extract_lets -merge x1
  clear_value x1
  refine keeps_runCommand _ _ _ ?_ (fun _ _ => ?_)
  · assumption
  · extract_lets -merge x2 x3 x4 x5
    have hx2 : Keeps z x2 := by
      unfold x2
      refine keeps_clampIf _ ?_
      assumption
    try clear_value x2
    have hx3 : Keeps z x3 := by
      unfold x3
      refine keeps_clampIf _ ?_
      assumption
    try clear_value x3
    have hx4 : Keeps z x4 := by
      unfold x4
      refine keeps_clampIf _ ?_
      assumption
    try clear_value x4
    have hx5 : Keeps z x5 := by
      unfold x5
      refine keeps_clampIf _ ?_
      assumption
    try clear_value x5
    refine keeps2_ite ?_ ?_
    · refine keeps2_mk ?_
      assumption
    · refine keeps2_ite ?_ ?_
      · refine keeps2_mk ?_
        assumption
      · refine keeps2_ite ?_ ?_
        · refine keeps2_mk ?_
          assumption
        · refine keeps2_mk ?_
          refine keeps_setTenant _ _ ?_
          assumption

theorem keeps_classSet {z s : State} (h : CmdHead) (cls prio : BitVec 8) (target : BitVec 32) (hk : Keeps z s) :
    Keeps z (classSet h cls prio target s) := by
  unfold classSet
  refine keeps_runCommand _ _ _ ?_ (fun _ _ => ?_)
  · assumption
  · extract_lets -merge x1 x2
    have hx1 : Keeps z x1 := by
      unfold x1
      refine keeps_clampIf _ ?_
      assumption
    try clear_value x1
    refine keeps2_ite ?_ ?_
    · refine keeps2_mk ?_
      assumption
    · refine keeps2_ite ?_ ?_
      · refine keeps2_mk ?_
        assumption
      · refine keeps2_mk ?_
        refine keeps_upd ?_ (by rfl)
        assumption

theorem keeps_release {z s : State} (h : CmdHead) (hk : Keeps z s) :
    Keeps z (release h s) := by
  unfold release
  extract_lets -merge x1
  refine keeps_runCommand _ _ _ ?_ (fun _ _ => ?_)
  · assumption
  · extract_lets -merge x2 x3 x4
    have hx3 : Keeps z x3 := by
      unfold x3
      refine keeps_ite ?_ ?_
      · refine keeps_completeCmds _ _ ?_
        assumption
      · assumption
    try clear_value x3
    refine keeps2_ite ?_ ?_
    · refine keeps2_mk ?_
      assumption
    · refine keeps2_ite ?_ ?_
      · refine keeps2_mk ?_
        assumption
      · refine keeps2_ite ?_ ?_
        · refine keeps2_mk ?_
          assumption
        · refine keeps2_mk ?_
          refine keeps_setSeq _ _ ?_
          assumption

theorem keeps_pauseSeq {z s : State} (q cause ttl : Nat) (hk : Keeps z s) :
    Keeps z (pauseSeq q cause ttl s) := by
  unfold pauseSeq
  extract_lets -merge x1 x2 x3 x4
  have hx2 : Keeps z x2 := by
    unfold x2
    refine keeps_setSeq _ _ ?_
    assumption
  try clear_value x2
  have hx3 : Keeps z x3 := by
    unfold x3
    refine keeps_emit _ _ _ _ _ ?_
    assumption
  try clear_value x3
  have hx4 : Keeps z x4 := by
    unfold x4
    refine keeps_sendAll _ _ _ _ ?_
    assumption
  try clear_value x4
  refine keeps_mapBlocks _ ?_
  refine keeps_sealSeq _ ?_
  assumption

theorem keeps_pause {z s : State} (h : CmdHead) (ttl : BitVec 32) (hk : Keeps z s) :
    Keeps z (pause h ttl s) := by
  unfold pause
  extract_lets -merge x1
  refine keeps_runCommand _ _ _ ?_ (fun _ _ => ?_)
  · assumption
  · extract_lets -merge x2 x3 x4 x5
    have hx3 : Keeps z x3 := by
      unfold x3
      refine keeps_clampIf _ ?_
      assumption
    try clear_value x3
    refine keeps2_ite ?_ ?_
    · refine keeps2_mk ?_
      assumption
    · refine keeps2_ite ?_ ?_
      · refine keeps2_mk ?_
        assumption
      · refine keeps2_ite ?_ ?_
        · refine keeps2_mk ?_
          assumption
        · refine keeps2_ite ?_ ?_
          · refine keeps2_mk ?_
            assumption
          · refine keeps2_ite ?_ ?_
            · refine keeps2_mk ?_
              assumption
            · refine keeps2_ite ?_ ?_
              · refine keeps2_mk ?_
                refine keeps_pauseSeq _ _ _ ?_
                assumption
              · refine keeps2_mk ?_
                refine keeps_setSeq _ _ ?_
                assumption

theorem keeps_resume {z s : State} (h : CmdHead) (hk : Keeps z s) :
    Keeps z (resume h s) := by
  unfold resume
  extract_lets -merge x1
  refine keeps_runCommand _ _ _ ?_ (fun _ _ => ?_)
  · assumption
  · extract_lets -merge x2 x3 x4 x5
    have hx3 : Keeps z x3 := by
      unfold x3
      refine keeps_setSeq _ _ ?_
      assumption
    try clear_value x3
    have hx4 : Keeps z x4 := by
      unfold x4
      refine keeps_emit _ _ _ _ _ ?_
      assumption
    try clear_value x4
    have hx5 : Keeps z x5 := by
      unfold x5
      refine keeps_sendAll _ _ _ _ ?_
      assumption
    try clear_value x5
    refine keeps2_ite ?_ ?_
    · refine keeps2_mk ?_
      assumption
    · refine keeps2_ite ?_ ?_
      · refine keeps2_mk ?_
        assumption
      · refine keeps2_ite ?_ ?_
        · refine keeps2_mk ?_
          refine keeps_mapBlocks _ ?_
          assumption
        · refine keeps2_mk ?_
          refine keeps_emit _ _ _ _ _ ?_
          assumption

theorem keeps_stageCopy {z s : State} (h : CmdHead) (off len : BitVec 32) (readable : Bool) (hk : Keeps z s) :
    Keeps z (stageCopy h off len readable s) := by
  unfold stageCopy
  extract_lets -merge x1
  refine keeps_runCommand _ _ _ ?_ (fun _ _ => ?_)
  · assumption
  · extract_lets -merge x2
    refine keeps2_ite ?_ ?_
    · refine keeps2_mk ?_
      assumption
    · refine keeps2_ite ?_ ?_
      · refine keeps2_mk ?_
        assumption
      · refine keeps2_ite ?_ ?_
        · refine keeps2_mk ?_
          assumption
        · refine keeps2_mk ?_
          refine keeps_upd ?_ (by rfl)
          assumption

theorem keeps_clearBadStage {z s : State} (lo len : Nat) (hk : Keeps z s) :
    Keeps z (clearBadStage lo len s) := by
  unfold clearBadStage
  extract_lets -merge x1
  refine keeps_upd ?_ (by rfl)
  assumption

theorem keeps_stageCopyDone {z s : State} (tagOk : Bool) (ten : TenantId) (version : BitVec 16) (plain : List Byte) (hk : Keeps z s) :
    Keeps z (stageCopyDone tagOk ten version plain s) := by
  unfold stageCopyDone
  extract_lets -merge x1 x2
  have hx2 : Keeps z x2 := by
    unfold x2
    refine keeps_upd ?_ (by rfl)
    assumption
  try clear_value x2
  split
  · assumption
  · extract_lets -merge x3 x4 x5 x6 x7
    clear_value x5
    have hx7 : Keeps z x7 := by
      unfold x7
      refine keeps_ite ?_ ?_
      · refine keeps_sramPut _ _ ?_
        assumption
      · refine keeps_sramPut _ _ ?_
        assumption
    try clear_value x7
    refine keeps_completeCmds _ _ ?_
    refine keeps_clearBadStage _ _ ?_
    assumption

theorem keeps_fence {z s : State} (h : CmdHead) (hk : Keeps z s) :
    Keeps z (fence h s) := by
  unfold fence
  refine keeps_runCommand _ _ _ ?_ (fun _ _ => ?_)
  · assumption
  · refine keeps2_ite ?_ ?_
    · refine keeps2_mk ?_
      assumption
    · refine keeps2_mk ?_
      assumption

theorem keeps_undefinedCommand {z s : State} (op : Nat) (h : CmdHead) (hk : Keeps z s) :
    Keeps z (undefinedCommand op h s) := by
  unfold undefinedCommand
  refine keeps_ite ?_ ?_
  · assumption
  · refine keeps_runCommand _ _ _ ?_ (fun _ _ => ?_)
    · assumption
    · refine keeps2_mk ?_
      assumption

theorem keeps_linkBack {z s : State} (hk : Keeps z s) :
    Keeps z (linkBack s) := by
  unfold linkBack
  refine keeps_ite ?_ ?_
  · refine keeps_drainQueue ?_
    refine keeps_writeHeld _ ?_
    assumption
  · assumption

theorem keeps_linkReturn {z s : State} (width : Nat) (fast : Bool) (hk : Keeps z s) :
    Keeps z (linkReturn width fast s) := by
  unfold linkReturn
  extract_lets -merge x1 x2
  have hx1 : Keeps z x1 := by
    unfold x1
    refine keeps_setF _ _ ?_
    refine keeps_setF _ _ ?_
    assumption
  try clear_value x1
  have hx2 : Keeps z x2 := by
    unfold x2
    refine keeps_linkBack ?_
    refine keeps_setF _ _ ?_
    assumption
  try clear_value x2
  refine keeps_ite ?_ ?_
  · assumption
  · refine keeps_signal _ ?_
    refine keeps_emitPart _ _ ?_
    assumption

theorem keeps_ideFailure {z s : State} (hk : Keeps z s) :
    Keeps z (ideFailure s) := by
  unfold ideFailure
  refine keeps_linkLost ?_
  refine keeps_report _ _ _ ?_
  refine keeps_setF _ _ ?_
  assumption

theorem keeps_ideKeys {z s : State} (hk : Keeps z s) :
    Keeps z (ideKeys s) := by
  unfold ideKeys
  refine keeps_ite ?_ ?_
  · refine keeps_linkBack ?_
    refine keeps_setF _ _ ?_
    assumption
  · assumption

theorem keeps_setUio {z s : State} (u : UioUse) (n : Option Nat) (hk : Keeps z s) :
    Keeps z (setUio u n s) := by
  unfold setUio
  extract_lets -merge x1 x2
  refine keeps_upd ?_ (by rfl)
  assumption

theorem keeps_tierUnreachable {z s : State} (lslot : Nat) (hk : Keeps z s) :
    Keeps z (tierUnreachable lslot s) := by
  unfold tierUnreachable
  extract_lets -merge x1 x2
  split
  · refine keeps_ite ?_ ?_
    · assumption
    · refine keeps_emitPart _ _ ?_
      refine keeps_upd ?_ (by rfl)
      assumption
  · refine keeps_emitPart _ _ ?_
    refine keeps_upd ?_ (by rfl)
    assumption

theorem keeps_moveFail {z s : State} (lslot seq blk : Nat) (hk : Keeps z s) :
    Keeps z (moveFail lslot seq blk s) := by
  unfold moveFail
  refine keeps_ite ?_ ?_
  · refine keeps_addF _ _ ?_
    refine keeps_mapBlocks _ ?_
    assumption
  · assumption

theorem keeps_moveUnreachable {z s : State} (l q b : Nat) (hk : Keeps z s) :
    Keeps z (moveUnreachable l q b s) := by
  unfold moveUnreachable
  split
  · refine keeps_ite ?_ ?_
    · refine keeps_releaseAct _ ?_
      refine keeps_moveFail _ _ _ ?_
      assumption
    · assumption
  · assumption

theorem keeps_mirrorUnwritten {z s : State} (t n : Nat) (hk : Keeps z s) :
    Keeps z (mirrorUnwritten t n s) := by
  unfold mirrorUnwritten
  refine keeps_upd ?_ (by rfl)
  assumption

theorem keeps_uioFailed {z s : State} (u : UioUse) (hk : Keeps z s) :
    Keeps z (uioFailed u s) := by
  unfold uioFailed
  extract_lets -merge x1 x2
  have hx1 : Keeps z x1 := by
    unfold x1
    refine keeps_report _ _ _ ?_
    assumption
  try clear_value x1
  split
  · extract_lets -merge x3
    have hx3 : Keeps z x3 := by
      unfold x3
      refine keeps_tierUnreachable _ ?_
      refine keeps_upd ?_ (by rfl)
      assumption
    try clear_value x3
    refine keeps_foldl _ _ ?_ (fun _ _ _ => ?_)
    · assumption
    · refine keeps_failHere _ _ ?_
      assumption
  · refine keeps_moveUnreachable _ _ _ ?_
    refine keeps_tierUnreachable _ ?_
    assumption
  · refine keeps_mirrorUnwritten _ _ ?_
    refine keeps_tierUnreachable _ ?_
    assumption

theorem keeps_uioRetry {z s : State} (u : UioUse) (hk : Keeps z s) :
    Keeps z (uioRetry u s) := by
  unfold uioRetry
  split
  · refine keeps_setUio _ _ ?_
    assumption
  · refine keeps_uioFailed _ ?_
    refine keeps_setUio _ _ ?_
    assumption
  · assumption

theorem keeps_uioCompletion {z s : State} (u : UioUse) (ok : Bool) (hk : Keeps z s) :
    Keeps z (uioCompletion u ok s) := by
  unfold uioCompletion
  refine keeps_ite ?_ ?_
  · assumption
  · refine keeps_ite ?_ ?_
    · refine keeps_setUio _ _ ?_
      assumption
    · refine keeps_uioRetry _ ?_
      refine keeps_addF _ _ ?_
      assumption

theorem keeps_uioTimeout {z s : State} (u : UioUse) (hk : Keeps z s) :
    Keeps z (uioTimeout u s) := by
  unfold uioTimeout
  refine keeps_ite ?_ ?_
  · assumption
  · refine keeps_uioRetry _ ?_
    refine keeps_addF _ _ ?_
    assumption

end Sys2Proof.Machine
end

