-- ==== Sys2Proof/Laws/KeepsSched.lean ====
section
/-! SUPPORT. What the operations of Machine/Sched.lean keep. -/

namespace Sys2Proof.Machine
open Sys2Proof

theorem keeps_clampPrompt {z s : State} (changed : Bool) (off : Nat) (h : PromptHeader) (hk : Keeps z s) :
    Keeps z (clampPrompt changed off h s) := by
  unfold clampPrompt
  refine keeps_ite ?_ ?_
  · refine keeps_emit _ _ _ _ _ ?_
    refine keeps_countClamp _ ?_
    assumption
  · assumption

theorem keeps_promptEntry {z s : State} (ring : Nat) (h : PromptHeader) (tokens : List Nat) (hk : Keeps z s) :
    Keeps z (promptEntry ring h tokens s) := by
  unfold promptEntry
  extract_lets -merge x1 x2 x3 x4 x5 x6 x7
  have hx1 : Keeps z x1 := by
    unfold x1
    refine keeps_consume _ ?_
    assumption
  try clear_value x1
  have hx4 : Keeps z x4 := by
    unfold x4
    refine keeps_setSeq _ _ ?_
    refine keeps_upd ?_ (by rfl)
    assumption
  try clear_value x4
  have hx5 : Keeps z x5 := by
    unfold x5
    refine keeps_clampPrompt _ _ _ ?_
    assumption
  try clear_value x5
  have hx6 : Keeps z x6 := by
    unfold x6
    refine keeps_clampPrompt _ _ _ ?_
    assumption
  try clear_value x6
  have hx7 : Keeps z x7 := by
    unfold x7
    refine keeps_clampPrompt _ _ _ ?_
    assumption
  try clear_value x7
  refine keeps_ite ?_ ?_
  · split
    · refine keeps_emit _ _ _ _ _ ?_
      assumption
    · refine keeps_clampPrompt _ _ _ ?_
      assumption
  · assumption

theorem keeps_depthUpdate {z s : State} (r : SeqRec) (k a : Nat) (hk : Keeps z s) :
    Keeps z (depthUpdate r k a s).2 := by
  unfold depthUpdate
  extract_lets -merge x1 x2 x3 x4
  refine keeps2_ite ?_ ?_
  · refine keeps2_mk ?_
    assumption
  · refine keeps2_ite ?_ ?_
    · refine keeps2_ite ?_ ?_
      · refine keeps2_ite ?_ ?_
        · refine keeps2_mk ?_
          refine keeps_addF _ _ ?_
          assumption
        · refine keeps2_mk ?_
          assumption
      · refine keeps2_ite ?_ ?_
        · refine keeps2_mk ?_
          assumption
        · refine keeps2_ite ?_ ?_
          · refine keeps2_mk ?_
            assumption
          · refine keeps2_mk ?_
            assumption
    · refine keeps2_ite ?_ ?_
      · refine keeps2_mk ?_
        assumption
      · refine keeps2_ite ?_ ?_
        · refine keeps2_mk ?_
          assumption
        · refine keeps2_ite ?_ ?_
          · refine keeps2_mk ?_
            refine keeps_addF _ _ ?_
            assumption
          · refine keeps2_mk ?_
            assumption

theorem keeps_dropBadPrompt {z s : State} (q ix : Nat) (hk : Keeps z s) :
    Keeps z (dropBadPrompt q ix s) := by
  unfold dropBadPrompt
  extract_lets -merge x1 x2
  have hx2 : Keeps z x2 := by
    unfold x2
    refine keeps_emit _ _ _ _ _ ?_
    assumption
  try clear_value x2
  split
  · refine keeps_freeSeq _ ?_
    refine keeps_emit _ _ _ _ _ ?_
    assumption
  · refine keeps_emit _ _ _ _ _ ?_
    refine keeps_setSeq _ _ ?_
    assumption
  · refine keeps_ite ?_ ?_
    · refine keeps_setSeq _ _ ?_
      assumption
    · refine keeps_freeSeq _ ?_
      assumption

theorem keeps_screenPrompts {z s : State} (chunk : Nat) (l : List CompPre) (hk : Keeps z s) :
    Keeps z (screenPrompts chunk l s).2 := by
  unfold screenPrompts
  refine keeps2_foldl _ _ ?_ (fun _ _ _ => ?_)
  · refine keeps2_mk ?_
    assumption
  · extract_lets -merge x1
    split
    · refine keeps2_mk ?_
      refine keeps_ite ?_ ?_
      · refine keeps_dropBadPrompt _ _ ?_
        assumption
      · assumption
    · refine keeps2_mk ?_
      assumption

theorem keeps_claimPower {z s : State} (ps : List PartPred) (hk : Keeps z s) :
    Keeps z (claimPower ps s) := by
  unfold claimPower
  refine keeps_foldl _ _ ?_ (fun _ _ _ => ?_)
  · assumption
  · extract_lets -merge x1 x2 x3
    refine keeps_ite ?_ ?_
    · refine keeps_upd ?_ (by rfl)
      assumption
    · assumption

theorem keeps_markStep {z s : State} (n : Nat) (qs : List Nat) (hk : Keeps z s) :
    Keeps z (markStep n qs s) := by
  unfold markStep
  refine keeps_foldl _ _ ?_ (fun _ _ _ => ?_)
  · assumption
  · extract_lets -merge x1
    refine keeps_setSeq _ _ ?_
    assumption

theorem keeps_startLoad {z s : State} (n : Nat) (l : BankLoad) (hk : Keeps z s) :
    Keeps z (startLoad n l s) := by
  unfold startLoad
  extract_lets -merge x1 x2 x3
  refine keeps_ite ?_ ?_
  · refine keeps_failHere _ _ ?_
    refine keeps_addF _ _ ?_
    refine keeps_setF _ _ ?_
    assumption
  · refine keeps_upd ?_ (by rfl)
    assumption

theorem keeps_holdWave {z s : State} (n : Nat) (hk : Keeps z s) :
    Keeps z (holdWave n s) := by
  unfold holdWave
  extract_lets -merge x1 x2
  refine keeps_ite ?_ ?_
  · assumption
  · refine keeps_upd ?_ (by rfl)
    assumption

theorem keeps_takePlan {z s : State} (p : Plan) (composed reserve : Nat) (hk : Keeps z s) :
    Keeps z (takePlan p composed reserve s) := by
  unfold takePlan
  extract_lets -merge x1 x2 x3 x4 x5 x6 x7 x8 x9 x10 x11
  have hx5 : Keeps z x5 := by
    unfold x5
    refine keeps_upd ?_ (by rfl)
    assumption
  try clear_value x5
  have hx7 : Keeps z x7 := by
    unfold x7
    refine keeps_upd ?_ (by rfl)
    assumption
  try clear_value x7
  have hx8 : Keeps z x8 := by
    unfold x8
    refine keeps_foldl _ _ ?_ (fun _ _ _ => ?_)
    · assumption
    · refine keeps_ite ?_ ?_
      · refine keeps_flagPut _ _ ?_
        assumption
      · refine keeps_flagFault _ _ _ ?_
        assumption
  try clear_value x8
  have hx9 : Keeps z x9 := by
    unfold x9
    refine keeps_holdWave _ ?_
    refine keeps_openPlan _ ?_
    assumption
  try clear_value x9
  have hx10 : Keeps z x10 := by
    unfold x10
    refine keeps_foldl _ _ ?_ (fun _ _ _ => ?_)
    · assumption
    · refine keeps_ite ?_ ?_
      · refine keeps_startLoad _ _ ?_
        assumption
      · assumption
  try clear_value x10
  have hx11 : Keeps z x11 := by
    unfold x11
    refine keeps_freeBanks ?_
    assumption
  try clear_value x11
  refine keeps_ite ?_ ?_
  · refine keeps_fetchMore ?_
    assumption
  · refine keeps_failHere _ _ ?_
    assumption

theorem keeps_stepCompose {z s : State} (c : Composition) (hk : Keeps z s) :
    Keeps z (stepCompose c s) := by
  unfold stepCompose
  extract_lets -merge x1 x2 x3 x4 x5 x6 x7 x8 x9 x10 x11 x12 x13 x14 x15 x16 x17 x18 x19
  have hx3 : Keeps z x3 := by
    unfold x3
    refine keeps_setF _ _ ?_
    assumption
  try clear_value x3
  have hx4 : Keeps z x4.2 := by
    unfold x4
    refine keeps_screenPrompts _ _ ?_
    assumption
  try clear_value x4
  have hx5 : Keeps z x5 := by
    unfold x5
    assumption
  try clear_value x5
  have hx10 : Keeps z x10 := by
    unfold x10
    refine keeps_ite ?_ ?_
    · assumption
    · refine keeps_addF _ _ ?_
      assumption
  try clear_value x10
  have hx14 : Keeps z x14 := by
    unfold x14
    refine keeps_upd ?_ (by rfl)
    assumption
  try clear_value x14
  have hx17 : Keeps z x17 := by
    unfold x17
    refine keeps_ite ?_ ?_
    · refine keeps_upd ?_ (by rfl)
      assumption
    · refine keeps_upd ?_ (by rfl)
      assumption
  try clear_value x17
  have hx18 : Keeps z x18 := by
    unfold x18
    refine keeps_claimPower _ ?_
    refine keeps_markStep _ _ ?_
    assumption
  try clear_value x18
  have hx19 : Keeps z x19 := by
    unfold x19
    refine keeps_ite ?_ ?_
    · refine keeps_sendTo _ _ _ _ _ _ ?_
      assumption
    · assumption
  try clear_value x19
  refine keeps_ite ?_ ?_
  · assumption
  · refine keeps_ite ?_ ?_
    · refine keeps_takePlan _ _ _ ?_
      refine keeps_sendAll _ _ _ _ ?_
      assumption
    · assumption

theorem keeps_stepPlan {z s : State} (src : Nat) (p : Plan) (hk : Keeps z s) :
    Keeps z (stepPlan src p s) := by
  unfold stepPlan
  extract_lets -merge x1 x2
  refine keeps_ite ?_ ?_
  · assumption
  · refine keeps_ite ?_ ?_
    · refine keeps_takePlan _ _ _ ?_
      refine keeps_upd ?_ (by rfl)
      assumption
    · refine keeps_takePlan _ _ _ ?_
      refine keeps_upd ?_ (by rfl)
      assumption

theorem keeps_mirrorStep {z s : State} (n : Nat) (r : StepRec) (hk : Keeps z s) :
    Keeps z (mirrorStep n r s) := by
  unfold mirrorStep
  extract_lets -merge x1 x2 x3 x4 x5
  have hx1 : Keeps z x1 := by
    unfold x1
    refine keeps_updStep _ _ ?_
    assumption
  try clear_value x1
  have hx5 : Keeps z x5 := by
    unfold x5
    refine keeps_sendTo _ _ _ _ _ _ ?_
    assumption
  try clear_value x5
  refine keeps_ite ?_ ?_
  · refine keeps_failHere _ _ ?_
    assumption
  · refine keeps_ite ?_ ?_
    · refine keeps_sendTo _ _ _ _ _ _ ?_
      assumption
    · assumption

theorem keeps_checkReady {z s : State} (n : Nat) (hk : Keeps z s) :
    Keeps z (checkReady n s) := by
  unfold checkReady
  extract_lets -merge x1 x2
  have hx1 : Keeps z x1 := by
    unfold x1
    refine keeps_updStep _ _ ?_
    assumption
  try clear_value x1
  split
  · assumption
  · refine keeps_ite ?_ ?_
    · refine keeps_ite ?_ ?_
      · refine keeps_updStep _ _ ?_
        assumption
      · refine keeps_sendTo _ _ _ _ _ _ ?_
        assumption
    · refine keeps_ite ?_ ?_
      · refine keeps_mirrorStep _ _ ?_
        assumption
      · assumption

theorem keeps_noteReady {z s : State} (n : Nat) (hk : Keeps z s) :
    Keeps z (noteReady n s) := by
  unfold noteReady
  refine keeps_updStep _ _ ?_
  assumption

theorem keeps_commitReady {z s : State} (n pos : Nat) (hk : Keeps z s) :
    Keeps z (commitReady n pos s) := by
  unfold commitReady
  refine keeps_ite ?_ ?_
  · refine keeps_noteReady _ ?_
    refine keeps_updStep _ _ ?_
    assumption
  · assumption

theorem keeps_acceptance {z s : State} (n : Nat) (l : List Accepted) (hk : Keeps z s) :
    Keeps z (acceptance n l s) := by
  unfold acceptance
  refine keeps_noteReady _ ?_
  refine keeps_checkReady _ ?_
  refine keeps_updStep _ _ ?_
  assumption

theorem keeps_latUpdate {z s : State} (cls t : Nat) (hk : Keeps z s) :
    Keeps z (latUpdate cls t s) := by
  unfold latUpdate
  extract_lets -merge x1
  refine keeps_upd ?_ (by rfl)
  assumption

theorem keeps_commitSeq {z s : State} (e : PlanEntry) (r : List Byte × Nat × Nat × Nat) (acc : Nat) (hk : Keeps z s) :
    Keeps z (commitSeq e r acc s) := by
  unfold commitSeq
  extract_lets -merge x1 x2 x3 x4 x5 x6 x7 x8 x9 x10 x11
  have hx3 : Keeps z x3 := by
    unfold x3
    refine keeps_ite ?_ ?_
    · refine keeps_latUpdate _ _ ?_
      assumption
    · assumption
  try clear_value x3
  have hx4 : Keeps z x4 := by
    unfold x4
    refine keeps_ite ?_ ?_
    · refine keeps_addF _ _ ?_
      refine keeps_addF _ _ ?_
      assumption
    · assumption
  try clear_value x4
  have hx5 : Keeps z x5.2 := by
    unfold x5
    refine keeps2_ite ?_ ?_
    · refine keeps_depthUpdate _ _ _ ?_
      assumption
    · refine keeps2_mk ?_
      assumption
  try clear_value x5
  have hx6 : Keeps z x6 := by
    unfold x6
    assumption
  try clear_value x6
  refine keeps_ite ?_ ?_
  · refine keeps_setSeq _ _ ?_
    assumption
  · refine keeps_ite ?_ ?_
    · refine keeps_setSeq _ _ ?_
      assumption
    · refine keeps_ite ?_ ?_
      · refine keeps_setSeq _ _ ?_
        assumption
      · refine keeps_setSeq _ _ ?_
        assumption

theorem keeps_settleSeq {z s : State} (q cause : Nat) (hk : Keeps z s) :
    Keeps z (settleSeq q cause s) := by
  unfold settleSeq
  extract_lets -merge x1
  refine keeps_ite ?_ ?_
  · refine keeps_completeCmds _ _ ?_
    refine keeps_endSeq _ ?_
    assumption
  · refine keeps_ite ?_ ?_
    · split
      · refine keeps_completeCmds _ _ ?_
        refine keeps_pauseSeq _ _ _ ?_
        assumption
      · assumption
    · assumption

theorem keeps_chooseVictims {z s : State} (k_ : Nat) (hk : Keeps z s) :
    Keeps z (chooseVictims k_ s) := by
  induction k_ generalizing s with
  | zero =>
    rw [chooseVictims]
    assumption
  | succ _ ih =>
    rw [chooseVictims]
    refine keeps_ite ?_ ?_
    · split
      · refine ih ?_
        refine keeps_mapBlocks _ ?_
        assumption
      · assumption
    · assumption

theorem keeps_demoteCheck {z s : State} (hk : Keeps z s) :
    Keeps z (demoteCheck s) := by
  unfold demoteCheck
  refine keeps_ite ?_ ?_
  · refine keeps_chooseVictims _ ?_
    assumption
  · assumption

theorem keeps_commitLocal {z s : State} (n : Nat) (lens : List (Nat × Nat)) (hk : Keeps z s) :
    Keeps z (commitLocal n lens s) := by
  unfold commitLocal
  extract_lets -merge x1
  have hx1 : Keeps z x1 := by
    unfold x1
    refine keeps_foldl _ _ ?_ (fun _ _ _ => ?_)
    · assumption
    · refine keeps_commitBlocks _ _ _ ?_
      assumption
  try clear_value x1
  refine keeps_demoteCheck ?_
  refine keeps_sweepBlocks ?_
  refine keeps_fetchMore ?_
  refine keeps_dropStep _ ?_
  refine keeps_dropStaged _ ?_
  assumption

theorem keeps_setRef {z s : State} (ps : List PartPred) (hk : Keeps z s) :
    Keeps z (setRef ps s) := by
  unfold setRef
  extract_lets -merge x1
  refine keeps_upd ?_ (by rfl)
  assumption

theorem keeps_setLast {z s : State} (n : Nat) (hk : Keeps z s) :
    Keeps z (setLast n s) := by
  unfold setLast
  refine keeps_ite ?_ ?_
  · refine keeps_setF _ _ ?_
    assumption
  · assumption

theorem keeps_stepCommit {z s : State} (n : Nat) (hk : Keeps z s) :
    Keeps z (stepCommit n s) := by
  unfold stepCommit
  split
  · assumption
  · extract_lets -merge x1 x2 x3 x4 x5 x6 x7 x8 x9 x10 x11 x12 x13 x14
    have hx3 : Keeps z x3 := by
      unfold x3
      refine keeps_foldl _ _ ?_ (fun _ _ _ => ?_)
      · assumption
      · refine keeps_commitSeq _ _ _ ?_
        assumption
    try clear_value x3
    have hx5 : Keeps z x5 := by
      unfold x5
      refine keeps_sendAll _ _ _ _ ?_
      assumption
    try clear_value x5
    have hx6 : Keeps z x6 := by
      unfold x6
      refine keeps_setRef _ ?_
      refine keeps_addF _ _ ?_
      refine keeps_setLast _ ?_
      assumption
    try clear_value x6
    have hx8 : Keeps z x8 := by
      unfold x8
      refine keeps_setF _ _ ?_
      assumption
    try clear_value x8
    have hx11 : Keeps z x11 := by
      unfold x11
      refine keeps_commitLocal _ _ ?_
      assumption
    try clear_value x11
    have hx13 : Keeps z x13 := by
      unfold x13
      refine keeps_recordOut _ _ ?_
      assumption
    try clear_value x13
    have hx14 : Keeps z x14 := by
      unfold x14
      refine keeps_ite ?_ ?_
      · refine keeps_sqWrite _ _ ?_
        assumption
      · assumption
    try clear_value x14
    refine keeps_ite ?_ ?_
    · refine keeps_foldl _ _ ?_ (fun _ _ _ => ?_)
      · assumption
      · refine keeps_settleSeq _ _ ?_
        assumption
    · assumption

theorem keeps_stepTimeout {z s : State} (n : Nat) (hk : Keeps z s) :
    Keeps z (stepTimeout n s) := by
  unfold stepTimeout
  split
  · refine keeps_ite ?_ ?_
    · refine keeps_failStep _ _ _ ?_
      assumption
    · assumption
  · assumption

theorem keeps_commitMessage {z s : State} (n : Nat) (lens : List Nat) (hk : Keeps z s) :
    Keeps z (commitMessage n lens s) := by
  unfold commitMessage
  split
  · refine keeps_ite ?_ ?_
    · assumption
    · refine keeps_setLast _ ?_
      refine keeps_commitLocal _ _ ?_
      assumption
  · assumption

end Sys2Proof.Machine
end

