-- ==== Sys2Proof/Laws/KeepsPower.lean ====
section
/-! SUPPORT. What the operations of Machine/Power.lean keep. -/

namespace Sys2Proof.Machine
open Sys2Proof

theorem keeps_updPwr {z s : State} (f : PwrState → PwrState) (hk : Keeps z s) :
    Keeps z (updPwr f s) := by
  unfold updPwr
  refine keeps_upd ?_ (by rfl)
  assumption

theorem keeps_vinRise {z s : State} (v : Nat) (hk : Keeps z s) :
    Keeps z (vinRise v s) := by
  unfold vinRise
  extract_lets -merge x1 x2 x3
  have hx1 : Keeps z x1 := by
    unfold x1
    refine keeps_updPwr _ ?_
    assumption
  try clear_value x1
  have hx2 : Keeps z x2 := by
    unfold x2
    refine keeps_updPwr _ ?_
    assumption
  try clear_value x2
  refine keeps_ite ?_ ?_
  · refine keeps_upd ?_ (by rfl)
    assumption
  · assumption

theorem keeps_vinLoss {z s : State} (v : Nat) (hk : Keeps z s) :
    Keeps z (vinLoss v s) := by
  unfold vinLoss
  extract_lets -merge x1
  have hx1 : Keeps z x1 := by
    unfold x1
    refine keeps_updPwr _ ?_
    assumption
  try clear_value x1
  refine keeps_ite ?_ ?_
  · refine keeps_dieOff ?_
    assumption
  · assumption

theorem keeps_railGood {z s : State} (n : Nat) (hk : Keeps z s) :
    Keeps z (railGood n s) := by
  unfold railGood
  refine keeps_ite ?_ ?_
  · refine keeps_updPwr _ ?_
    assumption
  · assumption

theorem keeps_railGoodLoss {z s : State} (n : Nat) (hk : Keeps z s) :
    Keeps z (railGoodLoss n s) := by
  unfold railGoodLoss
  refine keeps_updPwr _ ?_
  assumption

theorem keeps_latchOff {z s : State} (l : Latch) (hk : Keeps z s) :
    Keeps z (latchOff l s) := by
  unfold latchOff
  extract_lets -merge x1
  have hx1 : Keeps z x1 := by
    unfold x1
    refine keeps_dieOff ?_
    assumption
  try clear_value x1
  refine keeps_updPwr _ ?_
  assumption

theorem keeps_railFault {z s : State} (n : Nat) (hk : Keeps z s) :
    Keeps z (railFault n s) := by
  unfold railFault
  refine keeps_ite ?_ ?_
  · refine keeps_latchOff _ ?_
    assumption
  · assumption

theorem keeps_droopTrip {z s : State} (r : Nat) (hk : Keeps z s) :
    Keeps z (droopTrip r s) := by
  unfold droopTrip
  refine keeps_updPwr _ ?_
  refine keeps_addF _ _ ?_
  assumption

theorem keeps_droopRelease {z s : State} (r ns : Nat) (hk : Keeps z s) :
    Keeps z (droopRelease r ns s) := by
  unfold droopRelease
  refine keeps_ite ?_ ?_
  · refine keeps_lifeAdd _ _ _ ?_
    refine keeps_updPwr _ ?_
    assumption
  · assumption

theorem keeps_updSensor {z s : State} (n : Nat) (f : Sensor → Sensor) (hk : Keeps z s) :
    Keeps z (updSensor n f s) := by
  unfold updSensor
  refine keeps_updPwr _ ?_
  assumption

theorem keeps_sensorFault {z s : State} (n kind : Nat) (hk : Keeps z s) :
    Keeps z (sensorFault n kind s) := by
  unfold sensorFault
  extract_lets -merge x1
  have hx1 : Keeps z x1 := by
    unfold x1
    refine keeps_setF _ _ ?_
    refine keeps_setF _ _ ?_
    refine keeps_setF _ _ ?_
    assumption
  try clear_value x1
  refine keeps_ite ?_ ?_
  · assumption
  · refine keeps_report _ _ _ ?_
    refine keeps_emitPart _ _ ?_
    assumption

theorem keeps_sensorSample {z s : State} (n : Nat) (raw : Option Int) (hk : Keeps z s) :
    Keeps z (sensorSample n raw s) := by
  unfold sensorSample
  extract_lets -merge x1 x2 x3 x4 x5 x6 x7 x8 x9 x10
  clear_value x1 x3 x7
  have hx4 : Keeps z x4 := by
    unfold x4
    split
    · refine keeps_setF _ _ ?_
      assumption
    · assumption
  try clear_value x4
  have hx5 : Keeps z x5 := by
    unfold x5
    split
    · refine keeps_sensorFault _ _ ?_
      assumption
    · assumption
  try clear_value x5
  have hx8 : Keeps z x8 := by
    unfold x8
    refine keeps_updSensor _ _ ?_
    assumption
  try clear_value x8
  have hx9 : Keeps z x9 := by
    unfold x9
    refine keeps_latchOff _ ?_
    assumption
  try clear_value x9
  refine keeps_ite ?_ ?_
  · refine keeps_upd ?_ (by rfl)
    assumption
  · assumption

theorem keeps_sensorSilent {z s : State} (n : Nat) (hk : Keeps z s) :
    Keeps z (sensorSilent n s) := by
  unfold sensorSilent
  refine keeps_ite ?_ ?_
  · refine keeps_updSensor _ _ ?_
    refine keeps_sensorFault _ _ ?_
    assumption
  · assumption

theorem keeps_sensorClear {z s : State} (n : Nat) (hk : Keeps z s) :
    Keeps z (sensorClear n s) := by
  unfold sensorClear
  split
  · refine keeps_ite ?_ ?_
    · refine keeps_setF _ _ ?_
      assumption
    · assumption
  · assumption

theorem keeps_bandChange {z s : State} (r b : Nat) (hk : Keeps z s) :
    Keeps z (bandChange r b s) := by
  unfold bandChange
  refine keeps_bandDiscard _ ?_
  refine keeps_emitPart _ _ ?_
  refine keeps_setF _ _ ?_
  assumption

theorem keeps_trackBelow {z s : State} (r : Nat) (t : Int) (hk : Keeps z s) :
    Keeps z (trackBelow r t s) := by
  unfold trackBelow
  extract_lets -merge x1
  refine keeps_updPwr _ ?_
  assumption

theorem keeps_regionUpdate {z s : State} (r : Nat) (hk : Keeps z s) :
    Keeps z (regionUpdate s r) := by
  unfold regionUpdate
  extract_lets -merge x1 x2 x3 x4 x5 x6
  have hx2 : Keeps z x2 := by
    unfold x2
    refine keeps_setF _ _ ?_
    assumption
  try clear_value x2
  have hx3 : Keeps z x3 := by
    unfold x3
    refine keeps_ite ?_ ?_
    · refine keeps_bandChange _ _ ?_
      refine keeps_updPwr _ ?_
      assumption
    · assumption
  try clear_value x3
  have hx4 : Keeps z x4 := by
    unfold x4
    refine keeps_trackBelow _ _ ?_
    assumption
  try clear_value x4
  have hx6 : Keeps z x6 := by
    unfold x6
    refine keeps_setF _ _ ?_
    assumption
  try clear_value x6
  refine keeps_updPwr _ ?_
  assumption

theorem keeps_addReadings {z s : State} (hk : Keeps z s) :
    Keeps z (addReadings s) := by
  unfold addReadings
  refine keeps_updPwr _ ?_
  assumption

theorem keeps_thermalUpdate {z s : State} (hk : Keeps z s) :
    Keeps z (thermalUpdate s) := by
  unfold thermalUpdate
  refine keeps_addReadings ?_
  refine keeps_foldl _ _ ?_ (fun _ _ _ => ?_)
  · assumption
  · refine keeps_regionUpdate _ ?_
    assumption

theorem keeps_bandFall {z s : State} (r : Nat) (hk : Keeps z s) :
    Keeps z (bandFall r s) := by
  unfold bandFall
  extract_lets -merge x1 x2
  have hx2 : Keeps z x2 := by
    unfold x2
    refine keeps_updPwr _ ?_
    assumption
  try clear_value x2
  split
  · refine keeps_ite ?_ ?_
    · refine keeps_trackBelow _ _ ?_
      refine keeps_bandChange _ _ ?_
      assumption
    · assumption
  · assumption

theorem keeps_setLp {z s : State} (v : Nat) (hk : Keeps z s) :
    Keeps z (setLp v s) := by
  unfold setLp
  extract_lets -merge x1 x2 x3
  have hx2 : Keeps z x2 := by
    unfold x2
    refine keeps_setF _ _ ?_
    assumption
  try clear_value x2
  refine keeps_ite ?_ ?_
  · refine keeps_emitPart _ _ ?_
    assumption
  · refine keeps_ite ?_ ?_
    · refine keeps_arbitrate ?_
      refine keeps_emitPart _ _ ?_
      assumption
    · assumption

theorem keeps_bucketRule {z s : State} (hk : Keeps z s) :
    Keeps z (bucketRule s) := by
  unfold bucketRule
  extract_lets -merge x1
  have hx1 : Keeps z x1 := by
    unfold x1
    refine keeps_lifeAdd _ _ _ ?_
    refine keeps_addF _ _ ?_
    assumption
  try clear_value x1
  refine keeps_ite ?_ ?_
  · refine keeps_ite ?_ ?_
    · refine keeps_setLp _ ?_
      refine keeps_updPwr _ ?_
      assumption
    · assumption
  · refine keeps_updPwr _ ?_
    assumption

theorem keeps_peakRule {z s : State} (mW mA : Nat) (hk : Keeps z s) :
    Keeps z (peakRule mW mA s) := by
  unfold peakRule
  refine keeps_ite ?_ ?_
  · refine keeps_setLp _ ?_
    refine keeps_updPwr _ ?_
    refine keeps_lifeAdd _ _ _ ?_
    refine keeps_addF _ _ ?_
    assumption
  · assumption

theorem keeps_easeRule {z s : State} (hk : Keeps z s) :
    Keeps z (easeRule s) := by
  unfold easeRule
  refine keeps_ite ?_ ?_
  · refine keeps_setLp _ ?_
    refine keeps_updPwr _ ?_
    assumption
  · assumption

theorem keeps_powerSample {z s : State} (mW mA vin : Nat) (hk : Keeps z s) :
    Keeps z (powerSample mW mA vin s) := by
  unfold powerSample
  extract_lets -merge x1 x2 x3 x4
  have hx2 : Keeps z x2 := by
    unfold x2
    refine keeps_updPwr _ ?_
    assumption
  try clear_value x2
  have hx4 : Keeps z x4 := by
    unfold x4
    refine keeps_peakRule _ _ ?_
    refine keeps_bucketRule ?_
    assumption
  try clear_value x4
  refine keeps_ite ?_ ?_
  · assumption
  · refine keeps_easeRule ?_
    assumption

theorem keeps_setWave {z s : State} (v src : Nat) (hk : Keeps z s) :
    Keeps z (setWave v src s) := by
  unfold setWave
  refine keeps_emitPart _ _ ?_
  refine keeps_setF _ _ ?_
  assumption

theorem keeps_waveLevelUpdate {z s : State} (hk : Keeps z s) :
    Keeps z (waveLevelUpdate s) := by
  unfold waveLevelUpdate
  extract_lets -merge x1
  split
  · refine keeps_ite ?_ ?_
    · refine keeps_setWave _ _ ?_
      refine keeps_updPwr _ ?_
      assumption
    · assumption
  · refine keeps_ite ?_ ?_
    · refine keeps_setWave _ _ ?_
      refine keeps_updPwr _ ?_
      assumption
    · assumption

theorem keeps_waveHoldRelease {z s : State} (n : Nat) (hk : Keeps z s) :
    Keeps z (waveHoldRelease n s) := by
  unfold waveHoldRelease
  refine keeps_updPwr _ ?_
  assumption

theorem keeps_kappaUpdate {z s : State} (hk : Keeps z s) :
    Keeps z (kappaUpdate s) := by
  unfold kappaUpdate
  split
  · split
    · refine keeps_ite ?_ ?_
      · assumption
      · refine keeps_setF _ _ ?_
        assumption
    · assumption
  · assumption

theorem keeps_tellHeadroom {z s : State} (n : Nat) (hk : Keeps z s) :
    Keeps z (tellHeadroom n s) := by
  unfold tellHeadroom
  extract_lets -merge x1 x2 x3 x4 x5
  refine keeps_ite ?_ ?_
  · refine keeps_upd ?_ (by rfl)
    assumption
  · refine keeps_sendTo _ _ _ _ _ _ ?_
    assumption

theorem keeps_headroomPublish {z s : State} (hk : Keeps z s) :
    Keeps z (headroomPublish s) := by
  unfold headroomPublish
  extract_lets -merge x1 x2 x3 x4 x5
  have hx1 : Keeps z x1 := by
    unfold x1
    refine keeps_updPwr _ ?_
    assumption
  try clear_value x1
  have hx2 : Keeps z x2 := by
    unfold x2
    refine keeps_storeSram _ _ ?_
    refine keeps_meterAdd _ _ _ ?_
    assumption
  try clear_value x2
  have hx3 : Keeps z x3 := by
    unfold x3
    refine keeps_ite ?_ ?_
    · refine keeps_kappaUpdate ?_
      assumption
    · assumption
  try clear_value x3
  have hx4 : Keeps z x4 := by
    unfold x4
    refine keeps_ite ?_ ?_
    · refine keeps_tellHeadroom _ ?_
      assumption
    · assumption
  try clear_value x4
  have hx5 : Keeps z x5 := by
    unfold x5
    refine keeps_ite ?_ ?_
    · refine keeps_tellHeadroom _ ?_
      assumption
    · assumption
  try clear_value x5
  refine keeps_ite ?_ ?_
  · refine keeps_ite ?_ ?_
    · refine keeps_emitPart _ _ ?_
      refine keeps_setF _ _ ?_
      assumption
    · assumption
  · assumption

theorem keeps_headroomStale {z s : State} (hk : Keeps z s) :
    Keeps z (headroomStale s) := by
  unfold headroomStale
  refine keeps_ite ?_ ?_
  · refine keeps_emitPart _ _ ?_
    refine keeps_setF _ _ ?_
    assumption
  · assumption

theorem keeps_rthUpdate {z s : State} (hk : Keeps z s) :
    Keeps z (rthUpdate s) := by
  unfold rthUpdate
  extract_lets -merge x1 x2 x3
  have hx1 : Keeps z x1 := by
    unfold x1
    refine keeps_updPwr _ ?_
    assumption
  try clear_value x1
  have hx2 : Keeps z x2 := by
    unfold x2
    split
    · refine keeps_ite ?_ ?_
      · assumption
      · refine keeps_updPwr _ ?_
        assumption
    · assumption
  try clear_value x2
  have hx3 : Keeps z x3 := by
    unfold x3
    refine keeps_updPwr _ ?_
    assumption
  try clear_value x3
  refine keeps_foldl _ _ ?_ (fun _ _ _ => ?_)
  · refine keeps_lifeAdd _ _ _ ?_
    assumption
  · refine keeps_lifeAdd _ _ _ ?_
    assumption

end Sys2Proof.Machine
end

