-- ==== Sys2Proof/Laws/KeepsWeights.lean ====
section
/-! SUPPORT. What the operations of Machine/Weights.lean keep. -/

namespace Sys2Proof.Machine
open Sys2Proof

theorem keeps_updInst {z s : State} (f : InstRec → InstRec) (hk : Keeps z s) :
    Keeps z (updInst f s) := by
  unfold updInst
  extract_lets -merge x1
  refine keeps_upd ?_ (by rfl)
  assumption

theorem keeps_eraseKey {z s : State} (n : Nat) (hk : Keeps z s) :
    Keeps z (eraseKey n s) := by
  unfold eraseKey
  extract_lets -merge x1
  refine keeps_upd ?_ (by rfl)
  assumption

theorem keeps_instEnd {z s : State} (hk : Keeps z s) :
    Keeps z (instEnd s) := by
  unfold instEnd
  extract_lets -merge x1
  split
  · refine keeps_setF _ _ ?_
    refine keeps_upd ?_ (by rfl)
    assumption
  · assumption

theorem keeps_wgtError {z s : State} (slot code : Nat) (hk : Keeps z s) :
    Keeps z (wgtError slot code s) := by
  unfold wgtError
  refine keeps_emitPart _ _ ?_
  refine keeps_setF _ _ ?_
  refine keeps_setF _ _ ?_
  assumption

theorem keeps_dropInstall {z s : State} (a : Nat) (hk : Keeps z s) :
    Keeps z (dropInstall a s) := by
  unfold dropInstall
  refine keeps_updArr _ _ ?_
  assumption

theorem keeps_failInst {z s : State} (code : Nat) (hk : Keeps z s) :
    Keeps z (failInst code s) := by
  unfold failInst
  extract_lets -merge x1
  split
  · assumption
  · extract_lets -merge x2 x3 x4 x5 x6 x7
    have hx2 : Keeps z x2 := by
      unfold x2
      refine keeps_wgtError _ _ ?_
      refine keeps_eraseKey _ ?_
      refine keeps_instEnd ?_
      assumption
    try clear_value x2
    have hx5 : Keeps z x5 := by
      unfold x5
      refine keeps_setSlot _ _ ?_
      assumption
    try clear_value x5
    have hx6 : Keeps z x6 := by
      unfold x6
      refine keeps_foldl _ _ ?_ (fun _ _ _ => ?_)
      · assumption
      · refine keeps_dropInstall _ ?_
        assumption
    try clear_value x6
    refine keeps_ite ?_ ?_
    · refine keeps_setSlot _ _ ?_
      assumption
    · refine keeps_arbitrate ?_
      refine keeps_upd ?_ (by rfl)
      assumption

theorem keeps_beginInst {z s : State} (n : Nat) (attach : Bool) (hk : Keeps z s) :
    Keeps z (beginInst n attach s) := by
  unfold beginInst
  extract_lets -merge x1
  refine keeps_setF _ _ ?_
  refine keeps_upd ?_ (by rfl)
  assumption

theorem keeps_wgtInstall {z s : State} (n : Nat) (hk : Keeps z s) :
    Keeps z (wgtInstall n s) := by
  unfold wgtInstall
  extract_lets -merge x1 x2 x3 x4 x5 x6
  have hx6 : Keeps z x6 := by
    unfold x6
    refine keeps_beginInst _ _ ?_
    refine keeps_setSlot _ _ ?_
    refine keeps_upd ?_ (by rfl)
    assumption
  try clear_value x6
  refine keeps_ite ?_ ?_
  · refine keeps_countIgnored _ ?_
    assumption
  · refine keeps_ite ?_ ?_
    · refine keeps_wgtError _ _ ?_
      assumption
    · refine keeps_ite ?_ ?_
      · refine keeps_failInst _ ?_
        assumption
      · refine keeps_ite ?_ ?_
        · refine keeps_failInst _ ?_
          assumption
        · refine keeps_ite ?_ ?_
          · refine keeps_failInst _ ?_
            assumption
          · assumption

theorem keeps_wgtAttach {z s : State} (n : Nat) (hk : Keeps z s) :
    Keeps z (wgtAttach n s) := by
  unfold wgtAttach
  extract_lets -merge x1
  have hx1 : Keeps z x1 := by
    unfold x1
    refine keeps_beginInst _ _ ?_
    assumption
  try clear_value x1
  refine keeps_ite ?_ ?_
  · refine keeps_countIgnored _ ?_
    assumption
  · refine keeps_ite ?_ ?_
    · refine keeps_failInst _ ?_
      assumption
    · assumption

theorem keeps_releaseArray {z s : State} (a : Nat) (hk : Keeps z s) :
    Keeps z (releaseArray a s) := by
  unfold releaseArray
  extract_lets -merge x1 x2 x3
  have hx2 : Keeps z x2 := by
    unfold x2
    split
    · refine keeps_ite ?_ ?_
      · refine keeps_updArr _ _ ?_
        assumption
      · assumption
    · assumption
  try clear_value x2
  have hx3 : Keeps z x3 := by
    unfold x3
    refine keeps_updArr _ _ ?_
    assumption
  try clear_value x3
  refine keeps_ite ?_ ?_
  · assumption
  · refine keeps_ite ?_ ?_
    · assumption
    · refine keeps_ite ?_ ?_
      · refine keeps_toSpare _ ?_
        assumption
      · refine keeps_setArrState _ _ ?_
        assumption

theorem keeps_clearBanks {z s : State} (e : Nat) (hk : Keeps z s) :
    Keeps z (clearBanks e s) := by
  unfold clearBanks
  refine keeps_upd ?_ (by rfl)
  assumption

theorem keeps_wgtRelease {z s : State} (n : Nat) (hk : Keeps z s) :
    Keeps z (wgtRelease n s) := by
  unfold wgtRelease
  extract_lets -merge x1 x2 x3 x4 x5
  have hx2 : Keeps z x2 := by
    unfold x2
    refine keeps_ite ?_ ?_
    · refine keeps_instEnd ?_
      assumption
    · assumption
  try clear_value x2
  have hx3 : Keeps z x3 := by
    unfold x3
    refine keeps_foldl _ _ ?_ (fun _ _ _ => ?_)
    · assumption
    · refine keeps_releaseArray _ ?_
      assumption
  try clear_value x3
  have hx5 : Keeps z x5 := by
    unfold x5
    refine keeps_upd ?_ (by rfl)
    assumption
  try clear_value x5
  split
  · refine keeps_setSlot _ _ ?_
    assumption
  · refine keeps_countIgnored _ ?_
    assumption
  · refine keeps_countIgnored _ ?_
    assumption
  · refine keeps_ite ?_ ?_
    · refine keeps_countIgnored _ ?_
      assumption
    · refine keeps_emitPart _ _ ?_
      refine keeps_arbitrate ?_
      refine keeps_clearBanks _ ?_
      refine keeps_eraseKey _ ?_
      refine keeps_setSlot _ _ ?_
      assumption

theorem keeps_wgtAbort {z s : State} (n : Nat) (hk : Keeps z s) :
    Keeps z (wgtAbort n s) := by
  unfold wgtAbort
  refine keeps_ite ?_ ?_
  · refine keeps_failInst _ ?_
    assumption
  · refine keeps_countIgnored _ ?_
    assumption

theorem keeps_addSpare {z s : State} (a : Nat) (hk : Keeps z s) :
    Keeps z (addSpare a s) := by
  unfold addSpare
  extract_lets -merge x1
  refine keeps_ite ?_ ?_
  · refine keeps_countIgnored _ ?_
    assumption
  · refine keeps_requestAct _ ?_
    refine keeps_updArr _ _ ?_
    assumption

theorem keeps_rootCheck {z s : State} (b : List Byte) (x : InstRec) (hk : Keeps z s) :
    Keeps z (rootCheck b x s) := by
  unfold rootCheck
  extract_lets -merge x1 x2 x3 x4
  have hx4 : Keeps z x4 := by
    unfold x4
    refine keeps_setSlot _ _ ?_
    assumption
  try clear_value x4
  refine keeps_ite ?_ ?_
  · refine keeps_failInst _ ?_
    assumption
  · refine keeps_ite ?_ ?_
    · refine keeps_failInst _ ?_
      assumption
    · refine keeps_ite ?_ ?_
      · refine keeps_failInst _ ?_
        assumption
      · refine keeps_ite ?_ ?_
        · refine keeps_failInst _ ?_
          assumption
        · refine keeps_ite ?_ ?_
          · refine keeps_failInst _ ?_
            assumption
          · refine keeps_updInst _ ?_
            assumption

theorem keeps_wrapCheck {z s : State} (b : List Byte) (key : Option (List Byte)) (x : InstRec) (hk : Keeps z s) :
    Keeps z (wrapCheck b key x s) := by
  unfold wrapCheck
  extract_lets -merge x1
  split
  · assumption
  · refine keeps_ite ?_ ?_
    · refine keeps_failInst _ ?_
      assumption
    · split
      · refine keeps_failInst _ ?_
        assumption
      · refine keeps_ite ?_ ?_
        · refine keeps_failInst _ ?_
          assumption
        · refine keeps_updInst _ ?_
          refine keeps_upd ?_ (by rfl)
          assumption

theorem keeps_loadColumns {z s : State} (n : Nat) (cols : List (Nat × ColumnEntry)) (hk : Keeps z s) :
    Keeps z (loadColumns n cols s) := by
  unfold loadColumns
  split
  · assumption
  · refine keeps_foldl _ _ ?_ (fun _ _ _ => ?_)
    · assumption
    · extract_lets -merge x1
      refine keeps_ite ?_ ?_
      · assumption
      · split
        · assumption
        · extract_lets -merge x2
          refine keeps_updPnt _ _ ?_
          assumption

theorem keeps_refineBlocks {z s : State} (n : Nat) (hk : Keeps z s) :
    Keeps z (refineBlocks n s) := by
  unfold refineBlocks
  refine keeps_foldl _ _ ?_ (fun _ _ _ => ?_)
  · assumption
  · extract_lets -merge x1
    refine keeps_updArr _ _ ?_
    assumption

theorem keeps_restToServe {z s : State} (hk : Keeps z s) :
    Keeps z (restToServe s) := by
  unfold restToServe
  refine keeps_ite ?_ ?_
  · refine keeps_setF _ _ ?_
    assumption
  · assumption

theorem keeps_attachDone {z s : State} (hk : Keeps z s) :
    Keeps z (attachDone s) := by
  unfold attachDone
  split
  · assumption
  · extract_lets -merge x1
    refine keeps_restToServe ?_
    refine keeps_instEnd ?_
    refine keeps_setSlot _ _ ?_
    assumption

theorem keeps_startChecks {z s : State} (hk : Keeps z s) :
    Keeps z (startChecks s) := by
  unfold startChecks
  split
  · refine keeps_ite ?_ ?_
    · assumption
    · refine keeps_ite ?_ ?_
      · refine keeps_attachDone ?_
        assumption
      · refine keeps_foldl _ _ ?_ (fun _ _ _ => ?_)
        · assumption
        · refine keeps_requestAct _ ?_
          assumption
  · assumption

theorem keeps_installCheck {z s : State} (hk : Keeps z s) :
    Keeps z (installCheck s) := by
  unfold installCheck
  split
  · extract_lets -merge x1 x2 x3
    have hx2 : Keeps z x2 := by
      unfold x2
      refine keeps_foldl _ _ ?_ (fun _ _ _ => ?_)
      · assumption
      · refine keeps_ite ?_ ?_
        · refine keeps_setArrState _ _ ?_
          assumption
        · assumption
    try clear_value x2
    have hx3 : Keeps z x3 := by
      unfold x3
      refine keeps_instEnd ?_
      refine keeps_setSlot _ _ ?_
      assumption
    try clear_value x3
    refine keeps_ite ?_ ?_
    · assumption
    · refine keeps_restToServe ?_
      refine keeps_emitPart _ _ ?_
      assumption
  · assumption

theorem keeps_foldlOpt {z : State} {α : Type} (F : Option State → α → Option State) (l : List α) (o : Option State)
    (ho : ∀ u, o = some u → Keeps z u)
    (hF : ∀ o x, (∀ u, o = some u → Keeps z u) → ∀ u, F o x = some u → Keeps z u) :
    ∀ u, l.foldl F o = some u → Keeps z u := by
  induction l generalizing o with
  | nil => exact ho
  | cons a l ih => exact ih _ (hF o a ho)

theorem keeps_placeBlocks {z s t : State} (n : Nat) (h : Keeps z s) (e : placeBlocks n s = some t) : Keeps z t := by
  unfold placeBlocks at e
  split at e
  · cases e
    exact h
  · refine keeps_foldlOpt _ _ _ (fun u hu => by cases hu; exact h) (fun o x ho u hu => ?_) t e
    split at hu
    · cases hu
    · dsimp only at hu
      split at hu
      · cases hu
        exact ho _ rfl
      · split at hu
        · cases hu
          exact keeps_updArr _ _ (ho _ rfl)
        · cases hu

theorem keeps_sectionsDone {z s : State} (h : Keeps z s) : Keeps z (sectionsDone s) := by
  unfold sectionsDone
  split
  · exact h
  · dsimp only
    split
    · exact keeps_startChecks (keeps_updInst _ (keeps_foldl _ _ (keeps_loadColumns _ _ (keeps_refineBlocks _ h))
        (fun _ _ ht => keeps_updArr _ _ ht)))
    · split
      · exact keeps_failInst _ h
      · split
        · exact keeps_failInst _ h
        · have hp := keeps_placeBlocks _ h ‹_›
          exact keeps_installCheck (keeps_foldl _ _ (keeps_updInst _ (keeps_setSlot _ _ (keeps_loadColumns _ _
            (keeps_refineBlocks _ hp)))) (fun _ _ ht => keeps_requestAct _ (keeps_updArr _ _ ht)))

theorem keeps_sectCheck {z s : State} (ix : Nat) (b : List Byte) (body : SectBody) (x : InstRec) (left : List Nat) (h : Keeps z s) :
    Keeps z (sectCheck ix b body x left s) := by
  unfold sectCheck
  split
  · exact h
  · refine keeps_ite h (keeps_ite (keeps_failInst _ h) ?_)
    extract_lets -merge +onlyGivenNames rest next
    have hn : ∀ t, Keeps z t → Keeps z (next t) := fun t ht => keeps_ite (keeps_sectionsDone ht) ht
    split
    · exact hn _ (keeps_updInst _ (keeps_upd h (by rfl)))
    · exact keeps_failInst _ h
    · exact hn _ (keeps_updInst _ h)
    · exact hn _ (keeps_updInst _ h)

theorem keeps_feedArray {z s : State} (plain : List Byte) (a : Nat) (hk : Keeps z s) :
    Keeps z (feedArray plain s a) := by
  unfold feedArray
  split
  · assumption
  · extract_lets -merge x1
    split
    · assumption
    · refine keeps_ite ?_ ?_
      · refine keeps_failInst _ ?_
        assumption
      · refine keeps_updArr _ _ ?_
        refine keeps_countClamps _ ?_
        assumption

theorem keeps_sourceLost {z s : State} (n : Nat) (c : CompId) (hk : Keeps z s) :
    Keeps z (sourceLost n c s) := by
  unfold sourceLost
  extract_lets -merge x1 x2 x3 x4 x5
  have hx3 : Keeps z x3 := by
    unfold x3
    refine keeps_foldl _ _ ?_ (fun _ _ _ => ?_)
    · assumption
    · refine keeps_releaseProgram _ ?_
      assumption
  try clear_value x3
  have hx5 : Keeps z x5 := by
    unfold x5
    refine keeps_upd ?_ (by rfl)
    assumption
  try clear_value x5
  refine keeps_arbitrate ?_
  refine keeps_emitPart _ _ ?_
  refine keeps_setF _ _ ?_
  assumption

theorem keeps_chunkMismatch {z s : State} (lslot ix : Nat) (hk : Keeps z s) :
    Keeps z (chunkMismatch lslot ix s) := by
  unfold chunkMismatch
  extract_lets -merge x1
  have hx1 : Keeps z x1 := by
    unfold x1
    refine keeps_addF _ _ ?_
    assumption
  try clear_value x1
  split
  · assumption
  · extract_lets -merge x2 x3
    have hx3 : Keeps z x3 := by
      unfold x3
      refine keeps_updInst _ ?_
      assumption
    try clear_value x3
    refine keeps_ite ?_ ?_
    · refine keeps_failInst _ ?_
      assumption
    · refine keeps_sendTo _ _ _ _ _ _ ?_
      assumption

theorem keeps_chunkArrive {z s : State} (n lslot ix : Nat) (b : List Byte) (plain : Option (List Byte)) (bcast : Bool) (hk : Keeps z s) :
    Keeps z (chunkArrive n lslot ix b plain bcast s) := by
  unfold chunkArrive
  extract_lets -merge x1
  split
  · assumption
  · refine keeps_ite ?_ ?_
    · refine keeps_ite ?_ ?_
      · refine keeps_ite ?_ ?_
        · refine keeps_chunkMismatch _ _ ?_
          assumption
        · refine keeps_failInst _ ?_
          assumption
      · refine keeps_ite ?_ ?_
        · assumption
        · refine keeps_sourceLost _ _ ?_
          assumption
    · refine keeps_ite ?_ ?_
      · assumption
      · split
        · refine keeps_ite ?_ ?_
          · refine keeps_failInst _ ?_
            assumption
          · refine keeps_sourceLost _ _ ?_
            assumption
        · extract_lets -merge x2
          have hx2 : Keeps z x2 := by
            unfold x2
            refine keeps_ite ?_ ?_
            · refine keeps_updInst _ ?_
              assumption
            · assumption
          try clear_value x2
          refine keeps_foldl _ _ ?_ (fun _ _ _ => ?_)
          · assumption
          · refine keeps_feedArray _ _ ?_
            assumption

theorem keeps_takeComp {z s : State} (n : Nat) (c : ImgComp) (bcast : Bool) (hk : Keeps z s) :
    Keeps z (takeComp n c bcast s) := by
  unfold takeComp
  split
  · refine keeps_chunkArrive _ _ _ _ _ _ ?_
    assumption
  · refine keeps_ite ?_ ?_
    · refine keeps_rootCheck _ _ ?_
      assumption
    · assumption
  · extract_lets -merge x1
    have hx1 : Keeps z x1 := by
      unfold x1
      refine keeps_wrapCheck _ _ _ ?_
      assumption
    try clear_value x1
    refine keeps_ite ?_ ?_
    · refine keeps_ite ?_ ?_
      · refine keeps_sectionsDone ?_
        assumption
      · assumption
    · assumption
  · refine keeps_ite ?_ ?_
    · split
      · refine keeps_sectCheck _ _ _ _ _ ?_
        assumption
      · assumption
    · assumption
  · assumption

theorem keeps_sendComp {z s : State} (c : CompId) (hk : Keeps z s) :
    Keeps z (sendComp c s) := by
  unfold sendComp
  extract_lets -merge x1
  refine keeps_ite ?_ ?_
  · refine keeps_foldl _ _ ?_ (fun _ _ _ => ?_)
    · assumption
    · refine keeps_sendOn _ _ ?_
      assumption
  · assumption

theorem keeps_componentRead {z s : State} (n : Nat) (c : ImgComp) (readable : Bool) (hk : Keeps z s) :
    Keeps z (componentRead n c readable s) := by
  unfold componentRead
  refine keeps_ite ?_ ?_
  · assumption
  · refine keeps_ite ?_ ?_
    · refine keeps_sourceLost _ _ ?_
      assumption
    · refine keeps_takeComp _ _ _ ?_
      refine keeps_sendComp _ ?_
      assumption

theorem keeps_rewant {z s : State} (n lslot ix : Nat) (hk : Keeps z s) :
    Keeps z (rewant n lslot ix s) := by
  unfold rewant
  extract_lets -merge x1
  refine keeps_foldl _ _ ?_ (fun _ _ _ => ?_)
  · assumption
  · refine keeps_requestAct _ ?_
    assumption

theorem keeps_sourceRetry {z s : State} (n : Nat) (c : ImgComp) (readable : Bool) (hk : Keeps z s) :
    Keeps z (sourceRetry n c readable s) := by
  unfold sourceRetry
  extract_lets -merge x1 x2
  have hx2 : Keeps z x2 := by
    unfold x2
    refine keeps_upd ?_ (by rfl)
    assumption
  try clear_value x2
  split
  · assumption
  · refine keeps_ite ?_ ?_
    · assumption
    · refine keeps_ite ?_ ?_
      · refine keeps_sourceLost _ _ ?_
        assumption
      · split
        · refine keeps_rewant _ _ _ ?_
          assumption
        · refine keeps_takeComp _ _ _ ?_
          refine keeps_sendComp _ ?_
          assumption

theorem keeps_imageComponent {z s : State} (src : Nat) (c : ImgComp) (hk : Keeps z s) :
    Keeps z (imageComponent src c s) := by
  unfold imageComponent
  split
  · refine keeps_ite ?_ ?_
    · refine keeps_takeComp _ _ _ ?_
      refine keeps_updInst _ ?_
      assumption
    · assumption
  · assumption

theorem keeps_resendRequest {z s : State} (pod lslot ix : Nat) (hk : Keeps z s) :
    Keeps z (resendRequest pod lslot ix s) := by
  unfold resendRequest
  refine keeps_ite ?_ ?_
  · refine keeps_sendTo _ _ _ _ _ _ ?_
    assumption
  · assumption

theorem keeps_takeKept {z s : State} (a : Nat) (hk : Keeps z s) :
    Keeps z (takeKept a s) := by
  unfold takeKept
  split
  · refine keeps_ite ?_ ?_
    · split
      · refine keeps_feedArray _ _ ?_
        assumption
      · assumption
    · assumption
  · assumption

theorem keeps_retireJob {z s : State} (a cause : Nat) (j : Job) (hk : Keeps z s) :
    Keeps z (retireJob a cause j s) := by
  unfold retireJob
  extract_lets -merge x1
  have hx1 : Keeps z x1 := by
    unfold x1
    refine keeps_retire _ _ ?_
    refine keeps_updArr _ _ ?_
    assumption
  try clear_value x1
  split
  · split
    · refine keeps_retire _ _ ?_
      assumption
    · split
      · refine keeps_requestAct _ ?_
        refine keeps_updArr _ _ ?_
        assumption
      · refine keeps_failInst _ ?_
        assumption
  · extract_lets -merge x2
    have hx2 : Keeps z x2 := by
      unfold x2
      refine keeps_updArr _ _ ?_
      refine keeps_retire _ _ ?_
      assumption
    try clear_value x2
    refine keeps_ite ?_ ?_
    · refine keeps_enterQueued _ ?_
      assumption
    · assumption
  · refine keeps_retire _ _ ?_
    assumption

theorem keeps_programDone {z s : State} (a : Nat) (ok : Bool) (hk : Keeps z s) :
    Keeps z (programDone a ok s) := by
  unfold programDone
  extract_lets -merge x1 x2 x3
  have hx1 : Keeps z x1 := by
    unfold x1
    refine keeps_takeKept _ ?_
    assumption
  try clear_value x1
  have hx3 : Keeps z x3 := by
    unfold x3
    refine keeps_releaseProgram _ ?_
    refine keeps_programCycle _ ?_
    refine keeps_lifeAdd _ _ _ ?_
    refine keeps_addF _ _ ?_
    assumption
  try clear_value x3
  split
  · assumption
  · extract_lets -merge x4 x5
    have hx4 : Keeps z x4 := by
      unfold x4
      refine keeps_ite ?_ ?_
      · refine keeps_updArr _ _ ?_
        assumption
      · refine keeps_retireJob _ _ _ ?_
        assumption
    try clear_value x4
    have hx5 : Keeps z x5 := by
      unfold x5
      refine keeps_ite ?_ ?_
      · refine keeps_roundFirst _ ?_
        assumption
      · assumption
    try clear_value x5
    refine keeps_ite ?_ ?_
    · assumption
    · refine keeps_arbitrate ?_
      assumption

theorem keeps_relaxEnd {z s : State} (a : Nat) (hk : Keeps z s) :
    Keeps z (relaxEnd a s) := by
  unfold relaxEnd
  extract_lets -merge x1
  refine keeps_ite ?_ ?_
  · refine keeps_requestAct _ ?_
    refine keeps_updArr _ _ ?_
    assumption
  · assumption

theorem keeps_readbackPass {z s : State} (a : Nat) (j : Job) (hk : Keeps z s) :
    Keeps z (readbackPass a j s) := by
  unfold readbackPass
  extract_lets -merge x1
  have hx1 : Keeps z x1 := by
    unfold x1
    refine keeps_updArr _ _ ?_
    assumption
  try clear_value x1
  split
  · split
    · extract_lets -merge x2
      refine keeps_installCheck ?_
      refine keeps_setSlot _ _ ?_
      assumption
    · assumption
  · refine keeps_updArr _ _ ?_
    assumption
  · refine keeps_toSpare _ ?_
    refine keeps_roundFirst _ ?_
    refine keeps_markStale _ ?_
    refine keeps_updArr _ _ ?_
    assumption

theorem keeps_readbackFail {z s : State} (a rows : Nat) (j : Job) (hk : Keeps z s) :
    Keeps z (readbackFail a rows j s) := by
  unfold readbackFail
  extract_lets -merge x1 x2 x3
  have hx2 : Keeps z x2 := by
    unfold x2
    refine keeps_updArr _ _ ?_
    assumption
  try clear_value x2
  have hx3 : Keeps z x3 := by
    unfold x3
    refine keeps_addF _ _ ?_
    refine keeps_updArr _ _ ?_
    assumption
  try clear_value x3
  refine keeps_ite ?_ ?_
  · refine keeps_retireJob _ _ _ ?_
    assumption
  · refine keeps_ite ?_ ?_
    · refine keeps_retireJob _ _ _ ?_
      assumption
    · refine keeps_requestAct _ ?_
      assumption

theorem keeps_readbackDone {z s : State} (a rows : Nat) (ok : Bool) (hk : Keeps z s) :
    Keeps z (readbackDone a rows ok s) := by
  unfold readbackDone
  extract_lets -merge x1
  have hx1 : Keeps z x1 := by
    unfold x1
    refine keeps_releaseAct _ ?_
    assumption
  try clear_value x1
  refine keeps_ite ?_ ?_
  · assumption
  · split
    · assumption
    · refine keeps_touchUpStart ?_
      refine keeps_ite ?_ ?_
      · refine keeps_readbackPass _ _ ?_
        assumption
      · refine keeps_readbackFail _ _ _ ?_
        assumption

theorem keeps_diagnosticDone {z s : State} (a : Nat) (ok : Bool) (hk : Keeps z s) :
    Keeps z (diagnosticDone a ok s) := by
  unfold diagnosticDone
  extract_lets -merge x1 x2 x3 x4
  have hx1 : Keeps z x1 := by
    unfold x1
    refine keeps_releaseAct _ ?_
    assumption
  try clear_value x1
  have hx3 : Keeps z x3 := by
    unfold x3
    refine keeps_updArr _ _ ?_
    assumption
  try clear_value x3
  have hx4 : Keeps z x4 := by
    unfold x4
    refine keeps_ite ?_ ?_
    · refine keeps_markStale _ ?_
      refine keeps_addF _ _ ?_
      assumption
    · assumption
  try clear_value x4
  refine keeps_ite ?_ ?_
  · assumption
  · refine keeps_ite ?_ ?_
    · refine keeps_touchUpStart ?_
      refine keeps_arbitrate ?_
      refine keeps_toSpare _ ?_
      refine keeps_updArr _ _ ?_
      assumption
    · refine keeps_requestAct _ ?_
      refine keeps_setArrState _ _ ?_
      assumption

theorem keeps_startupDone {z s : State} (a : Nat) (ok : Bool) (hk : Keeps z s) :
    Keeps z (startupDone a ok s) := by
  unfold startupDone
  extract_lets -merge x1 x2
  have hx1 : Keeps z x1 := by
    unfold x1
    refine keeps_releaseAct _ ?_
    assumption
  try clear_value x1
  have hx2 : Keeps z x2 := by
    unfold x2
    refine keeps_ite ?_ ?_
    · refine keeps_enterQueued _ ?_
      assumption
    · assumption
  try clear_value x2
  refine keeps_ite ?_ ?_
  · assumption
  · split
    · extract_lets -merge x3 x4
      have hx4 : Keeps z x4 := by
        unfold x4
        refine keeps_updInst _ ?_
        assumption
      try clear_value x4
      refine keeps_ite ?_ ?_
      · refine keeps_attachDone ?_
        assumption
      · assumption
    · assumption

theorem keeps_ageArray {z s : State} (a : Nat) (hk : Keeps z s) :
    Keeps z (ageArray s a) := by
  unfold ageArray
  extract_lets -merge x1 x2 x3
  refine keeps_ite ?_ ?_
  · assumption
  · refine keeps_ite ?_ ?_
    · refine keeps_emitPart _ _ ?_
      refine keeps_addF _ _ ?_
      refine keeps_setF _ _ ?_
      refine keeps_setArr _ _ ?_
      assumption
    · refine keeps_setArr _ _ ?_
      assumption

theorem keeps_driftTick {z s : State} (hk : Keeps z s) :
    Keeps z (driftTick s) := by
  unfold driftTick
  extract_lets -merge x1 x2
  have hx1 : Keeps z x1 := by
    unfold x1
    refine keeps_foldl _ _ ?_ (fun _ _ _ => ?_)
    · assumption
    · refine keeps_ageArray _ ?_
      assumption
  try clear_value x1
  refine keeps_touchUpStart ?_
  refine keeps_upd ?_ (by rfl)
  assumption

theorem keeps_initialCalibrationEnd {z s : State} (hk : Keeps z s) :
    Keeps z (initialCalibrationEnd s) := by
  unfold initialCalibrationEnd
  refine keeps_ite ?_ ?_
  · refine keeps_startChecks ?_
    refine keeps_setF _ _ ?_
    assumption
  · assumption

end Sys2Proof.Machine
end

