-- ==== Sys2Proof/Laws/KeepsCommit.lean ====
section
/-! SUPPORT. What the operations of Machine/Commit.lean keep. -/

namespace Sys2Proof.Machine
open Sys2Proof

theorem keeps_putKey {z s : State} (k v : Nat) (hk : Keeps z s) :
    Keeps z (putKey k v s) := by
  unfold putKey
  split
  · refine keeps_setF _ _ ?_
    assumption
  · assumption

theorem keeps_clamped {z s : State} (k v : Nat) (hk : Keeps z s) :
    Keeps z (clamped k v s).2 := by
  unfold clamped
  extract_lets -merge x1
  refine keeps2_mk ?_
  refine keeps_ite ?_ ?_
  · assumption
  · refine keeps_countClamp _ ?_
    assumption

theorem keeps_formatChange {z s : State} (l : Nat) (hk : Keeps z s) :
    Keeps z (formatChange l s) := by
  unfold formatChange
  extract_lets -merge x1 x2 x3
  have hx2 : Keeps z x2 := by
    unfold x2
    refine keeps_sealWhere _ _ ?_
    assumption
  try clear_value x2
  have hx3 : Keeps z x3 := by
    unfold x3
    refine keeps_foldl _ _ ?_ (fun _ _ _ => ?_)
    · assumption
    · refine keeps_ite ?_ ?_
      · assumption
      · refine keeps_foldl _ _ ?_ (fun _ _ _ => ?_)
        · assumption
        · refine keeps_ite ?_ ?_
          · refine keeps_openFor _ _ _ _ _ _ ?_
            assumption
          · assumption
  try clear_value x3
  refine keeps_ite ?_ ?_
  · refine keeps_sramPut _ _ ?_
    assumption
  · assumption

theorem keeps_epochSelect {z s : State} (v : Nat) (hk : Keeps z s) :
    Keeps z (epochSelect v s) := by
  unfold epochSelect
  refine keeps_ite ?_ ?_
  · refine keeps_setF _ _ ?_
    assumption
  · refine keeps_countIgnored _ ?_
    refine keeps_setF _ _ ?_
    assumption

theorem keeps_applyValue {z s : State} (x : Nat × Nat) (hk : Keeps z s) :
    Keeps z (applyValue s x) := by
  unfold applyValue
  extract_lets -merge x1 x2 x3 x4 x5
  have hx5 : Keeps z x5 := by
    unfold x5
    refine keeps_putKey _ _ ?_
    assumption
  try clear_value x5
  refine keeps_ite ?_ ?_
  · refine keeps_epochSelect _ ?_
    assumption
  · refine keeps_ite ?_ ?_
    · refine keeps_setF _ _ ?_
      assumption
    · refine keeps_ite ?_ ?_
      · refine keeps_setF _ _ ?_
        assumption
      · refine keeps_ite ?_ ?_
        · refine keeps_setF _ _ ?_
          assumption
        · refine keeps_ite ?_ ?_
          · refine keeps_formatChange _ ?_
            assumption
          · assumption

theorem keeps_crossClamp {z s : State} (f : Field) (v : Nat) (hk : Keeps z s) :
    Keeps z (crossClamp f v s) := by
  unfold crossClamp
  refine keeps_ite ?_ ?_
  · assumption
  · refine keeps_countClamp _ ?_
    refine keeps_setF _ _ ?_
    assumption

theorem keeps_confirmRule {z s : State} (p : Nat) (hk : Keeps z s) :
    Keeps z (confirmRule p s) := by
  unfold confirmRule
  extract_lets -merge x1
  refine keeps_ite ?_ ?_
  · refine keeps_crossClamp _ _ ?_
    assumption
  · assumption

theorem keeps_widenPass {z s : State} (ls : List (Nat × Nat)) (hk : Keeps z s) :
    Keeps z (widenPass ls s) := by
  unfold widenPass
  refine keeps_foldl _ _ ?_ (fun _ _ _ => ?_)
  · assumption
  · refine keeps_setF _ _ ?_
    assumption

theorem keeps_widenPasses {z s : State} (ls : List (Nat × Nat)) (k_ : Nat) (hk : Keeps z s) :
    Keeps z (widenPasses ls k_ s) := by
  induction k_ generalizing s with
  | zero =>
    rw [widenPasses]
    assumption
  | succ _ ih =>
    rw [widenPasses]
    refine ih ?_
    refine keeps_widenPass _ ?_
    assumption

theorem keeps_widthRule {z s : State} (hk : Keeps z s) :
    Keeps z (widthRule s) := by
  unfold widthRule
  extract_lets -merge x1 x2
  have hx2 : Keeps z x2 := by
    unfold x2
    refine keeps_widenPasses _ _ ?_
    assumption
  try clear_value x2
  refine keeps_foldl _ _ ?_ (fun _ _ _ => ?_)
  · assumption
  · refine keeps_crossClamp _ _ ?_
    assumption

theorem keeps_shareRule {z s : State} (start : Bool) (hk : Keeps z s) :
    Keeps z (shareRule start s) := by
  unfold shareRule
  extract_lets -merge x0 x1 x2
  have hx0 : Keeps z x0 := by
    unfold x0
    refine keeps_ite ?_ ?_
    · refine keeps_setF _ _ ?_
      assumption
    · assumption
  try clear_value x0
  have hx2 : Keeps z x2 := by
    unfold x2
    refine keeps_ite ?_ ?_
    · refine keeps_crossClamp _ _ ?_
      assumption
    · assumption
  try clear_value x2
  refine keeps_ite ?_ ?_
  · refine keeps_setF _ _ ?_
    assumption
  · assumption

theorem keeps_sizeRule {z s : State} (hk : Keeps z s) :
    Keeps z (sizeRule s) := by
  unfold sizeRule
  extract_lets -merge x1
  refine keeps_ite ?_ ?_
  · refine keeps_crossClamp _ _ ?_
    assumption
  · assumption

theorem keeps_waterRule {z s : State} (hk : Keeps z s) :
    Keeps z (waterRule s) := by
  unfold waterRule
  extract_lets -merge x1
  refine keeps_ite ?_ ?_
  · refine keeps_crossClamp _ _ ?_
    assumption
  · assumption

theorem keeps_groupRules {z s : State} (start : Bool) (hk : Keeps z s) :
    Keeps z (groupRules start s) := by
  unfold groupRules
  refine keeps_waterRule ?_
  refine keeps_sizeRule ?_
  refine keeps_shareRule _ ?_
  refine keeps_widthRule ?_
  assumption

theorem keeps_applyValues {z s : State} (l : List (Nat × Nat)) (hk : Keeps z s) :
    Keeps z (applyValues l s) := by
  unfold applyValues
  extract_lets -merge x0 x1
  have hx1 : Keeps z x1 := by
    unfold x1
    refine keeps_foldl _ _ ?_ (fun _ _ _ => ?_)
    · assumption
    · refine keeps_applyValue _ ?_
      assumption
  try clear_value x1
  refine keeps_groupRules _ ?_
  refine keeps_foldl _ _ ?_ (fun _ _ _ => ?_)
  · assumption
  · refine keeps_confirmRule _ ?_
    assumption

theorem keeps_updCfg {z s : State} (f : CfgState → CfgState) (hk : Keeps z s) :
    Keeps z (updCfg f s) := by
  unfold updCfg
  refine keeps_upd ?_ (by rfl)
  assumption

theorem keeps_commitDiscard {z s : State} (hk : Keeps z s) :
    Keeps z (commitDiscard s) := by
  unfold commitDiscard
  refine keeps_updCfg _ ?_
  assumption

theorem keeps_commitClose {z s : State} (at_ : Option Nat) (hk : Keeps z s) :
    Keeps z (commitClose at_ s) := by
  unfold commitClose
  extract_lets -merge x1
  have hx1 : Keeps z x1 := by
    unfold x1
    refine keeps_addF _ _ ?_
    assumption
  try clear_value x1
  refine keeps_ite ?_ ?_
  · refine keeps_countIgnored _ ?_
    assumption
  · refine keeps_updCfg _ ?_
    assumption

theorem keeps_commitGo {z s : State} (discard : Bool) (hk : Keeps z s) :
    Keeps z (commitGo discard s) := by
  unfold commitGo
  refine keeps_commitClose _ ?_
  refine keeps_ite ?_ ?_
  · refine keeps_commitDiscard ?_
    assumption
  · assumption

theorem keeps_commitGoAt {z s : State} (discard : Bool) (hk : Keeps z s) :
    Keeps z (commitGoAt discard s) := by
  unfold commitGoAt
  refine keeps_commitClose _ ?_
  refine keeps_ite ?_ ?_
  · refine keeps_commitDiscard ?_
    assumption
  · assumption

end Sys2Proof.Machine
end

