-- ==== Sys2Proof/Laws/KeepsLink.lean ====
section
/-! SUPPORT. What the operations of Machine/Link.lean keep. -/

namespace Sys2Proof.Machine
open Sys2Proof

theorem keeps_updPort {z s : State} (n : Nat) (f : PortState → PortState) (hk : Keeps z s) :
    Keeps z (updPort n f s) := by
  unfold updPort
  extract_lets -merge x1
  refine keeps_upd ?_ (by rfl)
  assumption

theorem keeps_setPortState {z s : State} (n v : Nat) (hk : Keeps z s) :
    Keeps z (setPortState n v s) := by
  unfold setPortState
  refine keeps_setF _ _ ?_
  assumption

theorem keeps_countShares {z s : State} (l : List (Nat × Nat)) (hk : Keeps z s) :
    Keeps z (countShares l s) := by
  unfold countShares
  refine keeps_foldl _ _ ?_ (fun _ _ _ => ?_)
  · assumption
  · refine keeps_meterAdd _ _ _ ?_
    assumption

theorem keeps_takeHead {z s : State} (n : Nat) (h : FlitHead) (hk : Keeps z s) :
    Keeps z (takeHead n h s) := by
  unfold takeHead
  extract_lets -merge x1 x2 x3
  have hx1 : Keeps z x1 := by
    unfold x1
    refine keeps_updPort _ _ ?_
    assumption
  try clear_value x1
  have hx2 : Keeps z x2 := by
    unfold x2
    refine keeps_ite ?_ ?_
    · assumption
    · refine keeps_satF _ _ ?_
      assumption
  try clear_value x2
  refine keeps_ite ?_ ?_
  · refine keeps_lifeAdd _ _ _ ?_
    refine keeps_addF _ _ ?_
    refine keeps_updPort _ _ ?_
    assumption
  · assumption

theorem keeps_acceptFlit {z s : State} (n : Nat) (f : Flit) (hk : Keeps z s) :
    Keeps z (acceptFlit n f s) := by
  unfold acceptFlit
  extract_lets -merge x1 x2
  refine keeps_countShares _ ?_
  refine keeps_addF _ _ ?_
  refine keeps_updPort _ _ ?_
  assumption

theorem keeps_flitReceive {z s : State} (n : Nat) (f : Flit) (hk : Keeps z s) :
    Keeps z (flitReceive n f s) := by
  unfold flitReceive
  extract_lets -merge x1 x2 x3 x4
  have hx2 : Keeps z x2 := by
    unfold x2
    refine keeps_domCorrected _ _ ?_
    refine keeps_addF _ _ ?_
    refine keeps_updPort _ _ ?_
    assumption
  try clear_value x2
  have hx4 : Keeps z x4 := by
    unfold x4
    refine keeps_takeHead _ _ ?_
    assumption
  try clear_value x4
  refine keeps_ite ?_ ?_
  · assumption
  · refine keeps_ite ?_ ?_
    · refine keeps_domUncorrected _ _ ?_
      refine keeps_addF _ _ ?_
      refine keeps_updPort _ _ ?_
      assumption
    · refine keeps_ite ?_ ?_
      · assumption
      · refine keeps_ite ?_ ?_
        · assumption
        · refine keeps_ite ?_ ?_
          · refine keeps_acceptFlit _ _ ?_
            assumption
          · assumption

theorem keeps_nakResend {z s : State} (n : Nat) (hk : Keeps z s) :
    Keeps z (nakResend n s) := by
  unfold nakResend
  split
  · refine keeps_ite ?_ ?_
    · refine keeps_updPort _ _ ?_
      assumption
    · assumption
  · assumption

theorem keeps_sendHead {z s : State} (n fseq vc : Nat) (null : Bool) (hk : Keeps z s) :
    Keeps z (sendHead n fseq vc null s) := by
  unfold sendHead
  extract_lets -merge x1 x2 x3
  refine keeps_updPort _ _ ?_
  assumption

theorem keeps_sendAgain {z s : State} (n : Nat) (f : TxFlit) (hk : Keeps z s) :
    Keeps z (sendAgain n f s) := by
  unfold sendAgain
  extract_lets -merge x1 x2 x3
  have hx1 : Keeps z x1 := by
    unfold x1
    refine keeps_sendHead _ _ _ _ ?_
    assumption
  try clear_value x1
  have hx3 : Keeps z x3 := by
    unfold x3
    refine keeps_updPort _ _ ?_
    assumption
  try clear_value x3
  refine keeps_ite ?_ ?_
  · refine keeps_leaveUp _ ?_
    assumption
  · assumption

theorem keeps_sendNew {z s : State} (n vc : Nat) (hk : Keeps z s) :
    Keeps z (sendNew n vc s) := by
  unfold sendNew
  extract_lets -merge x1 x2 x3 x4
  have hx3 : Keeps z x3 := by
    unfold x3
    refine keeps_sendHead _ _ _ _ ?_
    assumption
  try clear_value x3
  split
  · assumption
  · extract_lets -merge x5 x6 x7
    have hx6 : Keeps z x6 := by
      unfold x6
      refine keeps_updPort _ _ ?_
      assumption
    try clear_value x6
    have hx7 : Keeps z x7 := by
      unfold x7
      refine keeps_addF _ _ ?_
      refine keeps_setF _ _ ?_
      assumption
    try clear_value x7
    refine keeps_ite ?_ ?_
    · refine keeps_countShares _ ?_
      assumption
    · assumption

theorem keeps_flitTime {z s : State} (n : Nat) (hk : Keeps z s) :
    Keeps z (flitTime n s) := by
  unfold flitTime
  refine keeps_ite ?_ ?_
  · refine keeps_sendHead _ _ _ _ ?_
    assumption
  · refine keeps_ite ?_ ?_
    · assumption
    · split
      · refine keeps_sendAgain _ _ ?_
        assumption
      · split
        · refine keeps_sendNew _ _ ?_
          assumption
        · refine keeps_updPort _ _ ?_
          refine keeps_sendHead _ _ _ _ ?_
          assumption

theorem keeps_toLight {z s : State} (n attempts : Nat) (hk : Keeps z s) :
    Keeps z (toLight n attempts s) := by
  unfold toLight
  refine keeps_setPortState _ _ ?_
  refine keeps_setF _ _ ?_
  refine keeps_updPort _ _ ?_
  assumption

theorem keeps_linkEnable {z s : State} (n : Nat) (hk : Keeps z s) :
    Keeps z (linkEnable n s) := by
  unfold linkEnable
  extract_lets -merge x1
  have hx1 : Keeps z x1 := by
    unfold x1
    refine keeps_setF _ _ ?_
    assumption
  try clear_value x1
  refine keeps_ite ?_ ?_
  · refine keeps_toLight _ _ ?_
    assumption
  · assumption

theorem keeps_portDark {z s : State} (n : Nat) (hk : Keeps z s) :
    Keeps z (portDark n s) := by
  unfold portDark
  refine keeps_setPortState _ _ ?_
  refine keeps_setF _ _ ?_
  refine keeps_setF _ _ ?_
  refine keeps_updPort _ _ ?_
  assumption

theorem keeps_linkRetrain {z s : State} (n : Nat) (hk : Keeps z s) :
    Keeps z (linkRetrain n s) := by
  unfold linkRetrain
  refine keeps_ite ?_ ?_
  · refine keeps_leaveUp _ ?_
    assumption
  · refine keeps_ite ?_ ?_
    · refine keeps_toLight _ _ ?_
      assumption
    · assumption

theorem keeps_lightWindow {z s : State} (n : Nat) (pwr : Word) (hk : Keeps z s) :
    Keeps z (lightWindow n pwr s) := by
  unfold lightWindow
  extract_lets -merge x1
  have hx1 : Keeps z x1 := by
    unfold x1
    refine keeps_setF _ _ ?_
    assumption
  try clear_value x1
  refine keeps_ite ?_ ?_
  · refine keeps_ite ?_ ?_
    · refine keeps_setPortState _ _ ?_
      assumption
    · assumption
  · assumption

theorem keeps_lightLow {z s : State} (n : Nat) (hk : Keeps z s) :
    Keeps z (lightLow n s) := by
  unfold lightLow
  refine keeps_ite ?_ ?_
  · refine keeps_setF _ _ ?_
    assumption
  · assumption

theorem keeps_laneLock {z s : State} (n : Nat) (hk : Keeps z s) :
    Keeps z (laneLock n s) := by
  unfold laneLock
  refine keeps_ite ?_ ?_
  · refine keeps_setPortState _ _ ?_
    refine keeps_setF _ _ ?_
    assumption
  · assumption

theorem keeps_deskew {z s : State} (n : Nat) (skew : Word) (hk : Keeps z s) :
    Keeps z (deskew n skew s) := by
  unfold deskew
  extract_lets -merge x1
  have hx1 : Keeps z x1 := by
    unfold x1
    refine keeps_setF _ _ ?_
    assumption
  try clear_value x1
  refine keeps_ite ?_ ?_
  · refine keeps_ite ?_ ?_
    · refine keeps_setPortState _ _ ?_
      assumption
    · assumption
  · assumption

theorem keeps_fecLock {z s : State} (n : Nat) (hk : Keeps z s) :
    Keeps z (fecLock n s) := by
  unfold fecLock
  refine keeps_ite ?_ ?_
  · refine keeps_setPortState _ _ ?_
    assumption
  · assumption

theorem keeps_peerIdentity {z s : State} (n pod port ack : Nat) (creds : List Nat) (hk : Keeps z s) :
    Keeps z (peerIdentity n pod port ack creds s) := by
  unfold peerIdentity
  extract_lets -merge x1 x2
  have hx1 : Keeps z x1 := by
    unfold x1
    refine keeps_setF _ _ ?_
    refine keeps_setF _ _ ?_
    assumption
  try clear_value x1
  have hx2 : Keeps z x2 := by
    unfold x2
    refine keeps_foldl _ _ ?_ (fun _ _ _ => ?_)
    · assumption
    · refine keeps_setF _ _ ?_
      assumption
  try clear_value x2
  refine keeps_ite ?_ ?_
  · refine keeps_ite ?_ ?_
    · refine keeps_setPortState _ _ ?_
      refine keeps_updPort _ _ ?_
      assumption
    · refine keeps_setPortState _ _ ?_
      refine keeps_emitPart _ _ ?_
      refine keeps_setF _ _ ?_
      assumption
  · assumption

theorem keeps_laneUnlock {z s : State} (n : Nat) (hk : Keeps z s) :
    Keeps z (laneUnlock n s) := by
  unfold laneUnlock
  refine keeps_ite ?_ ?_
  · refine keeps_leaveUp _ ?_
    assumption
  · assumption

theorem keeps_lightLoss {z s : State} (lin1 : Bool) (w : Nat) (hk : Keeps z s) :
    Keeps z (lightLoss lin1 w s) := by
  unfold lightLoss
  extract_lets -merge x1
  have hx1 : Keeps z x1 := by
    unfold x1
    refine keeps_setF _ _ ?_
    assumption
  try clear_value x1
  refine keeps_foldl _ _ ?_ (fun _ _ _ => ?_)
  · assumption
  · refine keeps_laneUnlock _ ?_
    assumption

end Sys2Proof.Machine
end

