-- ==== Sys2Proof/Laws/KeepsOutput.lean ====
section
/-! SUPPORT. What the operations of Machine/Output.lean keep. -/

namespace Sys2Proof.Machine
open Sys2Proof

theorem keeps_watchJump {z s : State} (p : Nat) (t : VecTag) (hk : Keeps z s) :
    Keeps z (watchJump p t s) := by
  unfold watchJump
  extract_lets -merge x1 x2 x3
  have hx1 : Keeps z x1 := by
    unfold x1
    refine keeps_addF _ _ ?_
    assumption
  try clear_value x1
  have hx2 : Keeps z x2 := by
    unfold x2
    refine keeps_setF _ _ ?_
    refine keeps_setF _ _ ?_
    refine keeps_setF _ _ ?_
    assumption
  try clear_value x2
  have hx3 : Keeps z x3 := by
    unfold x3
    refine keeps_flagAdd _ _ _ _ ?_
    assumption
  try clear_value x3
  refine keeps_flagAdd _ _ _ _ ?_
  assumption

theorem keeps_normWatch {z s : State} (p : Nat) (t : VecTag) (skipped : Bool) (l : List Nat) (h : Keeps z s) :
    Keeps z (normWatch p t skipped l s) := by
  unfold normWatch
  refine keeps_ite h ?_
  extract_lets -merge +onlyGivenNames n2 ni warm
  refine keeps_ite (keeps_ite h (keeps_watchJump _ _ (keeps_setF _ _ h))) ?_
  extract_lets -merge +onlyGivenNames r2 ri alpha put
  have hp : ∀ a b t, Keeps z t → Keeps z (put a b t) := fun a b t ht => keeps_setF _ _ (keeps_setF _ _ ht)
  refine keeps_ite ?_ ?_
  · extract_lets -merge +onlyGivenNames n mean s1
    have h1 : Keeps z s1 := hp _ _ _ (keeps_updPnt _ _ h)
    exact keeps_ite (keeps_setF _ _ h1) h1
  · extract_lets -merge +onlyGivenNames q j2 ji jl s1 s2 s3 s4 next
    have h1 : Keeps z s1 := keeps_ite (keeps_setF _ _ h) h
    have h2 : Keeps z s2 := keeps_ite (keeps_setF _ _ h1) h1
    have h3 : Keeps z s3 := keeps_ite (keeps_setF _ _ h2) h2
    have h4 : Keeps z s4 := keeps_ite (keeps_watchJump _ _ h3) h3
    exact hp _ _ _ h4

theorem keeps_storeVec {z s : State} (cls : OutClass) (c m : Nat) (x : Conv) (addr : Option (Nat × Nat)) (hk : Keeps z s) :
    Keeps z (storeVec cls c m x addr s) := by
  unfold storeVec
  split
  · refine keeps_storeSram _ _ ?_
    refine keeps_storeSram _ _ ?_
    assumption
  · refine keeps_storeSram _ _ ?_
    refine keeps_storeSram _ _ ?_
    assumption
  · assumption

theorem keeps_deliverOut {z s : State} (p : Nat) (t : VecTag) (l : List Nat) (hk : Keeps z s) :
    Keeps z (deliverOut p t l s) := by
  unfold deliverOut
  extract_lets -merge x1 x2 x3 x4 x5 x6 x7
  have hx4 : Keeps z x4 := by
    unfold x4
    refine keeps_addF _ _ ?_
    assumption
  try clear_value x4
  have hx5 : Keeps z x5 := by
    unfold x5
    refine keeps_addF _ _ ?_
    refine keeps_addF _ _ ?_
    assumption
  try clear_value x5
  have hx7 : Keeps z x7 := by
    unfold x7
    refine keeps_updPnt _ _ ?_
    assumption
  try clear_value x7
  refine keeps_storeVec _ _ _ _ _ ?_
  refine keeps_addF _ _ ?_
  assumption

theorem keeps_finishVector {z s : State} (p : Nat) (t : VecTag) (skipped : Bool) (l : List Nat) (hk : Keeps z s) :
    Keeps z (finishVector p t skipped l s) := by
  unfold finishVector
  extract_lets -merge x1 x2 x3 x4 x5 x6
  have hx4 : Keeps z x4 := by
    unfold x4
    refine keeps_updPnt _ _ ?_
    assumption
  try clear_value x4
  refine keeps_ite ?_ ?_
  · refine keeps_ite ?_ ?_
    · refine keeps_updPnt _ _ ?_
      assumption
    · refine keeps_deliverOut _ _ _ ?_
      refine keeps_normWatch _ _ _ _ ?_
      assumption
  · refine keeps_deliverOut _ _ _ ?_
    refine keeps_normWatch _ _ _ _ ?_
    assumption

theorem keeps_gateMeet {z s : State} (p : Nat) (hk : Keeps z s) :
    Keeps z (gateMeet p s) := by
  unfold gateMeet
  extract_lets -merge x1
  split
  · extract_lets -merge x2
    have hx2 : Keeps z x2 := by
      unfold x2
      refine keeps_updPnt _ _ ?_
      assumption
    try clear_value x2
    refine keeps_finishVector _ _ _ _ ?_
    assumption
  · assumption

theorem keeps_columnCheck {z s : State} (p : Nat) (ecc : Ecc) (cols : List Nat) (hk : Keeps z s) :
    Keeps z (columnCheck p ecc cols s) := by
  unfold columnCheck
  extract_lets -merge x1 x2
  have hx2 : Keeps z x2 := by
    unfold x2
    refine keeps_domUncorrected _ _ ?_
    assumption
  try clear_value x2
  split
  · assumption
  · refine keeps_domCorrected _ _ ?_
    assumption
  · refine keeps_ite ?_ ?_
    · assumption
    · refine keeps_report _ _ _ ?_
      refine keeps_updPnt _ _ ?_
      assumption

theorem keeps_outputVector {z s : State} (p : Nat) (ecc : Ecc) (bad : List Nat) (hk : Keeps z s) :
    Keeps z (outputVector p ecc bad s) := by
  unfold outputVector
  extract_lets -merge x1
  have hx1 : Keeps z x1 := by
    unfold x1
    refine keeps_columnCheck _ _ _ ?_
    assumption
  try clear_value x1
  split
  · assumption
  · extract_lets -merge x2 x3 x4 x5 x6 x7 x8 x9 x10 x11 x12
    clear_value x3 x4
    have hx7 : Keeps z x7 := by
      unfold x7
      refine keeps_addF _ _ ?_
      assumption
    try clear_value x7
    have hx8 : Keeps z x8 := by
      unfold x8
      split
      · refine keeps_addF _ _ ?_
        assumption
      · assumption
    try clear_value x8
    have hx9 : Keeps z x9 := by
      unfold x9
      refine keeps_foldl _ _ ?_ (fun _ _ _ => ?_)
      · assumption
      · refine keeps_updPnt _ _ ?_
        assumption
    try clear_value x9
    refine keeps_ite ?_ ?_
    · assumption
    · refine keeps_ite ?_ ?_
      · refine keeps_updPnt _ _ ?_
        assumption
      · refine keeps_ite ?_ ?_
        · refine keeps_gateMeet _ ?_
          refine keeps_updPnt _ _ ?_
          assumption
        · refine keeps_finishVector _ _ _ _ ?_
          assumption

theorem keeps_adapterDelta {z s : State} (p vid late : Nat) (hk : Keeps z s) :
    Keeps z (adapterDelta p vid late s) := by
  unfold adapterDelta
  split
  · assumption
  · extract_lets -merge x1
    have hx1 : Keeps z x1 := by
      unfold x1
      refine keeps_updPnt _ _ ?_
      assumption
    try clear_value x1
    refine keeps_ite ?_ ?_
    · assumption
    · refine keeps_addF _ _ ?_
      refine keeps_setF _ _ ?_
      assumption

theorem keeps_accSelWrite {z s : State} (p col : Nat) (hk : Keeps z s) :
    Keeps z (accSelWrite p col s) := by
  unfold accSelWrite
  refine keeps_updPnt _ _ ?_
  refine keeps_setF _ _ ?_
  refine keeps_setF _ _ ?_
  assumption

theorem keeps_accSnapshot {z s : State} (p : Nat) (hk : Keeps z s) :
    Keeps z (accSnapshot p s) := by
  unfold accSnapshot
  extract_lets -merge x1 x2 x3 x4 x5 x6
  have hx5 : Keeps z x5 := by
    unfold x5
    refine keeps_setF _ _ ?_
    refine keeps_setF _ _ ?_
    assumption
  try clear_value x5
  have hx6 : Keeps z x6 := by
    unfold x6
    refine keeps_setF _ _ ?_
    refine keeps_setF _ _ ?_
    assumption
  try clear_value x6
  refine keeps_ite ?_ ?_
  · refine keeps_setPnt _ _ ?_
    assumption
  · assumption

theorem keeps_actDataAccess {z s : State} (p : Nat) (v : Option Nat) (hk : Keeps z s) :
    Keeps z (actDataAccess p v s) := by
  unfold actDataAccess
  extract_lets -merge x1 x2 x3
  have hx3 : Keeps z x3 := by
    unfold x3
    split
    · refine keeps_upd ?_ (by rfl)
      assumption
    · refine keeps_ite ?_ ?_
      · refine keeps_countIgnored _ ?_
        assumption
      · refine keeps_ite ?_ ?_
        · assumption
        · refine keeps_updPnt _ _ ?_
          assumption
  try clear_value x3
  refine keeps_setF _ _ ?_
  assumption

end Sys2Proof.Machine
end

