-- ==== Sys2Proof/Laws/KeepsVector.lean ====
section
/-! SUPPORT. What the operations of Machine/Vector.lean keep. -/

namespace Sys2Proof.Machine
open Sys2Proof

theorem keeps_updVec {z s : State} (v : Nat) (f : VecRec → VecRec) (hk : Keeps z s) :
    Keeps z (updVec v f s) := by
  unfold updVec
  refine keeps_upd ?_ (by rfl)
  assumption

theorem keeps_deliverVec {z s : State} (v : Nat) (d : VecDst) (l : List Nat) (hk : Keeps z s) :
    Keeps z (deliverVec v d l s) := by
  unfold deliverVec
  extract_lets -merge x1 x2 x3 x4 x5 x6
  have hx4 : Keeps z x4 := by
    unfold x4
    refine keeps_addF _ _ ?_
    assumption
  try clear_value x4
  have hx5 : Keeps z x5 := by
    unfold x5
    refine keeps_addF _ _ ?_
    refine keeps_addF _ _ ?_
    assumption
  try clear_value x5
  refine keeps_storeVec _ _ _ _ _ ?_
  refine keeps_updVec _ _ ?_
  assumption

theorem keeps_countOps {z s : State} (ten dense element func : Nat) (hk : Keeps z s) :
    Keeps z (countOps ten dense element func s) := by
  unfold countOps
  refine keeps_meterAdd _ _ _ ?_
  refine keeps_meterAdd _ _ _ ?_
  refine keeps_meterAdd _ _ _ ?_
  assumption

theorem keeps_attend {z s : State} (v step : Nat) (a : AttendOp) (hk : Keeps z s) :
    Keeps z (attend v step a s) := by
  unfold attend
  extract_lets -merge x1
  split
  · extract_lets -merge x2 x3 x4 x5 x6 x7 x8 x9 x10 x11
    have hx10 : Keeps z x10 := by
      unfold x10
      refine keeps_addF _ _ ?_
      assumption
    try clear_value x10
    have hx11 : Keeps z x11 := by
      unfold x11
      refine keeps_countOps _ _ _ _ ?_
      assumption
    try clear_value x11
    refine keeps_ite ?_ (keeps_ite ?_ ?_)
    · refine keeps_failHere _ _ ?_
      assumption
    · refine keeps_failHere _ _ ?_
      assumption
    · refine keeps_updVec _ _ ?_
      assumption
  · assumption

theorem keeps_completeCombine {z s : State} (v cid : Nat) (hk : Keeps z s) :
    Keeps z (completeCombine v cid s) := by
  unfold completeCombine
  split
  · assumption
  · extract_lets -merge x1 x2 x3 x4
    have hx3 : Keeps z x3 := by
      unfold x3
      refine keeps_ite ?_ ?_
      · refine keeps_addF _ _ ?_
        assumption
      · assumption
    try clear_value x3
    have hx4 : Keeps z x4 := by
      unfold x4
      refine keeps_countOps _ _ _ _ ?_
      assumption
    try clear_value x4
    refine keeps_ite ?_ ?_
    · assumption
    · refine keeps_deliverVec _ _ _ ?_
      refine keeps_updVec _ _ ?_
      assumption

theorem keeps_partialRecord {z s : State} (v cid : Nat) (p : PartialRec) (hk : Keeps z s) :
    Keeps z (partialRecord v cid p s) := by
  unfold partialRecord
  extract_lets -merge x1 x2
  split
  · assumption
  · refine keeps_ite ?_ ?_
    · refine keeps_completeCombine _ _ ?_
      refine keeps_updVec _ _ ?_
      assumption
    · refine keeps_failHere _ _ ?_
      assumption

theorem keeps_handPartial {z s : State} (v step lslot ten seq head pos holder unit cid : Nat) (pod : Option Nat) (hk : Keeps z s) :
    Keeps z (handPartial v step lslot ten seq head pos holder unit cid pod s) := by
  unfold handPartial
  split
  · assumption
  · extract_lets -merge x1
    have hx1 : Keeps z x1 := by
      unfold x1
      refine keeps_updVec _ _ ?_
      assumption
    try clear_value x1
    split
    · refine keeps_partialRecord _ _ _ ?_
      assumption
    · refine keeps_sendTo _ _ _ _ _ _ ?_
      assumption

theorem keeps_summarise {z s : State} (lslot seq blk addr dst : Nat) (hk : Keeps z s) :
    Keeps z (summarise lslot seq blk addr dst s) := by
  unfold summarise
  split
  · extract_lets -merge x1
    refine keeps_storeSram _ _ ?_
    refine keeps_mapBlocks _ ?_
    assumption
  · assumption

theorem keeps_sampleSeq {z s : State} (v n seq : Nat) (dists : List (List (HoistIx × List Logit))) (hk : Keeps z s) :
    Keeps z (sampleSeq v n seq dists s) := by
  unfold sampleSeq
  extract_lets -merge x1
  clear_value x1
  split
  · assumption
  · extract_lets -merge x2 x3 x4 x5 x6 x7 x8 x9 x10 x11 x12 x13
    have hx7 : Keeps z x7 := by
      unfold x7
      refine keeps_setF _ _ ?_
      refine keeps_addF _ _ ?_
      assumption
    try clear_value x7
    have hx8 : Keeps z x8 := by
      unfold x8
      refine keeps_ite ?_ ?_
      · refine keeps_addF _ _ ?_
        assumption
      · assumption
    try clear_value x8
    have hx9 : Keeps z x9 := by
      unfold x9
      refine keeps_ite ?_ ?_
      · refine keeps_addF _ _ ?_
        assumption
      · assumption
    try clear_value x9
    have hx11 : Keeps z x11 := by
      unfold x11
      refine keeps_countOps _ _ _ _ ?_
      assumption
    try clear_value x11
    have hx12 : Keeps z x12 := by
      unfold x12
      refine keeps_ite ?_ ?_
      · refine keeps_emit _ _ _ _ _ ?_
        assumption
      · assumption
    try clear_value x12
    refine keeps_updStep _ _ ?_
    assumption

theorem keeps_decideStep {z s : State} (n : Nat) (hk : Keeps z s) :
    Keeps z (decideStep n s) := by
  unfold decideStep
  split
  · assumption
  · refine keeps_ite ?_ ?_
    · refine keeps_acceptance _ _ ?_
      refine keeps_sendAll _ _ _ _ ?_
      assumption
    · assumption

theorem keeps_propose {z s : State} (v seq : Nat) (parts : List (HoistIx × List Logit)) (hk : Keeps z s) :
    Keeps z (propose v seq parts s) := by
  unfold propose
  extract_lets -merge x1 x2 x3 x4 x5 x6 x7 x8 x9
  have hx9 : Keeps z x9 := by
    unfold x9
    refine keeps_ite ?_ ?_
    · refine keeps_addF _ _ ?_
      assumption
    · assumption
  try clear_value x9
  refine keeps_ite ?_ ?_
  · refine keeps_updVec _ _ ?_
    assumption
  · refine keeps_updVec _ _ ?_
    assumption

theorem keeps_vecOp {z s : State} (v n : Nat) (o : VecOp) (hk : Keeps z s) :
    Keeps z (vecOp v n o s) := by
  unfold vecOp
  extract_lets -merge x1
  split
  · refine keeps_attend _ _ _ ?_
    assumption
  · refine keeps_handPartial _ _ _ _ _ _ _ _ _ _ _ ?_
    assumption
  · refine keeps_updVec _ _ ?_
    assumption
  · split
    · refine keeps_deliverVec _ _ _ ?_
      refine keeps_countOps _ _ _ _ ?_
      assumption
    · assumption
  · split
    · refine keeps_deliverVec _ _ _ ?_
      refine keeps_countOps _ _ _ _ ?_
      assumption
    · assumption
  · split
    · refine keeps_deliverVec _ _ _ ?_
      refine keeps_countOps _ _ _ _ ?_
      assumption
    · assumption
  · refine keeps_summarise _ _ _ _ _ ?_
    assumption
  · refine keeps_updVec _ _ ?_
    assumption
  · refine keeps_fetchMore ?_
    refine keeps_upd ?_ (by rfl)
    assumption
  · refine keeps_sampleSeq _ _ _ _ ?_
    assumption
  · refine keeps_propose _ _ _ ?_
    assumption
  · refine keeps_decideStep _ ?_
    assumption
  · refine keeps_noteReady _ ?_
    refine keeps_checkReady _ ?_
    refine keeps_updStep _ _ ?_
    assumption

theorem keeps_operationList {z s : State} (v n : Nat) (ops : List VecOp) (flag : Nat) (add : Word64) (hk : Keeps z s) :
    Keeps z (operationList v n ops flag add s) := by
  unfold operationList
  refine keeps_flagAdd _ _ _ _ ?_
  refine keeps_foldl _ _ ?_ (fun _ _ _ => ?_)
  · assumption
  · refine keeps_vecOp _ _ _ ?_
    assumption

end Sys2Proof.Machine
end

