-- ==== Sys2Proof/Laws/KeepsLenrik.lean ====
section
/-! SUPPORT. What the operations of Machine/Lenrik.lean keep. -/

namespace Sys2Proof.Machine
open Sys2Proof

theorem keeps_linkDisable {z s : State} (n : Nat) (hk : Keeps z s) :
    Keeps z (linkDisable n s) := by
  unfold linkDisable
  refine keeps_foldl _ _ ?_ (fun _ _ _ => ?_)
  · refine keeps_portDark _ ?_
    assumption
  · refine keeps_failHere _ _ ?_
    assumption

theorem keeps_portDown {z s : State} (n : Nat) (hk : Keeps z s) :
    Keeps z (portDown n s) := by
  unfold portDown
  extract_lets -merge x1 x2 x3 x4
  have hx3 : Keeps z x3 := by
    unfold x3
    refine keeps_setPortState _ _ ?_
    refine keeps_setF _ _ ?_
    refine keeps_addF _ _ ?_
    refine keeps_updPort _ _ ?_
    assumption
  try clear_value x3
  have hx4 : Keeps z x4 := by
    unfold x4
    refine keeps_report _ _ _ ?_
    refine keeps_emitPart _ _ ?_
    refine keeps_lifeAdd _ _ _ ?_
    assumption
  try clear_value x4
  refine keeps_foldl _ _ ?_ (fun _ _ _ => ?_)
  · assumption
  · refine keeps_failHere _ _ ?_
    assumption

theorem keeps_attemptTimeout {z s : State} (n : Nat) (hk : Keeps z s) :
    Keeps z (attemptTimeout n s) := by
  unfold attemptTimeout
  extract_lets -merge x1
  refine keeps_ite ?_ ?_
  · refine keeps_ite ?_ ?_
    · refine keeps_toLight _ _ ?_
      assumption
    · refine keeps_portDown _ ?_
      assumption
  · assumption

theorem keeps_downRetry {z s : State} (n : Nat) (hk : Keeps z s) :
    Keeps z (downRetry n s) := by
  unfold downRetry
  refine keeps_ite ?_ ?_
  · refine keeps_toLight _ _ ?_
    assumption
  · assumption

theorem keeps_arrive {z s : State} (step layer vec0 n : Nat) (hk : Keeps z s) :
    Keeps z (arrive step layer vec0 n s) := by
  unfold arrive
  extract_lets -merge x1 x2 x3 x4 x5
  clear_value x1
  refine keeps_upd ?_ (by rfl)
  assumption

theorem keeps_relay {z s : State} (n : Nat) (m : Msg) (hk : Keeps z s) :
    Keeps z (relay n m s) := by
  unfold relay
  refine keeps_ite ?_ ?_
  · refine keeps_sendOn _ _ ?_
    assumption
  · refine keeps_addF _ _ ?_
    assumption

theorem keeps_activationVectors {z s : State} (n : Nat) (m : Msg) (hk : Keeps z s) :
    Keeps z (activationVectors n m s) := by
  unfold activationVectors
  extract_lets -merge x1
  have hx1 : Keeps z x1 := by
    unfold x1
    refine keeps_hear _ ?_
    assumption
  try clear_value x1
  refine keeps_ite ?_ ?_
  · refine keeps_relay _ _ ?_
    assumption
  · split
    · refine keeps_arrive _ _ _ _ ?_
      assumption
    · assumption

theorem keeps_draftProposals {z s : State} (src n : Nat) (q : SeqKey) (l : List Proposal) (hk : Keeps z s) :
    Keeps z (draftProposals src n q l s) := by
  unfold draftProposals
  extract_lets -merge x1
  have hx1 : Keeps z x1 := by
    unfold x1
    refine keeps_hear _ ?_
    assumption
  try clear_value x1
  refine keeps_updStep _ _ ?_
  assumption

theorem keeps_headroomMessage {z s : State} (src pos : Nat) (watts theta : Int) (rth kappa : Nat) (hk : Keeps z s) :
    Keeps z (headroomMessage src pos watts theta rth kappa s) := by
  unfold headroomMessage
  extract_lets -merge x1 x2
  have hx1 : Keeps z x1 := by
    unfold x1
    refine keeps_hear _ ?_
    assumption
  try clear_value x1
  refine keeps_ite ?_ ?_
  · refine keeps_upd ?_ (by rfl)
    assumption
  · assumption

theorem keeps_heartbeatTimer {z s : State} (n : Nat) (hk : Keeps z s) :
    Keeps z (heartbeatTimer n s) := by
  unfold heartbeatTimer
  refine keeps_ite ?_ ?_
  · refine keeps_foldl _ _ ?_ (fun _ _ _ => ?_)
    · assumption
    · refine keeps_sendOn _ _ ?_
      assumption
  · assumption

theorem keeps_takeNonce {z s : State} (hk : Keeps z s) :
    Keeps z (takeNonce s).2 := by
  unfold takeNonce
  extract_lets -merge x1 x2 x3
  have hx3 : Keeps z x3 := by
    unfold x3
    refine keeps_ite ?_ ?_
    · assumption
    · refine keeps_upd ?_ (by rfl)
      assumption
  try clear_value x3
  refine keeps2_mk ?_
  refine keeps_addF _ _ ?_
  assumption

theorem keeps_mirrorAck {z s : State} (n : Nat) (hk : Keeps z s) :
    Keeps z (mirrorAck n s) := by
  unfold mirrorAck
  refine keeps_sendOn _ _ ?_
  assumption

theorem keeps_mirroredEntries {z s : State} (src n : Nat) (l : List MirrorItem) (hk : Keeps z s) :
    Keeps z (mirroredEntries src n l s) := by
  unfold mirroredEntries
  extract_lets -merge x1 x2 x3 x4
  have hx1 : Keeps z x1 := by
    unfold x1
    refine keeps_hear _ ?_
    assumption
  try clear_value x1
  have hx3 : Keeps z x3 := by
    unfold x3
    refine keeps_upd ?_ (by rfl)
    assumption
  try clear_value x3
  refine keeps_ite ?_ ?_
  · refine keeps_ite ?_ ?_
    · refine keeps_mirrorAck _ ?_
      assumption
    · refine keeps_upd ?_ (by rfl)
      assumption
  · assumption

theorem keeps_mirroredRecords {z s : State} (src n : Nat) (l : List (SeqId × SeqRec)) (hk : Keeps z s) :
    Keeps z (mirroredRecords src n l s) := by
  unfold mirroredRecords
  extract_lets -merge x1 x2
  have hx1 : Keeps z x1 := by
    unfold x1
    refine keeps_hear _ ?_
    assumption
  try clear_value x1
  refine keeps_ite ?_ ?_
  · refine keeps_mirrorAck _ ?_
    refine keeps_upd ?_ (by rfl)
    assumption
  · assumption

theorem keeps_mirrorAcknowledged {z s : State} (n : Nat) (hk : Keeps z s) :
    Keeps z (mirrorAcknowledged n s) := by
  unfold mirrorAcknowledged
  refine keeps_noteReady _ ?_
  refine keeps_checkReady _ ?_
  refine keeps_updStep _ _ ?_
  assumption

theorem keeps_payAcks {z s : State} (hk : Keeps z s) :
    Keeps z (payAcks s) := by
  unfold payAcks
  extract_lets -merge x1
  refine keeps_ite ?_ ?_
  · refine keeps_foldl _ _ ?_ (fun _ _ _ => ?_)
    · refine keeps_upd ?_ (by rfl)
      assumption
    · refine keeps_mirrorAck _ ?_
      assumption
  · assumption

theorem keeps_mirrorRecordWrite {z s : State} (ten n : Nat) (hk : Keeps z s) :
    Keeps z (mirrorRecordWrite ten n s) := by
  unfold mirrorRecordWrite
  extract_lets -merge x1 x2 x3 x4 x5 x6 x7 x8 x9 x10
  have hx2 : Keeps z x2.2 := by
    unfold x2
    refine keeps_takeNonce ?_
    assumption
  try clear_value x2
  have hx3 : Keeps z x3 := by
    unfold x3
    assumption
  try clear_value x3
  have hx7 : Keeps z x7 := by
    unfold x7
    refine keeps_upd ?_ (by rfl)
    assumption
  try clear_value x7
  have hx9 : Keeps z x9 := by
    unfold x9
    refine keeps_upd ?_ (by rfl)
    assumption
  try clear_value x9
  have hx10 : Keeps z x10 := by
    unfold x10
    refine keeps_payAcks ?_
    refine keeps_meterAdd _ _ _ ?_
    assumption
  try clear_value x10
  refine keeps_ite ?_ ?_
  · assumption
  · refine keeps_ite ?_ ?_
    · refine keeps_requestAct _ ?_
      assumption
    · assumption

theorem keeps_compactOne {z s : State} (hk : Keeps z s) :
    Keeps z (compactOne s) := by
  unfold compactOne
  extract_lets -merge x1
  have hx1 : Keeps z x1.2 := by
    unfold x1
    refine keeps_takeNonce ?_
    assumption
  try clear_value x1
  split
  · assumption
  · extract_lets -merge x2 x3 x4 x5
    have hx3 : Keeps z x3 := by
      unfold x3
      refine keeps_meterAdd _ _ _ ?_
      assumption
    try clear_value x3
    refine keeps_upd ?_ (by rfl)
    assumption

theorem keeps_activityEnd {z s : State} (m : MntAct) (hk : Keeps z s) :
    Keeps z (activityEnd m s) := by
  unfold activityEnd
  refine keeps_ite ?_ ?_
  · refine keeps_releaseAct _ ?_
    refine keeps_ite ?_ ?_
    · refine keeps_compactOne ?_
      assumption
    · assumption
  · assumption

theorem keeps_endAll {z s : State} (cause : Nat) (hk : Keeps z s) :
    Keeps z (endAll cause s) := by
  unfold endAll
  refine keeps_foldl _ _ ?_ (fun _ _ _ => ?_)
  · assumption
  · refine keeps_ite ?_ ?_
    · assumption
    · refine keeps_endSeqError _ _ ?_
      assumption

theorem keeps_lenderLost {z s : State} (pod : Nat) (hk : Keeps z s) :
    Keeps z (lenderLost pod s) := by
  unfold lenderLost
  extract_lets -merge x1 x2 x3 x4
  have hx4 : Keeps z x4 := by
    unfold x4
    refine keeps_ite ?_ ?_
    · assumption
    · refine keeps_foldl _ _ ?_ (fun _ _ _ => ?_)
      · assumption
      · refine keeps_failHere _ _ ?_
        assumption
  try clear_value x4
  refine keeps_foldl _ _ ?_ (fun _ _ _ => ?_)
  · assumption
  · extract_lets -merge x5
    refine keeps_ite ?_ ?_
    · refine keeps_sendOn _ _ ?_
      refine keeps_upd ?_ (by rfl)
      assumption
    · refine keeps_freeBlock _ ?_
      refine keeps_endFrom _ _ ?_
      assumption

theorem keeps_readerLost {z s : State} (pod : Nat) (hk : Keeps z s) :
    Keeps z (readerLost pod s) := by
  unfold readerLost
  split
  · refine keeps_ite ?_ ?_
    · refine keeps_failInst _ ?_
      assumption
    · assumption
  · assumption

theorem keeps_declareLost {z s : State} (pod : Nat) (hk : Keeps z s) :
    Keeps z (declareLost pod s) := by
  unfold declareLost
  extract_lets -merge x1 x2 x3 x4 x5 x6
  have hx3 : Keeps z x3 := by
    unfold x3
    refine keeps_emitPart _ _ ?_
    refine keeps_upd ?_ (by rfl)
    assumption
  try clear_value x3
  have hx5 : Keeps z x5 := by
    unfold x5
    refine keeps_foldl _ _ ?_ (fun _ _ _ => ?_)
    · assumption
    · refine keeps_failHere _ _ ?_
      assumption
  try clear_value x5
  have hx6 : Keeps z x6 := by
    unfold x6
    refine keeps_readerLost _ ?_
    refine keeps_lenderLost _ ?_
    assumption
  try clear_value x6
  refine keeps_ite ?_ ?_
  · assumption
  · refine keeps_ite ?_ ?_
    · refine keeps_foldl _ _ ?_ (fun _ _ _ => ?_)
      · assumption
      · refine keeps_sendTo _ _ _ _ _ _ ?_
        assumption
    · refine keeps_endAll _ ?_
      assumption

theorem keeps_ownLost {z s : State} (hk : Keeps z s) :
    Keeps z (ownLost s) := by
  unfold ownLost
  extract_lets -merge x1 x2
  have hx2 : Keeps z x2 := by
    unfold x2
    refine keeps_emitPart _ _ ?_
    assumption
  try clear_value x2
  refine keeps_ite ?_ ?_
  · refine keeps_sendTo _ _ _ _ _ _ ?_
    assumption
  · refine keeps_endAll _ ?_
    assumption

theorem keeps_regionLost {z s : State} (b : Nat) (hk : Keeps z s) :
    Keeps z (regionLost b s) := by
  unfold regionLost
  extract_lets -merge x1 x2 x3 x4 x5
  have hx3 : Keeps z x3 := by
    unfold x3
    refine keeps_failAll _ ?_
    refine keeps_upd ?_ (by rfl)
    assumption
  try clear_value x3
  have hx5 : Keeps z x5 := by
    unfold x5
    refine keeps_setCrossing _ _ ?_
    assumption
  try clear_value x5
  refine keeps_ite ?_ ?_
  · refine keeps_ownLost ?_
    assumption
  · assumption

theorem keeps_clockLossAct {z s : State} (b : Nat) (hk : Keeps z s) :
    Keeps z (clockLossAct b s) := by
  unfold clockLossAct
  refine keeps_ite ?_ ?_
  · refine keeps_setF _ _ ?_
    refine keeps_setF _ _ ?_
    assumption
  · refine keeps_ite ?_ ?_
    · refine keeps_linkLost ?_
      assumption
    · refine keeps_ite ?_ ?_
      · refine keeps_leaveUp _ ?_
        assumption
      · assumption

theorem keeps_clockAbsence {z s : State} (b : Nat) (hk : Keeps z s) :
    Keeps z (clockAbsence b s) := by
  unfold clockAbsence
  extract_lets -merge x1 x2 x3
  have hx2 : Keeps z x2 := by
    unfold x2
    refine keeps_setClock _ _ ?_
    assumption
  try clear_value x2
  have hx3 : Keeps z x3 := by
    unfold x3
    refine keeps_emitPart _ _ ?_
    refine keeps_ite ?_ ?_
    · refine keeps_regionLost _ ?_
      assumption
    · assumption
  try clear_value x3
  refine keeps_ite ?_ ?_
  · refine keeps_ite ?_ ?_
    · assumption
    · refine keeps_clockLossAct _ ?_
      refine keeps_ite ?_ ?_
      · assumption
      · refine keeps_report _ _ _ ?_
        assumption
  · assumption

theorem keeps_enterMirror {z s : State} (e : MirrorEntry) (hk : Keeps z s) :
    Keeps z (enterMirror s e) := by
  unfold enterMirror
  extract_lets -merge x1 x2 x3 x4 x5 x6 x7
  refine keeps_ite ?_ ?_
  · refine keeps_mapBlocks _ ?_
    assumption
  · refine keeps_ite ?_ ?_
    · refine keeps_ite ?_ ?_
      · assumption
      · refine keeps_tierFull _ ?_
        refine keeps_upd ?_ (by rfl)
        assumption
    · refine keeps_upd ?_ (by rfl)
      assumption

theorem keeps_promotePair {z s : State} (pod : Nat) (hk : Keeps z s) :
    Keeps z (promotePair pod s) := by
  unfold promotePair
  extract_lets -merge x1 x2 x3 x4 x5 x6 x7 x8 x9
  have hx2 : Keeps z x2 := by
    unfold x2
    refine keeps_foldl _ _ ?_ (fun _ _ _ => ?_)
    · assumption
    · refine keeps_mirrorRecordWrite _ _ ?_
      assumption
  try clear_value x2
  have hx3 : Keeps z x3 := by
    unfold x3
    refine keeps_foldl _ _ ?_ (fun _ _ _ => ?_)
    · assumption
    · refine keeps_enterMirror _ ?_
      assumption
  try clear_value x3
  have hx4 : Keeps z x4 := by
    unfold x4
    refine keeps_foldl _ _ ?_ (fun _ _ _ => ?_)
    · assumption
    · refine keeps_setF _ _ ?_
      assumption
  try clear_value x4
  have hx6 : Keeps z x6 := by
    unfold x6
    refine keeps_emitPart _ _ ?_
    refine keeps_setF _ _ ?_
    refine keeps_upd ?_ (by rfl)
    assumption
  try clear_value x6
  have hx7 : Keeps z x7 := by
    unfold x7
    refine keeps_foldl _ _ ?_ (fun _ _ _ => ?_)
    · assumption
    · extract_lets -merge x10
      refine keeps_setSeq _ _ ?_
      assumption
  try clear_value x7
  have hx9 : Keeps z x9 := by
    unfold x9
    refine keeps_upd ?_ (by rfl)
    assumption
  try clear_value x9
  refine keeps_ite ?_ ?_
  · refine keeps_sendAll _ _ _ _ ?_
    assumption
  · refine keeps_sendTo _ _ _ _ _ _ ?_
    assumption

theorem keeps_partnerLost {z s : State} (hk : Keeps z s) :
    Keeps z (partnerLost s) := by
  unfold partnerLost
  extract_lets -merge x1 x2 x3 x4 x5 x6 x7
  have hx2 : Keeps z x2 := by
    unfold x2
    refine keeps_emitPart _ _ ?_
    refine keeps_setF _ _ ?_
    refine keeps_setF _ _ ?_
    assumption
  try clear_value x2
  have hx4 : Keeps z x4 := by
    unfold x4
    refine keeps_foldl _ _ ?_ (fun _ _ _ => ?_)
    · assumption
    · refine keeps_failHere _ _ ?_
      assumption
  try clear_value x4
  have hx7 : Keeps z x7 := by
    unfold x7
    refine keeps_upd ?_ (by rfl)
    assumption
  try clear_value x7
  refine keeps_ite ?_ ?_
  · assumption
  · refine keeps_ite ?_ ?_
    · refine keeps_promotePair _ ?_
      assumption
    · assumption

theorem keeps_lossTimeout {z s : State} (rep pod : Nat) (hk : Keeps z s) :
    Keeps z (lossTimeout rep pod s) := by
  unfold lossTimeout
  extract_lets -merge x1 x2 x3 x4 x5 x6 x7
  have hx3 : Keeps z x3 := by
    unfold x3
    refine keeps_ite ?_ ?_
    · assumption
    · refine keeps_upd ?_ (by rfl)
      assumption
  try clear_value x3
  have hx7 : Keeps z x7 := by
    unfold x7
    refine keeps_ite ?_ ?_
    · refine keeps_ite ?_ ?_
      · assumption
      · refine keeps_sendTo _ _ _ _ _ _ ?_
        assumption
    · refine keeps_sendTo _ _ _ _ _ _ ?_
      assumption
  try clear_value x7
  refine keeps_ite ?_ ?_
  · assumption
  · refine keeps_ite ?_ ?_
    · refine keeps_ite ?_ ?_
      · refine keeps_partnerLost ?_
        refine keeps_emitPart _ _ ?_
        assumption
      · assumption
    · refine keeps_ite ?_ ?_
      · refine keeps_ite ?_ ?_
        · refine keeps_ite ?_ ?_
          · refine keeps_declareLost _ ?_
            assumption
          · assumption
        · refine keeps_ite ?_ ?_
          · refine keeps_readerLost _ ?_
            refine keeps_lenderLost _ ?_
            assumption
          · assumption
      · refine keeps_ite ?_ ?_
        · refine keeps_ite ?_ ?_
          · refine keeps_readerLost _ ?_
            assumption
          · refine keeps_readerLost _ ?_
            refine keeps_lenderLost _ ?_
            assumption
        · assumption

theorem keeps_switchPos {z s : State} (p : Nat) (hk : Keeps z s) :
    Keeps z (switchPos p s) := by
  unfold switchPos
  extract_lets -merge x1 x2 x3 x4
  have hx3 : Keeps z x3 := by
    unfold x3
    refine keeps_upd ?_ (by rfl)
    assumption
  try clear_value x3
  refine keeps_ite ?_ ?_
  · assumption
  · refine keeps_ite ?_ ?_
    · refine keeps_upd ?_ (by rfl)
      assumption
    · assumption

theorem keeps_promotedNotice {z s : State} (pod : Nat) (hk : Keeps z s) :
    Keeps z (promotedNotice pod s) := by
  unfold promotedNotice
  refine keeps_ite ?_ ?_
  · refine keeps_foldl _ _ ?_ (fun _ _ _ => ?_)
    · assumption
    · refine keeps_switchPos _ ?_
      refine keeps_sendAll _ _ _ _ ?_
      assumption
  · assumption

theorem keeps_forwardedEvent {z s : State} (src : Nat) (b : MsgBody) (hk : Keeps z s) :
    Keeps z (forwardedEvent src b s) := by
  unfold forwardedEvent
  extract_lets -merge x1 x2
  have hx1 : Keeps z x1 := by
    unfold x1
    refine keeps_hear _ ?_
    assumption
  try clear_value x1
  split
  · extract_lets -merge x3 x4 x5
    have hx3 : Keeps z x3 := by
      unfold x3
      refine keeps_queueEvent _ ?_
      assumption
    try clear_value x3
    refine keeps_ite ?_ ?_
    · refine keeps_partnerLost ?_
      assumption
    · refine keeps_ite ?_ ?_
      · refine keeps_ite ?_ ?_
        · refine keeps_mapBlocks _ ?_
          refine keeps_sealSeq _ ?_
          assumption
        · refine keeps_ite ?_ ?_
          · refine keeps_mapBlocks _ ?_
            assumption
          · assumption
      · refine keeps_ite ?_ ?_
        · refine keeps_declareLost _ ?_
          refine keeps_queueEvent _ ?_
          assumption
        · refine keeps_ite ?_ ?_
          · refine keeps_promotedNotice _ ?_
            refine keeps_queueEvent _ ?_
            assumption
          · refine keeps_ite ?_ ?_
            · refine keeps_ite ?_ ?_
              · assumption
              · refine keeps_endSeq _ ?_
                assumption
            · refine keeps_ite ?_ ?_
              · refine keeps_upd ?_ (by rfl)
                assumption
              · refine keeps_ite ?_ ?_
                · refine keeps_upd ?_ (by rfl)
                  assumption
                · assumption
  · refine keeps_ite ?_ ?_
    · assumption
    · refine keeps_upd ?_ (by rfl)
      assumption
  · refine keeps_lossTimeout _ _ ?_
    assumption
  · assumption

theorem keeps_discard {z s : State} (src q : Nat) (hk : Keeps z s) :
    Keeps z (discard src q s) := by
  unfold discard
  extract_lets -merge x1 x2
  have hx1 : Keeps z x1 := by
    unfold x1
    refine keeps_hear _ ?_
    assumption
  try clear_value x1
  refine keeps_ite ?_ ?_
  · refine keeps_upd ?_ (by rfl)
    assumption
  · refine keeps_dropMirror _ ?_
    refine keeps_discardBlocks _ ?_
    assumption

theorem keeps_resyncComplete {z s : State} (hk : Keeps z s) :
    Keeps z (resyncComplete s) := by
  unfold resyncComplete
  extract_lets -merge x1
  have hx1 : Keeps z x1 := by
    unfold x1
    refine keeps_setF _ _ ?_
    refine keeps_setF _ _ ?_
    refine keeps_setF _ _ ?_
    assumption
  try clear_value x1
  refine keeps_ite ?_ ?_
  · refine keeps_releaseAct _ ?_
    refine keeps_emitPart _ _ ?_
    assumption
  · assumption

theorem keeps_reclaimDone {z s : State} (hk : Keeps z s) :
    Keeps z (reclaimDone s) := by
  unfold reclaimDone
  extract_lets -merge x1 x2
  have hx1 : Keeps z x1 := by
    unfold x1
    refine keeps_setF _ _ ?_
    refine keeps_ite ?_ ?_
    · assumption
    · refine keeps_setF _ _ ?_
      assumption
  try clear_value x1
  refine keeps_ite ?_ ?_
  · refine keeps_upd ?_ (by rfl)
    assumption
  · assumption

theorem keeps_reclaim {z s : State} (hk : Keeps z s) :
    Keeps z (reclaim s) := by
  unfold reclaim
  extract_lets -merge x1 x2 x3
  have hx3 : Keeps z x3 := by
    unfold x3
    refine keeps_setF _ _ ?_
    refine keeps_upd ?_ (by rfl)
    assumption
  try clear_value x3
  refine keeps_reclaimDone ?_
  refine keeps_foldl _ _ ?_ (fun _ _ _ => ?_)
  · assumption
  · refine keeps_requestAct _ ?_
    assumption

theorem keeps_handback {z s : State} (hk : Keeps z s) :
    Keeps z (handback s) := by
  unfold handback
  extract_lets -merge x1 x2
  have hx2 : Keeps z x2 := by
    unfold x2
    refine keeps_setF _ _ ?_
    refine keeps_upd ?_ (by rfl)
    assumption
  try clear_value x2
  refine keeps_ite ?_ ?_
  · refine keeps_foldl _ _ ?_ (fun _ _ _ => ?_)
    · assumption
    · refine keeps_sendOn _ _ ?_
      assumption
  · assumption

end Sys2Proof.Machine
end

