-- ==== Sys2Proof/Laws/KeepsMeter.lean ====
section
/-! SUPPORT. What the operations of Machine/Meter.lean keep. -/

namespace Sys2Proof.Machine
open Sys2Proof

theorem keeps_updMtr {z s : State} (f : MeterState → MeterState) (hk : Keeps z s) :
    Keeps z (updMtr f s) := by
  unfold updMtr
  refine keeps_upd ?_ (by rfl)
  assumption

theorem keeps_mtrAlert {z s : State} (hk : Keeps z s) :
    Keeps z (mtrAlert s) := by
  unfold mtrAlert
  extract_lets -merge x1
  refine keeps_upd ?_ (by rfl)
  assumption

theorem keeps_sampleResidency {z s : State} (hk : Keeps z s) :
    Keeps z (sampleResidency s) := by
  unfold sampleResidency
  extract_lets -merge x1
  have hx1 : Keeps z x1 := by
    unfold x1
    refine keeps_foldl _ _ ?_ (fun _ _ _ => ?_)
    · assumption
    · split
      · refine keeps_meterAdd _ _ _ ?_
        assumption
      · assumption
  try clear_value x1
  refine keeps_foldl _ _ ?_ (fun _ _ _ => ?_)
  · assumption
  · refine keeps_meterAdd _ _ _ ?_
    assumption

theorem keeps_intervalClose {z s : State} (hk : Keeps z s) :
    Keeps z (intervalClose s) := by
  unfold intervalClose
  extract_lets -merge x1 x2
  have hx1 : Keeps z x1 := by
    unfold x1
    refine keeps_sampleResidency ?_
    assumption
  try clear_value x1
  refine keeps_updMtr _ ?_
  assumption

theorem keeps_counterFrame {z s : State} (ok : Bool) (hk : Keeps z s) :
    Keeps z (counterFrame ok s) := by
  unfold counterFrame
  split
  · assumption
  · extract_lets -merge x1
    have hx1 : Keeps z x1 := by
      unfold x1
      refine keeps_updMtr _ ?_
      assumption
    try clear_value x1
    refine keeps_ite ?_ ?_
    · refine keeps_updMtr _ ?_
      assumption
    · assumption

theorem keeps_meterSecond {z s : State} (fj vDiff iDiff : Nat) (aboveV : Bool) (hk : Keeps z s) :
    Keeps z (meterSecond fj vDiff iDiff aboveV s) := by
  unfold meterSecond
  extract_lets -merge x1 x2
  refine keeps_ite ?_ ?_
  · assumption
  · refine keeps_mtrAlert ?_
    refine keeps_updMtr _ ?_
    assumption

theorem keeps_meterPowerOn {z s : State} (ok : Bool) (hk : Keeps z s) :
    Keeps z (meterPowerOn ok s) := by
  unfold meterPowerOn
  refine keeps_ite ?_ ?_
  · assumption
  · refine keeps_mtrAlert ?_
    refine keeps_updMtr _ ?_
    assumption

theorem keeps_meterPowerFall {z s : State} (openFj : Nat) (hk : Keeps z s) :
    Keeps z (meterPowerFall openFj s) := by
  unfold meterPowerFall
  refine keeps_ite ?_ ?_
  · refine keeps_mtrAlert ?_
    refine keeps_updMtr _ ?_
    assumption
  · assumption

theorem keeps_i3cAnswer {z s : State} (l : Option (List Byte)) (hk : Keeps z s) :
    Keeps z (i3cAnswer l s) := by
  unfold i3cAnswer
  refine keeps_upd ?_ (by rfl)
  assumption

theorem keeps_boxAnswer {z s : State} (l : Option (List Byte)) (hk : Keeps z s) :
    Keeps z (boxAnswer l s) := by
  unfold boxAnswer
  extract_lets -merge x1
  have hx1 : Keeps z x1 := by
    unfold x1
    split
    · refine keeps_setF _ _ ?_
      refine keeps_updMtr _ ?_
      assumption
    · refine keeps_setF _ _ ?_
      refine keeps_setF _ _ ?_
      refine keeps_updMtr _ ?_
      assumption
  try clear_value x1
  refine keeps_signal _ ?_
  refine keeps_setF _ _ ?_
  refine keeps_setF _ _ ?_
  assumption

theorem keeps_statusRegs {z s : State} (hk : Keeps z s) :
    Keeps z (statusRegs s) := by
  unfold statusRegs
  refine keeps_setF _ _ ?_
  refine keeps_setF _ _ ?_
  refine keeps_setF _ _ ?_
  assumption

theorem keeps_boxServe {z s : State} (op chunk : Nat) (hk : Keeps z s) :
    Keeps z (boxServe op chunk s) := by
  unfold boxServe
  extract_lets -merge x1
  have hx1 : Keeps z x1 := by
    unfold x1
    refine keeps_ite ?_ ?_
    · refine keeps_updMtr _ ?_
      assumption
    · assumption
  try clear_value x1
  refine keeps_ite ?_ ?_
  · refine keeps_boxAnswer _ ?_
    assumption
  · refine keeps_ite ?_ ?_
    · refine keeps_boxAnswer _ ?_
      assumption
    · refine keeps_ite ?_ ?_
      · refine keeps_boxAnswer _ ?_
        assumption
      · refine keeps_boxAnswer _ ?_
        refine keeps_statusRegs ?_
        assumption

theorem keeps_boxRequest {z s : State} (op chunk : Nat) (hk : Keeps z s) :
    Keeps z (boxRequest op chunk s) := by
  unfold boxRequest
  extract_lets -merge x1
  have hx1 : Keeps z x1 := by
    unfold x1
    refine keeps_setF _ _ ?_
    assumption
  try clear_value x1
  refine keeps_ite ?_ ?_
  · refine keeps_countIgnored _ ?_
    assumption
  · refine keeps_ite ?_ ?_
    · refine keeps_boxServe _ _ ?_
      assumption
    · refine keeps_updMtr _ ?_
      assumption

theorem keeps_boxResume {z s : State} (hk : Keeps z s) :
    Keeps z (boxResume s) := by
  unfold boxResume
  split
  · refine keeps_ite ?_ ?_
    · refine keeps_boxServe _ _ ?_
      refine keeps_updMtr _ ?_
      assumption
    · assumption
  · assumption

theorem keeps_readRecord {z s : State} (i3c : Option Nat) (chunk : Nat) (hk : Keeps z s) :
    Keeps z (readRecord i3c chunk s) := by
  unfold readRecord
  split
  · refine keeps_boxRequest _ _ ?_
    assumption
  · extract_lets -merge x1 x2
    clear_value x1
    have hx2 : Keeps z x2 := by
      unfold x2
      refine keeps_ite ?_ ?_
      · refine keeps_updMtr _ ?_
        assumption
      · assumption
    try clear_value x2
    refine keeps_ite ?_ ?_
    · refine keeps_i3cAnswer _ ?_
      refine keeps_mtrAlert ?_
      assumption
    · refine keeps_i3cAnswer _ ?_
      assumption

theorem keeps_readTotals {z s : State} (i3c : Bool) (chunk : Nat) (hk : Keeps z s) :
    Keeps z (readTotals i3c chunk s) := by
  unfold readTotals
  extract_lets -merge x1
  have hx1 : Keeps z x1 := by
    unfold x1
    refine keeps_ite ?_ ?_
    · refine keeps_updMtr _ ?_
      assumption
    · assumption
  try clear_value x1
  refine keeps_ite ?_ ?_
  · refine keeps_boxRequest _ _ ?_
    assumption
  · refine keeps_ite ?_ ?_
    · refine keeps_i3cAnswer _ ?_
      assumption
    · refine keeps_i3cAnswer _ ?_
      assumption

theorem keeps_readParams {z s : State} (i3c : Bool) (chunk : Nat) (hk : Keeps z s) :
    Keeps z (readParams i3c chunk s) := by
  unfold readParams
  refine keeps_ite ?_ ?_
  · refine keeps_boxRequest _ _ ?_
    assumption
  · refine keeps_i3cAnswer _ ?_
    assumption

theorem keeps_readStatus {z s : State} (i3c : Bool) (hk : Keeps z s) :
    Keeps z (readStatus i3c s) := by
  unfold readStatus
  refine keeps_ite ?_ ?_
  · refine keeps_boxRequest _ _ ?_
    assumption
  · refine keeps_i3cAnswer _ ?_
    assumption

theorem keeps_sealNonce {z s : State} (hk : Keeps z s) :
    Keeps z (sealNonce s) := by
  unfold sealNonce
  extract_lets -merge x1 x2
  have hx1 : Keeps z x1.2 := by
    unfold x1
    refine keeps_draw ?_
    assumption
  try clear_value x1
  refine keeps_ite ?_ ?_
  · refine keeps_i3cAnswer _ ?_
    refine keeps_mtrAlert ?_
    refine keeps_updMtr _ ?_
    assumption
  · refine keeps_i3cAnswer _ ?_
    assumption

theorem keeps_sealApply {z s : State} (p : MeterParams) (key sig : List Byte) (hk : Keeps z s) :
    Keeps z (sealApply p key sig s) := by
  unfold sealApply
  extract_lets -merge x1 x2
  have hx1 : Keeps z x1 := by
    unfold x1
    refine keeps_updMtr _ ?_
    assumption
  try clear_value x1
  have hx2 : Keeps z x2 := by
    unfold x2
    refine keeps_updMtr _ ?_
    assumption
  try clear_value x2
  refine keeps_ite ?_ ?_
  · refine keeps_i3cAnswer _ ?_
    assumption
  · refine keeps_ite ?_ ?_
    · refine keeps_mtrAlert ?_
      refine keeps_upd ?_ (by rfl)
      assumption
    · refine keeps_mtrAlert ?_
      refine keeps_upd ?_ (by rfl)
      assumption

theorem keeps_sealCopyProgrammed {z s : State} (ok : Bool) (hk : Keeps z s) :
    Keeps z (sealCopyProgrammed ok s) := by
  unfold sealCopyProgrammed
  refine keeps_ite ?_ ?_
  · refine keeps_updMtr _ ?_
    assumption
  · assumption

theorem keeps_sealNonceExpiry {z s : State} (hk : Keeps z s) :
    Keeps z (sealNonceExpiry s) := by
  unfold sealNonceExpiry
  refine keeps_ite ?_ ?_
  · refine keeps_mtrAlert ?_
    refine keeps_updMtr _ ?_
    assumption
  · assumption

end Sys2Proof.Machine
end

