-- ==== Sys2Proof/Laws/KeepsSecurity.lean ====
section
/-! SUPPORT. What the operations of Machine/Security.lean keep. -/

namespace Sys2Proof.Machine
open Sys2Proof

theorem keeps_updSec {z s : State} (f : SecState → SecState) (hk : Keeps z s) :
    Keeps z (updSec f s) := by
  unfold updSec
  refine keeps_upd ?_ (by rfl)
  assumption

theorem keeps_secDone {z s : State} (err : Nat) (hk : Keeps z s) :
    Keeps z (secDone err s) := by
  unfold secDone
  refine keeps_setF _ _ ?_
  refine keeps_setF _ _ ?_
  assumption

theorem keeps_secAnswer {z s : State} (l : List Byte) (hk : Keeps z s) :
    Keeps z (secAnswer l s) := by
  unfold secAnswer
  refine keeps_updSec _ ?_
  assumption

theorem keeps_freshNonce {z s : State} (hk : Keeps z s) :
    Keeps z (freshNonce s) := by
  unfold freshNonce
  extract_lets -merge x1
  have hx1 : Keeps z x1.2 := by
    unfold x1
    refine keeps_draw ?_
    assumption
  try clear_value x1
  refine keeps_updSec _ ?_
  assumption

theorem keeps_setCfgKey {z s : State} (n : Nat) (r : CfgKey) (hk : Keeps z s) :
    Keeps z (setCfgKey n r s) := by
  unfold setCfgKey
  extract_lets -merge x1
  have hx1 : Keeps z x1 := by
    unfold x1
    refine keeps_updSec _ ?_
    assumption
  try clear_value x1
  refine keeps_setF _ _ ?_
  assumption

theorem keeps_keyChange {z s : State} (op slot : Nat) (hk : Keeps z s) :
    Keeps z (keyChange op slot s) := by
  unfold keyChange
  refine keeps_emitPart _ _ ?_
  assumption

theorem keeps_enroll {z s : State} (slot : Nat) (board : Bool) (h : Keeps z s) : Keeps z (enroll slot board s) := by
  unfold enroll
  extract_lets -merge +onlyGivenNames key put
  have hp : ∀ t, Keeps z t → Keeps z (put t) := fun t ht => keeps_secDone _ (keeps_keyChange _ _ (keeps_setCfgKey _ _ ht))
  refine keeps_ite (keeps_secDone _ h) (keeps_ite (keeps_secDone _ h) (keeps_ite
    (keeps_ite (hp _ h) (keeps_secDone _ h)) (keeps_ite (keeps_secDone _ h) ?_)))
  extract_lets -merge +onlyGivenNames ok s1
  have h1 : Keeps z s1 := keeps_freshNonce h
  exact keeps_ite (hp _ h1) (keeps_secDone _ h1)

theorem keeps_revoke {z s : State} (slot : Nat) (hk : Keeps z s) :
    Keeps z (revoke slot s) := by
  unfold revoke
  extract_lets -merge x1 x2 x3
  have hx2 : Keeps z x2 := by
    unfold x2
    refine keeps_freshNonce ?_
    assumption
  try clear_value x2
  refine keeps_ite ?_ ?_
  · refine keeps_secDone _ ?_
    assumption
  · refine keeps_ite ?_ ?_
    · refine keeps_secDone _ ?_
      assumption
    · refine keeps_ite ?_ ?_
      · refine keeps_secDone _ ?_
        assumption
      · refine keeps_ite ?_ ?_
        · refine keeps_secDone _ ?_
          refine keeps_keyChange _ _ ?_
          refine keeps_setCfgKey _ _ ?_
          assumption
        · refine keeps_secDone _ ?_
          assumption

theorem keeps_commitSvn {z s : State} (hk : Keeps z s) :
    Keeps z (commitSvn s) := by
  unfold commitSvn
  extract_lets -merge x1
  refine keeps_secDone _ ?_
  refine keeps_setF _ _ ?_
  refine keeps_updSec _ ?_
  assumption

theorem keeps_revokeFwKey0 {z s : State} (hk : Keeps z s) :
    Keeps z (revokeFwKey0 s) := by
  unfold revokeFwKey0
  refine keeps_ite ?_ ?_
  · refine keeps_secDone _ ?_
    refine keeps_updSec _ ?_
    assumption
  · refine keeps_countIgnored _ ?_
    assumption

theorem keeps_eraseAll {z s : State} (hk : Keeps z s) :
    Keeps z (eraseAll s) := by
  unfold eraseAll
  refine keeps_updSec _ ?_
  assumption

theorem keeps_debugUnlock {z s : State} (hk : Keeps z s) :
    Keeps z (debugUnlock s) := by
  unfold debugUnlock
  extract_lets -merge x1 x2
  have hx2 : Keeps z x2 := by
    unfold x2
    refine keeps_freshNonce ?_
    assumption
  try clear_value x2
  refine keeps_ite ?_ ?_
  · refine keeps_countIgnored _ ?_
    assumption
  · split
    · refine keeps_secDone _ ?_
      assumption
    · extract_lets -merge x3 x4
      refine keeps_ite ?_ ?_
      · refine keeps_secDone _ ?_
        refine keeps_emitPart _ _ ?_
        refine keeps_setF _ _ ?_
        refine keeps_eraseAll ?_
        assumption
      · refine keeps_secDone _ ?_
        assumption

theorem keeps_getCert {z s : State} (n : Nat) (hk : Keeps z s) :
    Keeps z (getCert n s) := by
  unfold getCert
  refine keeps_ite ?_ ?_
  · refine keeps_countIgnored _ ?_
    assumption
  · refine keeps_secDone _ ?_
    refine keeps_secAnswer _ ?_
    assumption

theorem keeps_attest {z s : State} (hk : Keeps z s) :
    Keeps z (attest s) := by
  unfold attest
  refine keeps_ite ?_ ?_
  · refine keeps_secDone _ ?_
    assumption
  · refine keeps_setF _ _ ?_
    refine keeps_updSec _ ?_
    assumption

theorem keeps_secOp {z s : State} (o : SecOp) (hk : Keeps z s) :
    Keeps z (secOp o s) := by
  unfold secOp
  split
  · refine keeps_attest ?_
    assumption
  · refine keeps_secDone _ ?_
    refine keeps_freshNonce ?_
    assumption
  · refine keeps_enroll _ _ ?_
    assumption
  · refine keeps_revoke _ ?_
    assumption
  · refine keeps_commitSvn ?_
    assumption
  · refine keeps_debugUnlock ?_
    assumption
  · refine keeps_revokeFwKey0 ?_
    assumption
  · refine keeps_getCert _ ?_
    assumption

theorem keeps_secCommand {z s : State} (o : SecOp) (hk : Keeps z s) :
    Keeps z (secCommand o s) := by
  unfold secCommand
  refine keeps_ite ?_ ?_
  · refine keeps_updSec _ ?_
    assumption
  · refine keeps_secOp _ ?_
    assumption

theorem keeps_secDrain {z s : State} (k_ : List SecOp) (hk : Keeps z s) :
    Keeps z (secDrain k_ s) := by
  induction k_ generalizing s with
  | nil =>
    rw [secDrain]
    refine keeps_updSec _ ?_
    assumption
  | cons _ _ ih =>
    rw [secDrain]
    refine keeps_ite ?_ ?_
    · refine keeps_updSec _ ?_
      assumption
    · refine ih ?_
      refine keeps_secOp _ ?_
      assumption

theorem keeps_attestReport {z s : State} (meterOk : Bool) (hk : Keeps z s) :
    Keeps z (attestReport meterOk s) := by
  unfold attestReport
  split
  · assumption
  · extract_lets -merge x1 x2 x3
    have hx2 : Keeps z x2 := by
      unfold x2
      refine keeps_updSec _ ?_
      assumption
    try clear_value x2
    have hx3 : Keeps z x3 := by
      unfold x3
      refine keeps_setF _ _ ?_
      refine keeps_secDone _ ?_
      refine keeps_secAnswer _ ?_
      assumption
    try clear_value x3
    refine keeps_ite ?_ ?_
    · assumption
    · refine keeps_ite ?_ ?_
      · refine keeps_upd ?_ (by rfl)
        assumption
      · refine keeps_secDrain _ ?_
        assumption

theorem keeps_getMeasurements {z s : State} (nonce : List Byte) (hk : Keeps z s) :
    Keeps z (getMeasurements nonce s) := by
  unfold getMeasurements
  refine keeps_ite ?_ ?_
  · refine keeps_upd ?_ (by rfl)
    assumption
  · refine keeps_updSec _ ?_
    assumption

theorem keeps_tenantKey {z s : State} (h : CmdHead) (rec : List Byte) (secret : Option (List Byte)) (hk : Keeps z s) :
    Keeps z (tenantKey h rec secret s).2 := by
  unfold tenantKey
  extract_lets -merge x1 x2
  refine keeps2_ite ?_ ?_
  · refine keeps2_mk ?_
    assumption
  · split
    · refine keeps2_mk ?_
      assumption
    · extract_lets -merge x3 x4
      have hx4 : Keeps z x4 := by
        unfold x4
        refine keeps_updSec _ ?_
        assumption
      try clear_value x4
      refine keeps2_ite ?_ ?_
      · refine keeps2_mk ?_
        assumption
      · refine keeps2_mk ?_
        refine keeps_emitPart _ _ ?_
        assumption

end Sys2Proof.Machine
end

