-- ==== Sys2Proof/Laws/KeepsEnsign.lean ====
section
/-! SUPPORT. What the operations of Machine/Ensign.lean keep. -/

namespace Sys2Proof.Machine
open Sys2Proof

theorem keeps_updEns {z s : State} (f : EnsState → EnsState) (hk : Keeps z s) :
    Keeps z (updEns f s) := by
  unfold updEns
  refine keeps_upd ?_ (by rfl)
  assumption

theorem keeps_setEnsState {z s : State} (n : Nat) (hk : Keeps z s) :
    Keeps z (setEnsState n s) := by
  unfold setEnsState
  refine keeps_setF _ _ ?_
  assumption

theorem keeps_ensReject {z s : State} (err : Nat) (hk : Keeps z s) :
    Keeps z (ensReject err s) := by
  unfold ensReject
  refine keeps_signal _ ?_
  refine keeps_setF _ _ ?_
  refine keeps_setF _ _ ?_
  assumption

theorem keeps_failBase {z s : State} (err : Nat) (hk : Keeps z s) :
    Keeps z (failBase err s) := by
  unfold failBase
  refine keeps_ensReject _ ?_
  refine keeps_setF _ _ ?_
  refine keeps_setEnsState _ ?_
  refine keeps_updEns _ ?_
  assumption

theorem keeps_failAmend {z s : State} (err : Nat) (hk : Keeps z s) :
    Keeps z (failAmend err s) := by
  unfold failAmend
  refine keeps_ensReject _ ?_
  refine keeps_setF _ _ ?_
  refine keeps_updEns _ ?_
  assumption

theorem keeps_failLoad {z s : State} (err : Nat) (hk : Keeps z s) :
    Keeps z (failLoad err s) := by
  unfold failLoad
  split
  · assumption
  · refine keeps_ite ?_ ?_
    · refine keeps_failAmend _ ?_
      assumption
    · refine keeps_failBase _ ?_
      assumption

theorem keeps_beginLoad {z s : State} (i : EnsImage) (amend : Bool) (hk : Keeps z s) :
    Keeps z (beginLoad i amend s) := by
  unfold beginLoad
  extract_lets -merge x1
  have hx1 : Keeps z x1 := by
    unfold x1
    refine keeps_setF _ _ ?_
    refine keeps_setF _ _ ?_
    refine keeps_updEns _ ?_
    assumption
  try clear_value x1
  refine keeps_ite ?_ ?_
  · refine keeps_setF _ _ ?_
    assumption
  · refine keeps_setF _ _ ?_
    refine keeps_setEnsState _ ?_
    assumption

theorem keeps_loadNow {z s : State} (i : EnsImage) (hk : Keeps z s) :
    Keeps z (loadNow i s) := by
  unfold loadNow
  refine keeps_ite ?_ ?_
  · refine keeps_ensReject _ ?_
    assumption
  · refine keeps_ite ?_ ?_
    · refine keeps_countIgnored _ ?_
      assumption
    · refine keeps_ite ?_ ?_
      · refine keeps_ite ?_ ?_
        · refine keeps_ensReject _ ?_
          assumption
        · refine keeps_beginLoad _ _ ?_
          assumption
      · refine keeps_ite ?_ ?_
        · refine keeps_ensReject _ ?_
          assumption
        · refine keeps_beginLoad _ _ ?_
          assumption

theorem keeps_ensLoad {z s : State} (i : EnsImage) (hk : Keeps z s) :
    Keeps z (ensLoad i s) := by
  unfold ensLoad
  refine keeps_ite ?_ ?_
  · refine keeps_loadNow _ ?_
    assumption
  · refine keeps_ite ?_ ?_
    · refine keeps_countIgnored _ ?_
      assumption
    · refine keeps_updEns _ ?_
      assumption

theorem keeps_ensAbort {z s : State} (hk : Keeps z s) :
    Keeps z (ensAbort s) := by
  unfold ensAbort
  refine keeps_ite ?_ ?_
  · refine keeps_failBase _ ?_
    assumption
  · refine keeps_countIgnored _ ?_
    assumption

theorem keeps_writeKeys {z s : State} (l : List (Nat × Nat)) (hk : Keeps z s) :
    Keeps z (writeKeys l s) := by
  unfold writeKeys
  refine keeps_foldl _ _ ?_ (fun _ _ _ => ?_)
  · assumption
  · extract_lets -merge x1
    have hx1 : Keeps z x1.2 := by
      unfold x1
      refine keeps_clamped _ _ ?_
      assumption
    try clear_value x1
    refine keeps_putKey _ _ ?_
    assumption

theorem keeps_limited {z s : State} (lo hi v : Nat) (hk : Keeps z s) :
    Keeps z (limited lo hi v s).2 := by
  unfold limited
  refine keeps2_mk ?_
  refine keeps_clampIf _ ?_
  assumption

theorem keeps_clampLayer {z s : State} (l : LayerSection) (hk : Keeps z s) :
    Keeps z (clampLayer l s).2 := by
  unfold clampLayer
  extract_lets -merge x1
  split
  · rename_i e
    refine keeps_elim (congrArg Prod.snd e) ?_ (fun _ => ?_)
    · refine keeps_limited _ _ _ ?_
      assumption
    · split
      · rename_i e
        refine keeps_elim (congrArg Prod.snd e) ?_ (fun _ => ?_)
        · refine keeps_limited _ _ _ ?_
          assumption
        · split
          · rename_i e
            refine keeps_elim (congrArg Prod.snd e) ?_ (fun _ => ?_)
            · refine keeps_limited _ _ _ ?_
              assumption
            · split
              · rename_i e
                refine keeps_elim (congrArg Prod.snd e) ?_ (fun _ => ?_)
                · refine keeps_limited _ _ _ ?_
                  assumption
                · split
                  · rename_i e
                    refine keeps_elim (congrArg Prod.snd e) ?_ (fun _ => ?_)
                    · refine keeps_limited _ _ _ ?_
                      assumption
                    · split
                      · rename_i e
                        refine keeps_elim (congrArg Prod.snd e) ?_ (fun _ => ?_)
                        · refine keeps_limited _ _ _ ?_
                          assumption
                        · refine keeps2_mk ?_
                          assumption

theorem keeps_clampLayers {z s : State} (k_ : List LayerSection) (hk : Keeps z s) :
    Keeps z (clampLayers k_ s).2 := by
  induction k_ generalizing s with
  | nil =>
    rw [clampLayers]
    refine keeps2_mk ?_
    assumption
  | cons _ _ ih =>
    rw [clampLayers]
    refine keeps2_mk ?_
    refine ih ?_
    refine keeps_clampLayer _ ?_
    assumption

theorem keeps_clampPart {z s : State} (p : PartSection) (hk : Keeps z s) :
    Keeps z (clampPart p s).2 := by
  unfold clampPart
  refine keeps2_ite ?_ ?_
  · refine keeps2_mk ?_
    refine keeps_countClamp _ ?_
    assumption
  · refine keeps2_mk ?_
    assumption

theorem keeps_clampRoute {z s : State} (e : RouteEntry) (hk : Keeps z s) :
    Keeps z (clampRoute e s).2 := by
  unfold clampRoute
  extract_lets -merge x1 x2 x3 x4 x5 x6 x7 x8
  have hx2 : Keeps z x2 := by
    unfold x2
    refine keeps_clampIf _ ?_
    assumption
  try clear_value x2
  have hx6 : Keeps z x6 := by
    unfold x6
    refine keeps_countClamps _ ?_
    assumption
  try clear_value x6
  refine keeps2_ite ?_ ?_
  · refine keeps2_mk ?_
    assumption
  · refine keeps2_mk ?_
    refine keeps_clampIf _ ?_
    assumption

theorem keeps_clampRoutes {z s : State} (k_ : List RouteEntry) (hk : Keeps z s) :
    Keeps z (clampRoutes k_ s).2 := by
  induction k_ generalizing s with
  | nil =>
    rw [clampRoutes]
    refine keeps2_mk ?_
    assumption
  | cons _ _ ih =>
    rw [clampRoutes]
    refine keeps2_mk ?_
    refine ih ?_
    refine keeps_clampRoute _ ?_
    assumption

theorem keeps_clampRouting {z s : State} (r : RouteSection) (hk : Keeps z s) :
    Keeps z (clampRouting r s).2 := by
  unfold clampRouting
  split
  · rename_i e
    refine keeps_elim (congrArg Prod.snd e) ?_ (fun _ => ?_)
    · refine keeps_limited _ _ _ ?_
      assumption
    · split
      · rename_i e
        refine keeps_elim (congrArg Prod.snd e) ?_ (fun _ => ?_)
        · refine keeps_limited _ _ _ ?_
          assumption
        · split
          · rename_i e
            refine keeps_elim (congrArg Prod.snd e) ?_ (fun _ => ?_)
            · refine keeps_limited _ _ _ ?_
              assumption
            · split
              · rename_i e
                refine keeps_elim (congrArg Prod.snd e) ?_ (fun _ => ?_)
                · refine keeps_clampRoutes _ ?_
                  assumption
                · refine keeps2_mk ?_
                  assumption

theorem keeps_clampOpt {z s : State} {α : Type} (f : α → State → α × State) (x : Option α)
    (h : Keeps z s) (hf : ∀ a t, Keeps z t → Keeps z (f a t).2) : Keeps z (clampOpt f x s).2 := by
  unfold clampOpt
  split
  · exact hf _ _ h
  · exact h

theorem keeps_countLoadClamps {z s : State} (before : State) (hk : Keeps z s) :
    Keeps z (countLoadClamps before s) := by
  unfold countLoadClamps
  refine keeps_satF _ _ ?_
  assumption

theorem keeps_assignBlock {z s : State} (slot : Nat) (e : PlaceEntry) (old : State) (a : Nat) (hk : Keeps z s) :
    Keeps z (assignBlock slot e old a s) := by
  unfold assignBlock
  extract_lets -merge x1
  refine keeps_ite ?_ ?_
  · refine keeps_setArrState _ _ ?_
    refine keeps_updArr _ _ ?_
    assumption
  · refine keeps_updArr _ _ ?_
    assumption

theorem keeps_placeEntry {z s : State} (slot : Nat) (old : State) (e : Nat × PlaceEntry) (hk : Keeps z s) :
    Keeps z (placeEntry slot old s e) := by
  unfold placeEntry
  refine keeps_ite ?_ ?_
  · refine keeps_setArrState _ _ ?_
    assumption
  · refine keeps_ite ?_ ?_
    · refine keeps_assignBlock _ _ _ _ ?_
      assumption
    · refine keeps_ite ?_ ?_
      · refine keeps_updArr _ _ ?_
        refine keeps_setArrState _ _ ?_
        assumption
      · assumption

theorem keeps_placeRetired {z s : State} (slot : Nat) (old : State) (e : Nat × PlaceEntry) (hk : Keeps z s) :
    Keeps z (placeRetired slot old s e) := by
  unfold placeRetired
  extract_lets -merge x1 x2
  clear_value x1
  refine keeps_ite ?_ ?_
  · split
    · refine keeps_assignBlock _ _ _ _ ?_
      assumption
    · assumption
  · assumption

theorem keeps_unplace {z s : State} (a : Nat) (r : ArrRec) (hk : Keeps z s) :
    Keeps z (unplace a r s) := by
  unfold unplace
  extract_lets -merge x1
  clear_value x1
  refine keeps_setArr _ _ ?_
  assumption

theorem keeps_unplaceAll {z s : State} (h : Keeps z s) : Keeps z (unplaceAll s) := by
  unfold unplaceAll
  exact keeps_foldl _ _ (keeps_regs h (SMap.wf_filter _ _ _)) (fun _ _ ht => keeps_unplace _ _ ht)

theorem keeps_markRetired {z s : State} (hk : Keeps z s) :
    Keeps z (markRetired s) := by
  unfold markRetired
  extract_lets -merge x1
  refine keeps_foldl _ _ ?_ (fun _ _ _ => ?_)
  · assumption
  · refine keeps_ite ?_ ?_
    · refine keeps_setArrState _ _ ?_
      assumption
    · assumption

theorem keeps_applyPlacements {z s : State} (l : List Placement) (hk : Keeps z s) :
    Keeps z (applyPlacements l s) := by
  unfold applyPlacements
  extract_lets -merge x1 x2 x3
  have hx1 : Keeps z x1 := by
    unfold x1
    assumption
  try clear_value x1
  have hx2 : Keeps z x2 := by
    unfold x2
    refine keeps_markRetired ?_
    refine keeps_unplaceAll ?_
    assumption
  try clear_value x2
  have hx3 : Keeps z x3 := by
    unfold x3
    refine keeps_foldl _ _ ?_ (fun _ _ _ => ?_)
    · assumption
    · refine keeps_foldl _ _ ?_ (fun _ _ _ => ?_)
      · assumption
      · refine keeps_placeEntry _ _ _ ?_
        assumption
  try clear_value x3
  refine keeps_foldl _ _ ?_ (fun _ _ _ => ?_)
  · assumption
  · refine keeps_foldl _ _ ?_ (fun _ _ _ => ?_)
    · assumption
    · refine keeps_placeRetired _ _ _ ?_
      assumption

theorem keeps_putLayer {z s : State} (l : LayerSection) (hk : Keeps z s) :
    Keeps z (putLayer l s) := by
  unfold putLayer
  extract_lets -merge x1 x2
  have hx2 : Keeps z x2 := by
    unfold x2
    refine keeps_sramPut _ _ ?_
    assumption
  try clear_value x2
  split
  · refine keeps_sramPutWord _ _ ?_
    refine keeps_sramPutWord _ _ ?_
    assumption
  · assumption

theorem keeps_applySections {z s : State} (i : EnsImage) (upto : Nat) (hk : Keeps z s) :
    Keeps z (applySections i upto s) := by
  unfold applySections
  extract_lets -merge x1 x2
  split
  · rename_i e
    refine keeps_elim (congrArg Prod.snd e) ?_ (fun _ => ?_)
    · refine keeps2_ite ?_ ?_
      · refine keeps_clampOpt _ _ ?_ (fun _ _ _ => ?_)
        · assumption
        · refine keeps_clampPart _ ?_
          assumption
      · refine keeps2_mk ?_
        assumption
    · extract_lets -merge x3 x4 x5 x6
      have hx3 : Keeps z x3 := by
        unfold x3
        refine keeps_ite ?_ ?_
        · refine keeps_setF _ _ ?_
          assumption
        · assumption
      try clear_value x3
      have hx4 : Keeps z x4 := by
        unfold x4
        refine keeps_ite ?_ ?_
        · refine keeps_writeKeys _ ?_
          assumption
        · assumption
      try clear_value x4
      have hx5 : Keeps z x5 := by
        unfold x5
        refine keeps_ite ?_ ?_
        · refine keeps_applyPlacements _ ?_
          assumption
        · assumption
      try clear_value x5
      have hx6 : Keeps z x6 := by
        unfold x6
        refine keeps_ite ?_ ?_
        · refine keeps_foldl _ _ ?_ (fun _ _ _ => ?_)
          · refine keeps_writeKeys _ ?_
            assumption
          · refine keeps_setF _ _ ?_
            refine keeps_updPnt _ _ ?_
            assumption
        · assumption
      try clear_value x6
      split
      · rename_i e
        refine keeps_elim (congrArg Prod.snd e) ?_ (fun _ => ?_)
        · refine keeps2_ite ?_ ?_
          · refine keeps_clampLayers _ ?_
            assumption
          · refine keeps2_mk ?_
            assumption
        · extract_lets -merge x7 x8 x9 x10 x11
          have hx7 : Keeps z x7 := by
            unfold x7
            refine keeps_updEns _ ?_
            assumption
          try clear_value x7
          have hx9 : Keeps z x9 := by
            unfold x9
            refine keeps_upd ?_ (by rfl)
            assumption
          try clear_value x9
          have hx10 : Keeps z x10 := by
            unfold x10
            refine keeps_ite ?_ ?_
            · refine keeps_foldl _ _ ?_ (fun _ _ _ => ?_)
              · assumption
              · refine keeps_putLayer _ ?_
                refine keeps_writeKeys _ ?_
                assumption
            · assumption
          try clear_value x10
          have hx11 : Keeps z x11 := by
            unfold x11
            refine keeps_ite ?_ ?_
            · split
              · extract_lets -merge x12 x13 x14
                have hx12 : Keeps z x12.2 := by
                  unfold x12
                  refine keeps_limited _ _ _ ?_
                  assumption
                try clear_value x12
                have hx13 : Keeps z x13 := by
                  unfold x13
                  assumption
                try clear_value x13
                refine keeps_writeKeys _ ?_
                refine keeps_upd ?_ (by rfl)
                assumption
              · assumption
            · assumption
          try clear_value x11
          split
          · rename_i e
            refine keeps_elim (congrArg Prod.snd e) ?_ (fun _ => ?_)
            · refine keeps2_ite ?_ ?_
              · refine keeps_clampOpt _ _ ?_ (fun _ _ _ => ?_)
                · assumption
                · refine keeps_clampRouting _ ?_
                  assumption
              · refine keeps2_mk ?_
                assumption
            · extract_lets -merge x15 x16 x17
              have hx16 : Keeps z x16 := by
                unfold x16
                refine keeps_ite ?_ ?_
                · refine keeps_setF _ _ ?_
                  refine keeps_updEns _ ?_
                  refine keeps_upd ?_ (by rfl)
                  assumption
                · assumption
              try clear_value x16
              have hx17 : Keeps z x17 := by
                unfold x17
                refine keeps_ite ?_ ?_
                · split
                  · extract_lets -merge x18
                    have hx18 : Keeps z x18 := by
                      unfold x18
                      refine keeps_updPwr _ ?_
                      assumption
                    try clear_value x18
                    refine keeps_writeKeys _ ?_
                    assumption
                  · assumption
                · assumption
              try clear_value x17
              refine keeps_ite ?_ ?_
              · refine keeps_foldl _ _ ?_ (fun _ _ _ => ?_)
                · assumption
                · refine keeps_applyValue _ ?_
                  assumption
              · assumption

theorem wf_foldl_erase (l : List Nat) (m : SMap Nat) (h : SMap.wf resetField m = true) :
    SMap.wf resetField (l.foldl (fun m k => SMap.erase k m) m) = true := by
  induction l generalizing m with
  | nil => exact h
  | cons a l ih => exact ih _ (SMap.wf_erase _ _ _ h)

theorem keeps_undoSections {z s : State} (i : EnsImage) (upto : Nat) (h : Keeps z s) : Keeps z (undoSections i upto s) := by
  unfold undoSections
  extract_lets -merge +onlyGivenNames s1 s2 s3 s4 s5
  have h1 : Keeps z s1 := keeps_regs h (wf_foldl_erase _ _)
  have h2 : Keeps z s2 := keeps_ite (keeps_unplaceAll h1) h1
  have h3 : Keeps z s3 := keeps_ite (keeps_foldl _ _ h2 (fun _ _ ht => keeps_updPnt _ _ ht)) h2
  have h4 : Keeps z s4 := keeps_updEns _ h3
  have h5 : Keeps z s5 := keeps_ite (keeps_updPwr _ h4) h4
  exact keeps_upd h5 (by rfl)

theorem keeps_applyFails {z s : State} (i : EnsImage) (k err : Nat) (hk : Keeps z s) :
    Keeps z (applyFails i k err s) := by
  unfold applyFails
  extract_lets -merge x1
  have hx1 : Keeps z x1 := by
    unfold x1
    refine keeps_undoSections _ _ ?_
    refine keeps_applySections _ _ ?_
    assumption
  try clear_value x1
  refine keeps_failBase _ ?_
  refine keeps_countLoadClamps _ ?_
  assumption

theorem keeps_setDigest {z s : State} (i : EnsImage) (hk : Keeps z s) :
    Keeps z (setDigest i s) := by
  unfold setDigest
  extract_lets -merge x1
  refine keeps_foldl _ _ ?_ (fun _ _ _ => ?_)
  · assumption
  · refine keeps_setF _ _ ?_
    assumption

theorem keeps_activateImage {z s : State} (i : EnsImage) (hk : Keeps z s) :
    Keeps z (activateImage i s) := by
  unfold activateImage
  extract_lets -merge x1 x2 x3 x4 x5 x6 x7 x8
  have hx2 : Keeps z x2 := by
    unfold x2
    refine keeps_countLoadClamps _ ?_
    refine keeps_groupRules _ ?_
    refine keeps_applySections _ _ ?_
    assumption
  try clear_value x2
  have hx3 : Keeps z x3 := by
    unfold x3
    refine keeps_setF _ _ ?_
    refine keeps_setDigest _ ?_
    assumption
  try clear_value x3
  have hx4 : Keeps z x4 := by
    unfold x4
    refine keeps_setF _ _ ?_
    refine keeps_setEnsState _ ?_
    refine keeps_updEns _ ?_
    assumption
  try clear_value x4
  have hx6 : Keeps z x6 := by
    unfold x6
    refine keeps_signal _ ?_
    refine keeps_setF _ _ ?_
    refine keeps_upd ?_ (by rfl)
    assumption
  try clear_value x6
  have hx7 : Keeps z x7 := by
    unfold x7
    refine keeps_foldl _ _ ?_ (fun _ _ _ => ?_)
    · assumption
    · refine keeps_ite ?_ ?_
      · assumption
      · refine keeps_switchGate _ _ _ ?_
        assumption
  try clear_value x7
  have hx8 : Keeps z x8 := by
    unfold x8
    refine keeps_dataCheck ?_
    refine keeps_powerupCheck ?_
    assumption
  try clear_value x8
  refine keeps_ite ?_ ?_
  · refine keeps_requestAct _ ?_
    assumption
  · assumption

theorem keeps_clampValues {z s : State} (k_ : List (Nat × Nat)) (hk : Keeps z s) :
    Keeps z (clampValues k_ s).2 := by
  induction k_ generalizing s with
  | nil =>
    rw [clampValues]
    refine keeps2_mk ?_
    assumption
  | cons _ _ ih =>
    rw [clampValues]
    refine keeps2_mk ?_
    refine ih ?_
    refine keeps_clamped _ _ ?_
    assumption

theorem keeps_acceptAmend {z s : State} (a : EnsImage) (hk : Keeps z s) :
    Keeps z (acceptAmend a s) := by
  unfold acceptAmend
  extract_lets -merge x1
  have hx1 : Keeps z x1 := by
    unfold x1
    assumption
  try clear_value x1
  split
  · rename_i e
    refine keeps_elim (congrArg Prod.snd e) ?_ (fun _ => ?_)
    · refine keeps_clampLayers _ ?_
      assumption
    · split
      · rename_i e
        refine keeps_elim (congrArg Prod.snd e) ?_ (fun _ => ?_)
        · refine keeps_clampOpt _ _ ?_ (fun _ _ _ => ?_)
          · assumption
          · refine keeps_clampRouting _ ?_
            assumption
        · split
          · rename_i e
            refine keeps_elim (congrArg Prod.snd e) ?_ (fun _ => ?_)
            · refine keeps_clampOpt _ _ ?_ (fun _ _ _ => ?_)
              · assumption
              · extract_lets -merge x2
                have hx2 : Keeps z x2.2 := by
                  unfold x2
                  refine keeps_limited _ _ _ ?_
                  assumption
                try clear_value x2
                refine keeps2_mk ?_
                assumption
            · extract_lets -merge x3 x4
              split
              · rename_i e
                refine keeps_elim (congrArg Prod.snd e) ?_ (fun _ => ?_)
                · refine keeps_clampValues _ ?_
                  assumption
                · extract_lets -merge x5 x6 x7 x8 x9
                  have hx5 : Keeps z x5 := by
                    unfold x5
                    refine keeps_countLoadClamps _ ?_
                    assumption
                  try clear_value x5
                  have hx7 : Keeps z x7 := by
                    unfold x7
                    refine keeps_updEns _ ?_
                    assumption
                  try clear_value x7
                  have hx9 : Keeps z x9 := by
                    unfold x9
                    refine keeps_upd ?_ (by rfl)
                    assumption
                  try clear_value x9
                  split
                  · refine keeps_ite ?_ ?_
                    · assumption
                    · refine keeps_reclaim ?_
                      refine keeps_updEns _ ?_
                      assumption
                  · assumption

theorem keeps_verifyEnd {z s : State} (hk : Keeps z s) :
    Keeps z (verifyEnd s) := by
  unfold verifyEnd
  split
  · assumption
  · extract_lets -merge x1
    refine keeps_ite ?_ ?_
    · split
      · extract_lets -merge x2
        refine keeps_ite ?_ ?_
        · refine keeps_acceptAmend _ ?_
          assumption
        · refine keeps_failAmend _ ?_
          assumption
      · refine keeps_failAmend _ ?_
        assumption
    · refine keeps_ite ?_ ?_
      · assumption
      · refine keeps_ite ?_ ?_
        · refine keeps_setEnsState _ ?_
          assumption
        · refine keeps_failBase _ ?_
          assumption

theorem keeps_applyEnd {z s : State} (bad : Option Nat) (hk : Keeps z s) :
    Keeps z (applyEnd bad s) := by
  unfold applyEnd
  split
  · assumption
  · refine keeps_ite ?_ ?_
    · assumption
    · split
      · refine keeps_activateImage _ ?_
        assumption
      · refine keeps_applyFails _ _ _ ?_
        assumption

theorem keeps_loadRestarted {z s : State} (applied : Nat) (hk : Keeps z s) :
    Keeps z (loadRestarted applied s) := by
  unfold loadRestarted
  split
  · assumption
  · refine keeps_ite ?_ ?_
    · refine keeps_setF _ _ ?_
      refine keeps_updEns _ ?_
      assumption
    · refine keeps_ite ?_ ?_
      · refine keeps_applyFails _ _ _ ?_
        assumption
      · refine keeps_failBase _ ?_
        assumption

theorem keeps_unpowerHoist {z s : State} (h : Nat) (hk : Keeps z s) :
    Keeps z (unpowerHoist s h) := by
  unfold unpowerHoist
  extract_lets -merge x1
  have hx1 : Keeps z x1 := by
    unfold x1
    refine keeps_ite ?_ ?_
    · refine keeps_convOff _ ?_
      assumption
    · assumption
  try clear_value x1
  refine keeps_switchGate _ _ _ ?_
  assumption

theorem keeps_ensDeactivate {z s : State} (hk : Keeps z s) :
    Keeps z (ensDeactivate s) := by
  unfold ensDeactivate
  extract_lets -merge x1 x2 x3 x4 x5 x6 x7
  have hx1 : Keeps z x1 := by
    unfold x1
    refine keeps_foldl _ _ ?_ (fun _ _ _ => ?_)
    · assumption
    · refine keeps_unpowerHoist _ ?_
      assumption
  try clear_value x1
  have hx2 : Keeps z x2 := by
    unfold x2
    refine keeps_setF _ _ ?_
    refine keeps_setF _ _ ?_
    refine keeps_setF _ _ ?_
    refine keeps_setF _ _ ?_
    assumption
  try clear_value x2
  have hx3 : Keeps z x3 := by
    unfold x3
    refine keeps_foldl _ _ ?_ (fun _ _ _ => ?_)
    · assumption
    · refine keeps_portDark _ ?_
      assumption
  try clear_value x3
  have hx6 : Keeps z x6 := by
    unfold x6
    refine keeps_eraseAll ?_
    refine keeps_upd ?_ (by rfl)
    assumption
  try clear_value x6
  have hx7 : Keeps z x7 := by
    unfold x7
    refine keeps_setF _ _ ?_
    refine keeps_setEnsState _ ?_
    refine keeps_updEns _ ?_
    assumption
  try clear_value x7
  refine keeps_ite ?_ ?_
  · refine keeps_requestAct _ ?_
    refine keeps_dataCheck ?_
    assumption
  · refine keeps_countIgnored _ ?_
    assumption

end Sys2Proof.Machine
end

