-- ==== Sys2Proof/Laws/KeepsTiers.lean ====
section
/-! SUPPORT. What the operations of Machine/Tiers.lean keep. -/

namespace Sys2Proof.Machine
open Sys2Proof

theorem keeps_authFail {z s : State} (l q b : Nat) (hk : Keeps z s) :
    Keeps z (authFail l q b s) := by
  unfold authFail
  extract_lets -merge x1 x2 x3 x4 x5 x6 x7 x8
  have hx4 : Keeps z x4 := by
    unfold x4
    refine keeps_upd ?_ (by rfl)
    assumption
  try clear_value x4
  have hx5 : Keeps z x5 := by
    unfold x5
    refine keeps_report _ _ _ ?_
    refine keeps_addF _ _ ?_
    assumption
  try clear_value x5
  have hx6 : Keeps z x6 := by
    unfold x6
    refine keeps_emit _ _ _ _ _ ?_
    assumption
  try clear_value x6
  have hx7 : Keeps z x7 := by
    unfold x7
    refine keeps_foldl _ _ ?_ (fun _ _ _ => ?_)
    · assumption
    · refine keeps_ite ?_ ?_
      · refine keeps_failStep _ _ _ ?_
        assumption
      · refine keeps_failHere _ _ ?_
        assumption
  try clear_value x7
  have hx8 : Keeps z x8 := by
    unfold x8
    refine keeps_endFrom _ _ ?_
    assumption
  try clear_value x8
  refine keeps_freeWhere _ ?_
  assumption

theorem keeps_fetchDone {z s : State} (n l q b : Nat) (ok : Bool) (plain : List Byte) (hk : Keeps z s) :
    Keeps z (fetchDone n l q b ok plain s) := by
  unfold fetchDone
  extract_lets -merge x1
  refine keeps_ite ?_ ?_
  · assumption
  · split
    · refine keeps_upd ?_ (by rfl)
      assumption
    · extract_lets -merge x2 x3 x4 x5
      have hx3 : Keeps z x3 := by
        unfold x3
        refine keeps_meterAdd _ _ _ ?_
        assumption
      try clear_value x3
      refine keeps_ite ?_ ?_
      · refine keeps_authFail _ _ _ ?_
        assumption
      · refine keeps_sramPut _ _ ?_
        refine keeps_upd ?_ (by rfl)
        assumption

theorem keeps_tellLender {z s : State} (port l q b : Nat) (hk : Keeps z s) :
    Keeps z (tellLender port l q b s) := by
  unfold tellLender
  refine keeps_sendOn _ _ ?_
  assumption

theorem keeps_switchBlock {z s : State} (b : Block) (hk : Keeps z s) :
    Keeps z (switchBlock b s) := by
  unfold switchBlock
  extract_lets -merge x1 x2 x3 x4 x5 x6 x7
  have hx5 : Keeps z x5 := by
    unfold x5
    refine keeps_ite ?_ ?_
    · refine keeps_clearLines _ _ ?_
      assumption
    · refine keeps_ite ?_ ?_
      · refine keeps_tellLender _ _ _ _ ?_
        assumption
      · assumption
  try clear_value x5
  have hx6 : Keeps z x6 := by
    unfold x6
    refine keeps_mapBlocks _ ?_
    assumption
  try clear_value x6
  refine keeps_ite ?_ ?_
  · refine keeps_upd ?_ (by rfl)
    assumption
  · refine keeps_addF _ _ ?_
    assumption

theorem keeps_switchBlocks {z s : State} (hk : Keeps z s) :
    Keeps z (switchBlocks s) := by
  unfold switchBlocks
  refine keeps_foldl _ _ ?_ (fun _ _ _ => ?_)
  · assumption
  · refine keeps_switchBlock _ ?_
    assumption

theorem keeps_writeTier {z s : State} (b : Block) (counter : Nat) (body : List Byte) (hk : Keeps z s) :
    Keeps z (writeTier b counter body s) := by
  unfold writeTier
  extract_lets -merge x1 x2 x3
  refine keeps_hostPut _ _ ?_
  assumption

theorem keeps_copyDone {z s : State} (l q b : Nat) (ok : Bool) (plain : List Byte) (hk : Keeps z s) :
    Keeps z (copyDone l q b ok plain s) := by
  unfold copyDone
  split
  · assumption
  · extract_lets -merge x1 x2 x3 x4 x5 x6 x7 x8 x9 x10
    have hx4 : Keeps z x4 := by
      unfold x4
      refine keeps_ite ?_ ?_
      · refine keeps_meterAdd _ _ _ ?_
        assumption
      · assumption
    try clear_value x4
    have hx5 : Keeps z x5.2 := by
      unfold x5
      refine keeps_takeNonce ?_
      assumption
    try clear_value x5
    have hx7 : Keeps z x7 := by
      unfold x7
      refine keeps_ite ?_ ?_
      · refine keeps_writeTier _ _ _ ?_
        assumption
      · assumption
    try clear_value x7
    have hx8 : Keeps z x8 := by
      unfold x8
      refine keeps_ite ?_ ?_
      · refine keeps_sramPut _ _ ?_
        assumption
      · assumption
    try clear_value x8
    have hx9 : Keeps z x9 := by
      unfold x9
      refine keeps_ite ?_ ?_
      · refine keeps_mapBlocks _ ?_
        assumption
      · refine keeps_moveFail _ _ _ ?_
        assumption
    try clear_value x9
    have hx10 : Keeps z x10 := by
      unfold x10
      refine keeps_releaseAct _ ?_
      assumption
    try clear_value x10
    refine keeps_ite ?_ ?_
    · assumption
    · refine keeps_ite ?_ ?_
      · refine keeps_switchBlocks ?_
        assumption
      · assumption

theorem keeps_lentCopyDone {z s : State} (pod l q b : Nat) (ok : Bool) (hk : Keeps z s) :
    Keeps z (lentCopyDone pod l q b ok s) := by
  unfold lentCopyDone
  extract_lets -merge x1 x2
  have hx2 : Keeps z x2.2 := by
    unfold x2
    refine keeps_takeNonce ?_
    assumption
  try clear_value x2
  split
  · assumption
  · refine keeps_ite ?_ ?_
    · refine keeps_releaseAct _ ?_
      refine keeps_sendTo _ _ _ _ _ _ ?_
      refine keeps_meterAdd _ _ _ ?_
      assumption
    · refine keeps_requestAct _ ?_
      refine keeps_releaseAct _ ?_
      refine keeps_addF _ _ ?_
      assumption

theorem keeps_keepLent {z s : State} (pod ten l q b fmt first fill : Nat) (bytes : List Byte) (hk : Keeps z s) :
    Keeps z (keepLent pod ten l q b fmt first fill bytes s) := by
  unfold keepLent
  extract_lets -merge x1 x2
  split
  · extract_lets -merge x3
    refine keeps_ite ?_ ?_
    · assumption
    · refine keeps_sramPut _ _ ?_
      refine keeps_upd ?_ (by rfl)
      assumption
  · assumption

theorem keeps_dropLent {z s : State} (x : LentBlock) (hk : Keeps z s) :
    Keeps z (dropLent x s) := by
  unfold dropLent
  extract_lets -merge x1
  refine keeps_reclaimDone ?_
  refine keeps_clearLines _ _ ?_
  refine keeps_upd ?_ (by rfl)
  assumption

theorem keeps_failPeer {z s : State} (src step cause : Nat) (hk : Keeps z s) :
    Keeps z (failPeer src step cause s) := by
  unfold failPeer
  refine keeps_ite ?_ ?_
  · refine keeps_failHere _ _ ?_
    assumption
  · assumption

theorem keeps_peerQuery {z s : State} (src v step ten l q b head grp lim holder : Nat) (catt : Word) (qs : List Nat) (hk : Keeps z s) :
    Keeps z (peerQuery src v step ten l q b head grp lim holder catt qs s) := by
  unfold peerQuery
  extract_lets -merge x1 x2 x3
  have hx1 : Keeps z x1 := by
    unfold x1
    refine keeps_hear _ ?_
    assumption
  try clear_value x1
  split
  · assumption
  · extract_lets -merge x4 x5 x6 x7 x8 x9 x10 x11 x12 x13
    have hx11 : Keeps z x11 := by
      unfold x11
      refine keeps_addF _ _ ?_
      assumption
    try clear_value x11
    have hx12 : Keeps z x12 := by
      unfold x12
      refine keeps_countOps _ _ _ _ ?_
      assumption
    try clear_value x12
    refine keeps_ite ?_ (keeps_ite ?_ ?_)
    · refine keeps_failPeer _ _ _ ?_
      assumption
    · refine keeps_failPeer _ _ _ ?_
      assumption
    · refine keeps_sendTo _ _ _ _ _ _ ?_
      refine keeps_updVec _ _ ?_
      assumption

theorem keeps_restoreFail {z s : State} (l q b : Nat) (hk : Keeps z s) :
    Keeps z (restoreFail l q b s) := by
  unfold restoreFail
  extract_lets -merge x1 x2
  have hx2 : Keeps z x2 := by
    unfold x2
    refine keeps_upd ?_ (by rfl)
    assumption
  try clear_value x2
  refine keeps_freeWhere _ ?_
  refine keeps_endFrom _ _ ?_
  assumption

theorem keeps_restoreBlock {z s : State} (l q b : Nat) (bytes : List Byte) (hk : Keeps z s) :
    Keeps z (restoreBlock l q b bytes s) := by
  unfold restoreBlock
  split
  · assumption
  · split
    · refine keeps_restoreFail _ _ _ ?_
      assumption
    · refine keeps_sramPut _ _ ?_
      refine keeps_mapBlocks _ ?_
      assumption

theorem keeps_takeBack {z s : State} (ten l q b fmt first fill : Nat) (bytes : List Byte) (hk : Keeps z s) :
    Keeps z (takeBack ten l q b fmt first fill bytes s) := by
  unfold takeBack
  extract_lets -merge x1
  have hx1 : Keeps z x1 := by
    unfold x1
    refine keeps_allocBlock _ _ _ _ _ _ _ ?_
    assumption
  try clear_value x1
  split
  · assumption
  · refine keeps_sramPut _ _ ?_
    refine keeps_mapBlocks _ ?_
    assumption

theorem keeps_blockCopy {z s : State} (src l q b : Nat) (u : CopyUse) (hk : Keeps z s) :
    Keeps z (blockCopy src l q b u s) := by
  unfold blockCopy
  extract_lets -merge x1
  have hx1 : Keeps z x1 := by
    unfold x1
    refine keeps_hear _ ?_
    assumption
  try clear_value x1
  split
  · refine keeps_keepLent _ _ _ _ _ _ _ _ _ ?_
    assumption
  · split
    · refine keeps_sendTo _ _ _ _ _ _ ?_
      assumption
    · assumption
  · split
    · refine keeps_ite ?_ ?_
      · refine keeps_sramPut _ _ ?_
        assumption
      · assumption
    · assumption
  · split
    · extract_lets -merge x2 x3
      have hx3 : Keeps z x3 := by
        unfold x3
        refine keeps_mapBlocks _ ?_
        assumption
      try clear_value x3
      refine keeps_ite ?_ ?_
      · refine keeps_ite ?_ ?_
        · refine keeps_switchBlocks ?_
          assumption
        · assumption
      · assumption
    · assumption
  · split
    · refine keeps_dropLent _ ?_
      assumption
    · assumption
  · refine keeps_takeBack _ _ _ _ _ _ _ _ ?_
    assumption
  · refine keeps_ite ?_ ?_
    · refine keeps_sendTo _ _ _ _ _ _ ?_
      assumption
    · refine keeps_sendTo _ _ _ _ _ _ ?_
      assumption
  · refine keeps_ite ?_ ?_
    · assumption
    · split
      · refine keeps_restoreBlock _ _ _ _ ?_
        assumption
      · refine keeps_restoreFail _ _ _ ?_
        assumption

theorem keeps_idleTimeout {z s : State} (q : Nat) (hk : Keeps z s) :
    Keeps z (idleTimeout q s) := by
  unfold idleTimeout
  extract_lets -merge x1 x2
  refine keeps_ite ?_ ?_
  · refine keeps_pauseSeq _ _ _ ?_
    assumption
  · assumption

theorem keeps_pauseExpiry {z s : State} (q others : Nat) (hk : Keeps z s) :
    Keeps z (pauseExpiry q others s) := by
  unfold pauseExpiry
  extract_lets -merge x1 x2
  refine keeps_ite ?_ ?_
  · refine keeps_emit _ _ _ _ _ ?_
    refine keeps_endSeq _ ?_
    refine keeps_addF _ _ ?_
    assumption
  · assumption

end Sys2Proof.Machine
end

