-- ==== Sys2Proof/Laws/KeepsBoundary.lean ====
section
/-! SUPPORT. What the operations of Machine/Boundary.lean keep. -/

namespace Sys2Proof.Machine
open Sys2Proof

theorem keeps_setRecipe {z s : State} (l : Nat) (r : RecipeRec) (hk : Keeps z s) :
    Keeps z (setRecipe l r s) := by
  unfold setRecipe
  extract_lets -merge x1
  refine keeps_upd ?_ (by rfl)
  assumption

theorem keeps_showIndex {z s : State} (l k : Nat) (hk : Keeps z s) :
    Keeps z (showIndex l k s) := by
  unfold showIndex
  split
  · refine keeps_sramPutWord _ _ ?_
    assumption
  · assumption

theorem keeps_applyRecipe {z s : State} (n l k : Nat) (hk : Keeps z s) :
    Keeps z (applyRecipe n l k s) := by
  unfold applyRecipe
  split
  · assumption
  · extract_lets -merge x1 x2 x3 x4
    have hx1 : Keeps z x1.2 := by
      unfold x1
      refine keeps_clampValues _ ?_
      assumption
    try clear_value x1
    have hx2 : Keeps z x2 := by
      unfold x2
      refine keeps_foldl _ _ ?_ (fun _ _ _ => ?_)
      · assumption
      · refine keeps_applyValue _ ?_
        assumption
    try clear_value x2
    have hx3 : Keeps z x3 := by
      unfold x3
      refine keeps_sramPut _ _ ?_
      refine keeps_sramPut _ _ ?_
      assumption
    try clear_value x3
    refine keeps_ite ?_ ?_
    · assumption
    · refine keeps_ite ?_ ?_
      · assumption
      · refine keeps_emitPart _ _ ?_
        refine keeps_showIndex _ _ ?_
        refine keeps_setRecipe _ _ ?_
        assumption

theorem keeps_policyLayer {z s : State} (n : Nat) (p : Policy) (l : Nat) (hk : Keeps z s) :
    Keeps z (policyLayer n p l s).2 := by
  unfold policyLayer
  extract_lets -merge x1 x2 x3 x4 x5 x6 x7
  refine keeps2_ite ?_ ?_
  · refine keeps2_mk ?_
    refine keeps_setRecipe _ _ ?_
    assumption
  · refine keeps2_ite ?_ ?_
    · refine keeps2_mk ?_
      refine keeps_showIndex _ _ ?_
      refine keeps_setRecipe _ _ ?_
      assumption
    · refine keeps2_mk ?_
      refine keeps_setRecipe _ _ ?_
      assumption

theorem keeps_recipePolicy {z s : State} (n : Nat) (planned : List (Nat × Nat)) (hk : Keeps z s) :
    Keeps z (recipePolicy n planned s) := by
  unfold recipePolicy
  extract_lets -merge x1 x2 x3
  have hx1 : Keeps z x1.2 := by
    unfold x1
    refine keeps2_foldl _ _ ?_ (fun _ _ _ => ?_)
    · refine keeps2_mk ?_
      assumption
    · split
      · extract_lets -merge x4
        have hx4 : Keeps z x4.2 := by
          unfold x4
          refine keeps_policyLayer _ _ _ ?_
          assumption
        try clear_value x4
        refine keeps2_mk ?_
        assumption
      · assumption
  try clear_value x1
  refine keeps_ite ?_ ?_
  · assumption
  · refine keeps_updCfg _ ?_
    assumption

theorem keeps_applyAmend {z s : State} (hk : Keeps z s) :
    Keeps z (applyAmend s) := by
  unfold applyAmend
  split
  · extract_lets -merge x1 x2 x3 x4 x5 x6 x7 x8 x9 x10
    have hx2 : Keeps z x2 := by
      unfold x2
      refine keeps_updEns _ ?_
      assumption
    try clear_value x2
    have hx3 : Keeps z x3 := by
      unfold x3
      assumption
    try clear_value x3
    have hx4 : Keeps z x4 := by
      unfold x4
      refine keeps_foldl _ _ ?_ (fun _ _ _ => ?_)
      · assumption
      · extract_lets -merge x11 x12 x13 x14
        have hx11 : Keeps z x11 := by
          unfold x11
          refine keeps_foldl _ _ ?_ (fun _ _ _ => ?_)
          · assumption
          · refine keeps_updArr _ _ ?_
            assumption
        try clear_value x11
        have hx13 : Keeps z x13 := by
          unfold x13
          refine keeps_foldl _ _ ?_ (fun _ _ _ => ?_)
          · assumption
          · extract_lets -merge x15
            have hx15 : Keeps z x15 := by
              unfold x15
              refine keeps_updArr _ _ ?_
              assumption
            try clear_value x15
            refine keeps_ite ?_ ?_
            · refine keeps_setArrState _ _ ?_
              assumption
            · assumption
        try clear_value x13
        have hx14 : Keeps z x14 := by
          unfold x14
          refine keeps_foldl _ _ ?_ (fun _ _ _ => ?_)
          · assumption
          · refine keeps_placeEntry _ _ _ ?_
            assumption
        try clear_value x14
        refine keeps_foldl _ _ ?_ (fun _ _ _ => ?_)
        · assumption
        · refine keeps_placeRetired _ _ _ ?_
          assumption
    try clear_value x4
    have hx6 : Keeps z x6 := by
      unfold x6
      split
      · refine keeps_upd ?_ (by rfl)
        assumption
      · assumption
    try clear_value x6
    have hx9 : Keeps z x9 := by
      unfold x9
      split
      · extract_lets -merge x16
        refine keeps_setF _ _ ?_
        refine keeps_upd ?_ (by rfl)
        assumption
      · assumption
    try clear_value x9
    have hx10 : Keeps z x10 := by
      unfold x10
      split
      · refine keeps_updPwr _ ?_
        assumption
      · assumption
    try clear_value x10
    refine keeps_signal _ ?_
    refine keeps_setF _ _ ?_
    refine keeps_setF _ _ ?_
    assumption
  · refine keeps_setF _ _ ?_
    refine keeps_updEns _ ?_
    assumption

theorem keeps_applyInternal {z s : State} (n : Nat) (c : IntCommit) (hk : Keeps z s) :
    Keeps z (applyInternal n s c) := by
  unfold applyInternal
  extract_lets -merge x1
  have hx1 : Keeps z x1 := by
    unfold x1
    refine keeps_ite ?_ ?_
    · refine keeps_applyAmend ?_
      assumption
    · assumption
  try clear_value x1
  refine keeps_applyValues _ ?_
  refine keeps_foldl _ _ ?_ (fun _ _ _ => ?_)
  · assumption
  · refine keeps_applyRecipe _ _ _ ?_
    assumption

theorem keeps_applyInternals {z s : State} (n : Nat) (hk : Keeps z s) :
    Keeps z (applyInternals n s) := by
  unfold applyInternals
  refine keeps_foldl _ _ ?_ (fun _ _ _ => ?_)
  · refine keeps_updCfg _ ?_
    assumption
  · refine keeps_applyInternal _ _ ?_
    assumption

theorem keeps_applyHost {z s : State} (n : Option Nat) (c : HostCommit) (hk : Keeps z s) :
    Keeps z (applyHost n c s) := by
  unfold applyHost
  extract_lets -merge x1 x2
  have hx2 : Keeps z x2 := by
    unfold x2
    refine keeps_ite ?_ ?_
    · refine keeps_setF _ _ ?_
      assumption
    · assumption
  try clear_value x2
  refine keeps_setF _ _ ?_
  refine keeps_applyValues _ ?_
  assumption

theorem keeps_applyHosts {z s : State} (n : Option Nat) (k_ : List HostCommit) (hk : Keeps z s) :
    Keeps z (applyHosts n k_ s) := by
  induction k_ generalizing s with
  | nil =>
    rw [applyHosts]
    refine keeps_updCfg _ ?_
    assumption
  | cons _ _ ih =>
    rw [applyHosts]
    refine keeps_ite ?_ ?_
    · refine ih ?_
      refine keeps_applyHost _ _ ?_
      assumption
    · refine keeps_updCfg _ ?_
      assumption

theorem keeps_applyCommits {z s : State} (n : Option Nat) (hk : Keeps z s) :
    Keeps z (applyCommits n s) := by
  unfold applyCommits
  extract_lets -merge x1
  have hx1 : Keeps z x1 := by
    unfold x1
    refine keeps_applyInternals _ ?_
    assumption
  try clear_value x1
  refine keeps_applyHosts _ _ ?_
  assumption

theorem keeps_applyLend {z s : State} (hk : Keeps z s) :
    Keeps z (applyLend s) := by
  unfold applyLend
  split
  · refine keeps_ite ?_ ?_
    · refine keeps_setF _ _ ?_
      refine keeps_updEns _ ?_
      assumption
    · assumption
  · assumption

theorem keeps_moveArray {z s : State} (a : Nat) (hk : Keeps z s) :
    Keeps z (moveArray s a) := by
  unfold moveArray
  extract_lets -merge x1
  split
  · assumption
  · extract_lets -merge x2 x3 x4 x5 x6
    have hx3 : Keeps z x3 := by
      unfold x3
      refine keeps_setF _ _ ?_
      refine keeps_setF _ _ ?_
      assumption
    try clear_value x3
    have hx4 : Keeps z x4 := by
      unfold x4
      refine keeps_setArrState _ _ ?_
      refine keeps_updArr _ _ ?_
      assumption
    try clear_value x4
    have hx5 : Keeps z x5 := by
      unfold x5
      refine keeps_updArr _ _ ?_
      assumption
    try clear_value x5
    have hx6 : Keeps z x6 := by
      unfold x6
      refine keeps_ite ?_ ?_
      · refine keeps_retire _ _ ?_
        assumption
      · refine keeps_requestAct _ ?_
        refine keeps_setArrState _ _ ?_
        assumption
    try clear_value x6
    refine keeps_ite ?_ ?_
    · assumption
    · refine keeps_ite ?_ ?_
      · refine keeps_lifeAdd _ _ _ ?_
        refine keeps_addF _ _ ?_
        assumption
      · assumption

theorem keeps_moveArrays {z s : State} (hk : Keeps z s) :
    Keeps z (moveArrays s) := by
  unfold moveArrays
  refine keeps_foldl _ _ ?_ (fun _ _ _ => ?_)
  · assumption
  · refine keeps_moveArray _ ?_
    assumption

theorem keeps_clearReleased {z s : State} (hk : Keeps z s) :
    Keeps z (clearReleased s) := by
  unfold clearReleased
  refine keeps_foldl _ _ ?_ (fun _ _ _ => ?_)
  · assumption
  · refine keeps_clearBanks _ ?_
    assumption

theorem keeps_relieveTiers {z s : State} (hk : Keeps z s) :
    Keeps z (relieveTiers s) := by
  unfold relieveTiers
  extract_lets -merge x1
  refine keeps_upd ?_ (by rfl)
  assumption

theorem keeps_settleIdle {z s : State} (q : Nat) (hk : Keeps z s) :
    Keeps z (settleIdle s q) := by
  unfold settleIdle
  extract_lets -merge x1
  refine keeps_ite ?_ ?_
  · assumption
  · refine keeps_ite ?_ ?_
    · refine keeps_completeCmds _ _ ?_
      refine keeps_endSeq _ ?_
      assumption
    · refine keeps_ite ?_ ?_
      · split
        · refine keeps_completeCmds _ _ ?_
          refine keeps_pauseSeq _ _ _ ?_
          assumption
        · assumption
      · assumption

theorem keeps_settleEnded {z s : State} (hk : Keeps z s) :
    Keeps z (settleEnded s) := by
  unfold settleEnded
  extract_lets -merge x1
  refine keeps_completeCmds _ _ ?_
  refine keeps_completeCmds _ _ ?_
  assumption

theorem keeps_settleSeqs {z s : State} (hk : Keeps z s) :
    Keeps z (settleSeqs s) := by
  unfold settleSeqs
  refine keeps_settleEnded ?_
  refine keeps_foldl _ _ ?_ (fun _ _ _ => ?_)
  · assumption
  · refine keeps_settleIdle _ ?_
    assumption

theorem keeps_lagUpdate {z s : State} (p : Nat) (above : Bool) (hk : Keeps z s) :
    Keeps z (lagUpdate p above s) := by
  unfold lagUpdate
  extract_lets -merge x1 x2 x3 x4 x5 x6 x7
  have hx2 : Keeps z x2 := by
    unfold x2
    refine keeps_setF _ _ ?_
    assumption
  try clear_value x2
  have hx5 : Keeps z x5 := by
    unfold x5
    refine keeps_updPnt _ _ ?_
    assumption
  try clear_value x5
  have hx7 : Keeps z x7 := by
    unfold x7
    refine keeps_ite ?_ ?_
    · assumption
    · refine keeps_setF _ _ ?_
      assumption
  try clear_value x7
  refine keeps_ite ?_ ?_
  · refine keeps_lifeAdd _ _ _ ?_
    refine keeps_emitPart _ _ ?_
    assumption
  · assumption

theorem keeps_pennantAccount {z s : State} (ls : List (Nat × Nat)) (old : State) (p : Nat) (h : Keeps z s) :
    Keeps z (pennantAccount ls old s p) := by
  have h1 := fun b => keeps_lagUpdate p b (keeps_setF (pntF Reg.Pnt.busySlots p) (busyOf p old) h)
  unfold pennantAccount
  dsimp only
  split
  · exact keeps_ite (h1 _) (keeps_lifeAdd _ _ _ (keeps_addF _ _ (h1 _)))
  · exact h1 _

theorem keeps_stepAccounts {z s : State} (hk : Keeps z s) :
    Keeps z (stepAccounts s) := by
  unfold stepAccounts
  extract_lets -merge x1 x2
  have hx2 : Keeps z x2 := by
    unfold x2
    refine keeps_foldl _ _ ?_ (fun _ _ _ => ?_)
    · assumption
    · refine keeps_pennantAccount _ _ _ ?_
      assumption
  try clear_value x2
  refine keeps_upd ?_ (by rfl)
  assumption

theorem keeps_restartWatches {z s : State} (hk : Keeps z s) :
    Keeps z (restartWatches s) := by
  unfold restartWatches
  refine keeps_foldl _ _ ?_ (fun _ _ _ => ?_)
  · assumption
  · refine keeps_setF _ _ ?_
    refine keeps_setF _ _ ?_
    refine keeps_setF _ _ ?_
    refine keeps_updPnt _ _ ?_
    assumption

theorem keeps_boundaryWork {z s : State} (hk : Keeps z s) :
    Keeps z (boundaryWork s) := by
  unfold boundaryWork
  extract_lets -merge x1 x2
  have hx1 : Keeps z x1 := by
    unfold x1
    refine keeps_moveArrays ?_
    refine keeps_switchBlocks ?_
    refine keeps_applyLend ?_
    assumption
  try clear_value x1
  have hx2 : Keeps z x2 := by
    unfold x2
    refine keeps_restartWatches ?_
    refine keeps_stepAccounts ?_
    assumption
  try clear_value x2
  refine keeps_touchUpStart ?_
  refine keeps_relieveTiers ?_
  refine keeps_settleSeqs ?_
  refine keeps_clearReleased ?_
  refine keeps_sweepBlocks ?_
  assumption

theorem keeps_stepBoundary {z s : State} (n : Nat) (hk : Keeps z s) :
    Keeps z (stepBoundary n s) := by
  unfold stepBoundary
  extract_lets -merge x1 x2 x3 x4 x5 x6
  have hx3 : Keeps z x3 := by
    unfold x3
    refine keeps_ite ?_ ?_
    · refine keeps_recipePolicy _ _ ?_
      assumption
    · assumption
  try clear_value x3
  have hx4 : Keeps z x4 := by
    unfold x4
    refine keeps_boundaryWork ?_
    refine keeps_applyCommits _ ?_
    assumption
  try clear_value x4
  have hx5 : Keeps z x5 := by
    unfold x5
    refine keeps_updStep _ _ ?_
    assumption
  try clear_value x5
  refine keeps_ite ?_ ?_
  · assumption
  · refine keeps_ite ?_ ?_
    · refine keeps_upd ?_ (by rfl)
      assumption
    · assumption

theorem keeps_commitIdle {z s : State} (hk : Keeps z s) :
    Keeps z (commitIdle s) := by
  unfold commitIdle
  refine keeps_ite ?_ ?_
  · refine keeps_boundaryWork ?_
    refine keeps_applyCommits _ ?_
    assumption
  · assumption

theorem keeps_atPlan {z s : State} (before : State) (hk : Keeps z s) :
    Keeps z (atPlan before s) := by
  unfold atPlan
  refine keeps_ite ?_ ?_
  · split
    · refine keeps_ite ?_ ?_
      · refine keeps_applyHosts _ _ ?_
        assumption
      · assumption
    · assumption
  · assumption

end Sys2Proof.Machine
end

