-- ==== Sys2Proof/Laws/KeepsBunting.lean ====
section
/-! SUPPORT. What the operations of Machine/Bunting.lean keep. -/

namespace Sys2Proof.Machine
open Sys2Proof

theorem keeps_setBank {z s : State} (t : Nat) (b : Bool) (r : Bank) (hk : Keeps z s) :
    Keeps z (setBank t b r s) := by
  unfold setBank
  refine keeps_upd ?_ (by rfl)
  assumption

theorem keeps_failBank {z s : State} (t : Nat) (b : Bool) (hk : Keeps z s) :
    Keeps z (failBank t b s) := by
  unfold failBank
  refine keeps_foldl _ _ ?_ (fun _ _ _ => ?_)
  · assumption
  · refine keeps_failHere _ _ ?_
    assumption

theorem keeps_bankLoadDone {z s : State} (t : Nat) (b : Bool) (ok : Bool) (streamed : List Byte) (hk : Keeps z s) :
    Keeps z (bankLoadDone t b ok streamed s) := by
  unfold bankLoadDone
  extract_lets -merge x1 x2 x3
  have hx3 : Keeps z x3 := by
    unfold x3
    refine keeps_failBank _ _ ?_
    refine keeps_report _ _ _ ?_
    assumption
  try clear_value x3
  refine keeps_ite ?_ ?_
  · assumption
  · refine keeps_ite ?_ ?_
    · refine keeps_setBank _ _ _ ?_
      refine keeps_addF _ _ ?_
      assumption
    · refine keeps_setBank _ _ _ ?_
      assumption

theorem keeps_tagMiss {z s : State} (t step : Nat) (hk : Keeps z s) :
    Keeps z (tagMiss t step s) := by
  unfold tagMiss
  refine keeps_failHere _ _ ?_
  refine keeps_addF _ _ ?_
  refine keeps_setF _ _ ?_
  assumption

theorem keeps_bankBad {z s : State} (t : Nat) (u : Bool) (hk : Keeps z s) :
    Keeps z (bankBad t u s) := by
  unfold bankBad
  extract_lets -merge x1 x2
  have hx1 : Keeps z x1 := by
    unfold x1
    refine keeps_failBank _ _ ?_
    refine keeps_report _ _ _ ?_
    refine keeps_domUncorrected _ _ ?_
    assumption
  try clear_value x1
  refine keeps_freeBanks ?_
  refine keeps_setBank _ _ _ ?_
  assumption

theorem keeps_tileSend {z s : State} (t : Nat) (d : TileDst) (y : List Nat) (hk : Keeps z s) :
    Keeps z (tileSend t d y s) := by
  unfold tileSend
  split
  · refine keeps_updPnt _ _ ?_
    assumption
  · extract_lets -merge x1
    refine keeps_storeVec _ _ _ _ _ ?_
    assumption

theorem keeps_buntingVector {z s : State} (t step : Nat) (use : BankUse) (ten rec : Nat) (segs : List Segment) (d : TileDst) (ecc : Ecc) (hk : Keeps z s) :
    Keeps z (buntingVector t step use ten rec segs d ecc s) := by
  unfold buntingVector
  extract_lets -merge x1 x2 x3 x4
  have hx2 : Keeps z x2 := by
    unfold x2
    refine keeps_ite ?_ ?_
    · refine keeps_domCorrected _ _ ?_
      assumption
    · assumption
  try clear_value x2
  have hx4 : Keeps z x4 := by
    unfold x4
    refine keeps_countClamps _ ?_
    refine keeps_meterAdd _ _ _ ?_
    assumption
  try clear_value x4
  refine keeps_ite ?_ ?_
  · assumption
  · refine keeps_ite ?_ ?_
    · refine keeps_tagMiss _ _ ?_
      assumption
    · split
      · refine keeps_bankBad _ _ ?_
        assumption
      · refine keeps_tileSend _ _ _ ?_
        assumption

end Sys2Proof.Machine
end

