-- ==== Sys2Proof/Laws/KeepsStartup.lean ====
section
/-! SUPPORT. What the operations of Machine/Startup.lean keep. -/

namespace Sys2Proof.Machine
open Sys2Proof

theorem keeps_resetRelease {z s : State} (corr : Nat) (ok : Bool) (hk : Keeps z s) :
    Keeps z (resetRelease corr ok s) := by
  unfold resetRelease
  extract_lets -merge x1 x2 x3 x4
  have hx2 : Keeps z x2 := by
    unfold x2
    refine keeps_upd ?_ (by rfl)
    assumption
  try clear_value x2
  have hx3 : Keeps z x3 := by
    unfold x3
    refine keeps_setF _ _ ?_
    refine keeps_setF _ _ ?_
    assumption
  try clear_value x3
  have hx4 : Keeps z x4 := by
    unfold x4
    refine keeps_domCorrected _ _ ?_
    refine keeps_setF _ _ ?_
    assumption
  try clear_value x4
  refine keeps_ite ?_ ?_
  · assumption
  · refine keeps_ite ?_ ?_
    · assumption
    · refine keeps_report _ _ _ ?_
      refine keeps_domUncorrected _ _ ?_
      refine keeps_setF _ _ ?_
      assumption

theorem keeps_rejectCopy {z s : State} (n : BitVec 4) (hk : Keeps z s) :
    Keeps z (rejectCopy s n) := by
  unfold rejectCopy
  extract_lets -merge x1
  refine keeps_report _ _ _ ?_
  refine keeps_domUncorrected _ _ ?_
  refine keeps_upd ?_ (by rfl)
  assumption

theorem keeps_loadRecord {z s : State} (hk : Keeps z s) :
    Keeps z (loadRecord s) := by
  unfold loadRecord
  extract_lets -merge x1 x2
  split
  · refine keeps_upd ?_ (by rfl)
    assumption
  · refine keeps_upd ?_ (by rfl)
    assumption

theorem keeps_lastEvent {z s : State} (kind source : Nat) (h : Keeps z s) : Keeps z (lastEvent kind source s) := by
  unfold lastEvent
  extract_lets -merge +onlyGivenNames slot put
  have hp : ∀ o v t, Keeps z t → Keeps z (put o v t) := fun o v t ht => keeps_upd ht (by rfl)
  exact hp _ _ _ (hp _ _ _ (hp _ _ _ h))

theorem keeps_recordLatch {z s : State} (hk : Keeps z s) :
    Keeps z (recordLatch s) := by
  unfold recordLatch
  split
  · assumption
  · refine keeps_updPwr _ ?_
    refine keeps_report _ _ _ ?_
    refine keeps_lastEvent _ _ ?_
    assumption
  · refine keeps_updPwr _ ?_
    refine keeps_report _ _ _ ?_
    refine keeps_lastEvent _ _ ?_
    assumption

theorem keeps_startFirmware {z s : State} (x : FwSlot) (b : Bool) (bad : List (BitVec 4)) (h : Keeps z s) :
    Keeps z (startFirmware x b bad s) := by
  have h2 := keeps_setF Reg.Glb.secSvn x.svn.toNat (keeps_setF Reg.Glb.secSlotB (if b then 1 else 0)
    (keeps_updSec (fun c => { c with fwDig := x.fwDig, seqDig := x.seqDig, fwKey1 := decide (x.keyIx = 1) }) h))
  rw [startFirmware]
  refine keeps_lifeAdd _ _ _ (keeps_recordLatch (keeps_loadRecord (keeps_foldl _ _ (keeps_setF _ _ (keeps_freshNonce
    (keeps_setF _ _ (keeps_setF _ _ ?_)))) (fun _ _ ht => keeps_rejectCopy _ ht))))
  exact ⟨h2.queue, fun _ => rfl, h2.regs, h2.host⟩

theorem keeps_bootRomEnd {z s : State} (a b : FwSlot) (bad : List (BitVec 4)) (hk : Keeps z s) :
    Keeps z (bootRomEnd a b bad s) := by
  unfold bootRomEnd
  refine keeps_ite ?_ ?_
  · assumption
  · refine keeps_ite ?_ ?_
    · refine keeps_startFirmware _ _ _ ?_
      assumption
    · refine keeps_ite ?_ ?_
      · refine keeps_startFirmware _ _ _ ?_
        assumption
      · refine keeps_setF _ _ ?_
        assumption

theorem keeps_lightPorts {z s : State} (hk : Keeps z s) :
    Keeps z (lightPorts s) := by
  unfold lightPorts
  refine keeps_foldl _ _ ?_ (fun _ _ _ => ?_)
  · assumption
  · refine keeps_linkEnable _ ?_
    assumption

theorem keeps_podAddressWrite {z s : State} (board : BitVec 6) (slot : BitVec 4) (hk : Keeps z s) :
    Keeps z (podAddressWrite board slot s) := by
  unfold podAddressWrite
  extract_lets -merge x1 x2 x3 x4
  have hx1 : Keeps z x1 := by
    unfold x1
    refine keeps_setF _ _ ?_
    refine keeps_setF _ _ ?_
    refine keeps_setF _ _ ?_
    assumption
  try clear_value x1
  have hx4 : Keeps z x4 := by
    unfold x4
    refine keeps_upd ?_ (by rfl)
    assumption
  try clear_value x4
  refine keeps_ite ?_ ?_
  · refine keeps_lightPorts ?_
    assumption
  · assumption

theorem keeps_checkingEnd {z s : State} (hk : Keeps z s) :
    Keeps z (checkingEnd s) := by
  unfold checkingEnd
  extract_lets -merge x1
  have hx1 : Keeps z x1 := by
    unfold x1
    refine keeps_setF _ _ ?_
    assumption
  try clear_value x1
  refine keeps_ite ?_ ?_
  · refine keeps_ite ?_ ?_
    · refine keeps_lightPorts ?_
      assumption
    · assumption
  · assumption

theorem keeps_lightingEnd {z s : State} (hk : Keeps z s) :
    Keeps z (lightingEnd s) := by
  unfold lightingEnd
  extract_lets -merge x1
  have hx1 : Keeps z x1 := by
    unfold x1
    refine keeps_setF _ _ ?_
    refine keeps_setF _ _ ?_
    assumption
  try clear_value x1
  refine keeps_ite ?_ ?_
  · refine keeps_ite ?_ ?_
    · refine keeps_setF _ _ ?_
      assumption
    · assumption
  · assumption

theorem keeps_mgmtRestart {z s : State} (applied : Nat) (hk : Keeps z s) :
    Keeps z (mgmtRestart applied s) := by
  unfold mgmtRestart
  refine keeps_ite ?_ ?_
  · refine keeps_loadRestarted _ ?_
    refine keeps_setF _ _ ?_
    refine keeps_setF _ _ ?_
    assumption
  · assumption

theorem keeps_mgmtAgain {z s : State} (hk : Keeps z s) :
    Keeps z (mgmtAgain s) := by
  unfold mgmtAgain
  extract_lets -merge x1
  have hx1 : Keeps z x1 := by
    unfold x1
    refine keeps_boxResume ?_
    refine keeps_arbitrate ?_
    refine keeps_setF _ _ ?_
    refine keeps_setF _ _ ?_
    assumption
  try clear_value x1
  refine keeps_ite ?_ ?_
  · assumption
  · split
    · refine keeps_loadNow _ ?_
      refine keeps_updEns _ ?_
      assumption
    · assumption

theorem keeps_seqHalt {z s : State} (mask : BitVec 4) (hk : Keeps z s) :
    Keeps z (seqHalt mask s) := by
  unfold seqHalt
  extract_lets -merge x1
  refine keeps_setF _ _ ?_
  refine keeps_setF _ _ ?_
  assumption

theorem keeps_seqAgain {z s : State} (mask : BitVec 4) (hk : Keeps z s) :
    Keeps z (seqAgain mask s) := by
  unfold seqAgain
  extract_lets -merge x1 x2 x3
  have hx3 : Keeps z x3 := by
    unfold x3
    refine keeps_setF _ _ ?_
    refine keeps_setF _ _ ?_
    assumption
  try clear_value x3
  refine keeps_ite ?_ ?_
  · assumption
  · refine keeps_ite ?_ ?_
    · refine keeps_failAll _ ?_
      assumption
    · assumption

theorem keeps_crystalStop {z s : State} (hk : Keeps z s) :
    Keeps z (crystalStop s) := by
  unfold crystalStop
  extract_lets -merge x1
  refine keeps_upd ?_ (by rfl)
  assumption

end Sys2Proof.Machine
end

