-- ==== Sys2Proof/Laws/KeepsFaults.lean ====
section
/-! SUPPORT. What the operations of Machine/Faults.lean keep. -/

namespace Sys2Proof.Machine
open Sys2Proof

theorem keeps_scrubPass {z s : State} (slice n : Nat) (bad : List (Nat × LineHolds)) (hk : Keeps z s) :
    Keeps z (scrubPass slice n bad s) := by
  unfold scrubPass
  extract_lets -merge x1 x2
  have hx1 : Keeps z x1 := by
    unfold x1
    refine keeps_ite ?_ ?_
    · assumption
    · refine keeps_correctedWord _ _ ?_
      assumption
  try clear_value x1
  have hx2 : Keeps z x2 := by
    unfold x2
    refine keeps_foldl _ _ ?_ (fun _ _ _ => ?_)
    · assumption
    · refine keeps_ite ?_ ?_
      · refine keeps_poisonLine _ _ _ ?_
        assumption
      · assumption
  try clear_value x2
  refine keeps_ite ?_ ?_
  · refine keeps_releaseAct _ ?_
    assumption
  · assumption

theorem keeps_fltPop {z s : State} (hk : Keeps z s) :
    Keeps z (fltPop s) := by
  unfold fltPop
  extract_lets -merge x1
  refine keeps_upd ?_ (by rfl)
  assumption

theorem keeps_writeCopy {z s : State} (hk : Keeps z s) :
    Keeps z (writeCopy s) := by
  unfold writeCopy
  extract_lets -merge x1 x2
  refine keeps_upd ?_ (by rfl)
  assumption

theorem keeps_lifetimeSnapshot {z s : State} (hk : Keeps z s) :
    Keeps z (lifetimeSnapshot s) := by
  unfold lifetimeSnapshot
  refine keeps_ite ?_ ?_
  · assumption
  · refine keeps_ite ?_ ?_
    · refine keeps_releaseAct _ ?_
      refine keeps_writeCopy ?_
      assumption
    · refine keeps_ite ?_ ?_
      · refine keeps_requestAct _ ?_
        assumption
      · assumption

theorem keeps_lifRead {z s : State} (o : BitVec 16) (n : Nat) (hk : Keeps z s) :
    Keeps z (lifRead o n s) := by
  unfold lifRead
  refine keeps_upd ?_ (by rfl)
  assumption

end Sys2Proof.Machine
end

