-- ==== Sys2Proof/Laws/KeepsViews.lean ====
section
/-! SUPPORT. What the operations of Machine/Views.lean keep. -/

namespace Sys2Proof.Machine
open Sys2Proof

theorem keeps_updReq {z s : State} (r : Nat) (f : ReqPort → ReqPort) (hk : Keeps z s) :
    Keeps z (updReq r f s) := by
  unfold updReq
  refine keeps_updCfg _ ?_
  assumption

end Sys2Proof.Machine
end

