-- ==== Sys2Proof/Laws/KeepsRegisters.lean ====
section
/-! SUPPORT. What the operations of Machine/Registers.lean keep. -/

namespace Sys2Proof.Machine
open Sys2Proof

theorem keeps_clampFor {z s : State} (r : FieldSpec) (v : Nat) (hk : Keeps z s) :
    Keeps z (clampFor r v s).2 := by
  unfold clampFor
  extract_lets -merge x1
  refine keeps2_mk ?_
  refine keeps_ite ?_ ?_
  · assumption
  · refine keeps_countClamp _ ?_
    assumption

theorem keeps_setShadow {z s : State} (key v : Nat) (hk : Keeps z s) :
    Keeps z (setShadow key v s) := by
  unfold setShadow
  refine keeps_updCfg _ ?_
  assumption

theorem keeps_writeField {z s : State} (s0 : State) (v : Nat) (r : FieldSpec) (hk : Keeps z s) :
    Keeps z (writeField s0 v r s).1 := by
  unfold writeField
  extract_lets -merge x1 x2 x3
  have hx2 : Keeps z x2.2 := by
    unfold x2
    refine keeps_clampFor _ _ ?_
    assumption
  try clear_value x2
  have hx3 : Keeps z x3.2 := by
    unfold x3
    refine keeps_clampFor _ _ ?_
    assumption
  try clear_value x3
  split
  · refine keeps1_mk ?_
    assumption
  · refine keeps1_mk ?_
    assumption
  · refine keeps1_mk ?_
    refine keeps_setF _ _ ?_
    assumption
  · refine keeps1_mk ?_
    refine keeps_setF _ _ ?_
    assumption
  · refine keeps1_mk ?_
    refine keeps_setF _ _ ?_
    assumption
  · refine keeps1_mk ?_
    refine keeps_setShadow _ _ ?_
    assumption
  · refine keeps1_ite ?_ ?_
    · refine keeps1_mk ?_
      assumption
    · refine keeps1_ite ?_ ?_
      · refine keeps1_mk ?_
        assumption
      · refine keeps1_mk ?_
        refine keeps_setF _ _ ?_
        assumption

theorem keeps_writeFields {z s : State} (off w : Nat) (hk : Keeps z s) :
    Keeps z (writeFields off w s) := by
  unfold writeFields
  extract_lets -merge x1
  have hx1 : Keeps z x1.1 := by
    unfold x1
    refine keeps1_foldl _ _ ?_ (fun _ _ _ => ?_)
    · refine keeps1_mk ?_
      assumption
    · extract_lets -merge x2
      have hx2 : Keeps z x2.1 := by
        unfold x2
        refine keeps_writeField _ _ _ ?_
        assumption
      try clear_value x2
      refine keeps1_mk ?_
      assumption
  try clear_value x1
  refine keeps_ite ?_ ?_
  · refine keeps_countIgnored _ ?_
    assumption
  · assumption

theorem keeps_opCheck {z s : State} (off w : Nat) (hk : Keeps z s) :
    Keeps z (opCheck off w s) := by
  unfold opCheck
  split
  · refine keeps_ite ?_ ?_
    · assumption
    · refine keeps_countIgnored _ ?_
      assumption
  · assumption

theorem keeps_sourceChanged {z s : State} (h : Nat) (hk : Keeps z s) :
    Keeps z (sourceChanged h s) := by
  unfold sourceChanged
  refine keeps_setF _ _ ?_
  refine keeps_setHoist _ _ ?_
  assumption

theorem keeps_watchStarts {z s : State} (p : Nat) (hk : Keeps z s) :
    Keeps z (watchStarts p s) := by
  unfold watchStarts
  refine keeps_setF _ _ ?_
  refine keeps_updPnt _ _ ?_
  assumption

theorem keeps_ageAll {z s : State} (hk : Keeps z s) :
    Keeps z (ageAll s) := by
  unfold ageAll
  refine keeps_arbitrate ?_
  refine keeps_foldl _ _ ?_ (fun _ _ _ => ?_)
  · assumption
  · refine keeps_ageReq _ ?_
    assumption

theorem keeps_afterWrite {z t : State} (off : Nat) (s : State) (hk : Keeps z t) :
    Keeps z (afterWrite off s t) := by
  unfold afterWrite
  extract_lets -merge x1 x2
  split
  · refine keeps_ite ?_ ?_
    · refine keeps_setF _ _ ?_
      assumption
    · assumption
  · refine keeps_ite ?_ ?_
    · refine keeps_sourceChanged _ ?_
      assumption
    · assumption
  · refine keeps_ite ?_ ?_
    · refine keeps_watchStarts _ ?_
      assumption
    · assumption
  · refine keeps_ite ?_ ?_
    · refine keeps_updPwr _ ?_
      assumption
    · refine keeps_ite ?_ ?_
      · refine keeps_ageAll ?_
        assumption
      · assumption
  · assumption

theorem keeps_msixWrite {z s : State} (off w : Nat) (hk : Keeps z s) :
    Keeps z (msixWrite off w s) := by
  unfold msixWrite
  extract_lets -merge x1 x2 x3 x4 x5 x6 x7
  have hx5 : Keeps z x5 := by
    unfold x5
    refine keeps_upd ?_ (by rfl)
    assumption
  try clear_value x5
  refine keeps_ite ?_ ?_
  · refine keeps_ite ?_ ?_
    · refine keeps_upd ?_ (by rfl)
      assumption
    · refine keeps_ite ?_ ?_
      · refine keeps_signal _ ?_
        refine keeps_upd ?_ (by rfl)
        assumption
      · assumption
  · refine keeps_upd ?_ (by rfl)
    assumption

theorem keeps_holdLo {z s : State} (r off w : Nat) (hk : Keeps z s) :
    Keeps z (holdLo r off w s) := by
  unfold holdLo
  refine keeps_updReq _ _ ?_
  assumption

theorem keeps_applyPair {z s : State} (r : Nat) (f : FieldSpec) (hi : Nat) (hk : Keeps z s) :
    Keeps z (applyPair r f hi s) := by
  unfold applyPair
  extract_lets -merge x1 x2 x3 x4 x5
  have hx4 : Keeps z x4 := by
    unfold x4
    refine keeps_updReq _ _ ?_
    assumption
  try clear_value x4
  have hx5 : Keeps z x5.1 := by
    unfold x5
    refine keeps_writeField _ _ _ ?_
    assumption
  try clear_value x5
  refine keeps_ite ?_ ?_
  · refine keeps_countIgnored _ ?_
    assumption
  · assumption

theorem keeps_readLo {z s : State} (r off : Nat) (hk : Keeps z s) :
    Keeps z (readLo r off s) := by
  unfold readLo
  extract_lets -merge x1 x2
  have hx2 : Keeps z x2 := by
    unfold x2
    refine keeps_updReq _ _ ?_
    assumption
  try clear_value x2
  refine keeps_ite ?_ ?_
  · refine keeps_sqDataRead _ ?_
    assumption
  · refine keeps_upd ?_ (by rfl)
    assumption

theorem keeps_writeWord {z s : State} (r off w : Nat) (hk : Keeps z s) :
    Keeps z (writeWord r off w s) := by
  unfold writeWord
  refine keeps_ite ?_ ?_
  · refine keeps_msixWrite _ _ ?_
    assumption
  · split
    · refine keeps_ite ?_ ?_
      · refine keeps_holdLo _ _ _ ?_
        assumption
      · assumption
    · refine keeps_ite ?_ ?_
      · refine keeps_applyPair _ _ _ ?_
        assumption
      · assumption
    · refine keeps_afterWrite _ _ ?_
      refine keeps_opCheck _ _ ?_
      refine keeps_writeFields _ _ ?_
      assumption

theorem keeps_writeWindow {z s : State} (off n v : Nat) (hk : Keeps z s) :
    Keeps z (writeWindow off n v s) := by
  unfold writeWindow
  extract_lets -merge x1
  refine keeps_ite ?_ ?_
  · assumption
  · refine keeps_ite ?_ ?_
    · refine keeps_countIgnored _ ?_
      assumption
    · refine keeps_ite ?_ ?_
      · refine keeps_upd ?_ (by rfl)
        assumption
      · assumption

theorem keeps_performWrite {z s : State} (r off n v : Nat) (hk : Keeps z s) :
    Keeps z (performWrite r off n v s) := by
  unfold performWrite
  refine keeps_ite ?_ ?_
  · refine keeps_writeWindow _ _ _ ?_
    assumption
  · refine keeps_ite ?_ ?_
    · refine keeps_writeWord _ _ _ ?_
      assumption
    · refine keeps_ite ?_ ?_
      · refine keeps_writeWord _ _ _ ?_
        refine keeps_writeWord _ _ _ ?_
        assumption
      · refine keeps_ite ?_ ?_
        · assumption
        · refine keeps_countIgnored _ ?_
          assumption

theorem keeps_perform {z s : State} (r : Nat) (a : RegAccess) (hk : Keeps z s) :
    Keeps z (perform r a s) := by
  unfold perform
  refine keeps_ite ?_ ?_
  · refine keeps_performWrite _ _ _ _ ?_
    assumption
  · refine keeps_readLo _ _ ?_
    assumption

theorem keeps_enqueue {z s : State} (r : Nat) (a : RegAccess) (hk : Keeps z s) :
    Keeps z (enqueue r a s) := by
  unfold enqueue
  refine keeps_updReq _ _ ?_
  assumption

theorem keeps_takeAccess {z s : State} (r : Nat) (a : RegAccess) (hk : Keeps z s) :
    Keeps z (takeAccess r a s) := by
  unfold takeAccess
  refine keeps_ite ?_ ?_
  · refine keeps_perform _ _ ?_
    assumption
  · refine keeps_ite ?_ ?_
    · refine keeps_perform _ _ ?_
      assumption
    · refine keeps_enqueue _ _ ?_
      assumption

theorem keeps_regAccess {z s : State} (r : Nat) (a : RegAccess) (par : Parity) (hk : Keeps z s) :
    Keeps z (regAccess r a par s) := by
  unfold regAccess
  extract_lets -merge x1
  have hx1 : Keeps z x1 := by
    unfold x1
    refine keeps_ite ?_ ?_
    · refine keeps_domCorrected _ _ ?_
      assumption
    · assumption
  try clear_value x1
  refine keeps_ite ?_ ?_
  · assumption
  · refine keeps_ite ?_ ?_
    · refine keeps_ite ?_ ?_
      · assumption
      · refine keeps_upd ?_ (by rfl)
        assumption
    · refine keeps_ite ?_ ?_
      · refine keeps_report _ _ _ ?_
        refine keeps_domUncorrected _ _ ?_
        refine keeps_ite ?_ ?_
        · assumption
        · refine keeps_upd ?_ (by rfl)
          assumption
      · refine keeps_ite ?_ ?_
        · refine keeps_updCfg _ ?_
          assumption
        · refine keeps_takeAccess _ _ ?_
          assumption

theorem keeps_drainHeld {z s : State} (r : Nat) (k_ : List RegAccess) (hk : Keeps z s) :
    Keeps z (drainHeld r k_ s) := by
  induction k_ generalizing s with
  | nil =>
    rw [drainHeld]
    refine keeps_updReq _ _ ?_
    assumption
  | cons _ _ ih =>
    rw [drainHeld]
    refine keeps_ite ?_ ?_
    · refine ih ?_
      refine keeps_perform _ _ ?_
      assumption
    · refine keeps_updReq _ _ ?_
      assumption

theorem keeps_takePosted {z s : State} (p : Posted) (hk : Keeps z s) :
    Keeps z (takePosted p s) := by
  unfold takePosted
  split
  · refine keeps_doorbellNow _ _ ?_
    assumption
  · refine keeps_bar2WriteNow _ _ ?_
    assumption
  · refine keeps_takeAccess _ _ ?_
    assumption

theorem keeps_drainPosted {z s : State} (k_ : List Posted) (hk : Keeps z s) :
    Keeps z (drainPosted k_ s) := by
  induction k_ generalizing s with
  | nil =>
    rw [drainPosted]
    refine keeps_updCfg _ ?_
    assumption
  | cons _ _ ih =>
    rw [drainPosted]
    refine keeps_ite ?_ ?_
    · refine keeps_updCfg _ ?_
      assumption
    · refine ih ?_
      refine keeps_takePosted _ ?_
      assumption

theorem keeps_resumeHeld {z s : State} (r : Nat) (hk : Keeps z s) :
    Keeps z (resumeHeld r s) := by
  unfold resumeHeld
  extract_lets -merge x1
  have hx1 : Keeps z x1 := by
    unfold x1
    refine keeps_drainHeld _ _ ?_
    assumption
  try clear_value x1
  refine keeps_ite ?_ ?_
  · refine keeps_drainPosted _ ?_
    assumption
  · assumption

theorem keeps_hungAccessResume {z s : State} (r : Nat) (hk : Keeps z s) :
    Keeps z (hungAccessResume r s) := by
  unfold hungAccessResume
  refine keeps_ite ?_ ?_
  · refine keeps_resumeHeld _ ?_
    assumption
  · assumption

theorem keeps_abortRequester {z s : State} (r b : Nat) (hk : Keeps z s) :
    Keeps z (abortRequester r b s) := by
  unfold abortRequester
  extract_lets -merge x1 x2 x3 x4 x5
  have hx3 : Keeps z x3 := by
    unfold x3
    split
    · refine keeps_ite ?_ ?_
      · assumption
      · refine keeps_upd ?_ (by rfl)
        assumption
    · assumption
  try clear_value x3
  have hx5 : Keeps z x5 := by
    unfold x5
    refine keeps_addF _ _ ?_
    refine keeps_crossingReset _ _ ?_
    assumption
  try clear_value x5
  refine keeps_resumeHeld _ ?_
  refine keeps_updReq _ _ ?_
  assumption

theorem keeps_ringAbortBit {z s : State} (r : Nat) (hk : Keeps z s) :
    Keeps z (ringAbortBit r s) := by
  unfold ringAbortBit
  split
  · refine keeps_abortRequester _ _ ?_
    assumption
  · refine keeps_countIgnored _ ?_
    assumption

theorem keeps_glbRingabort {z s : State} (mask : Nat) (hk : Keeps z s) :
    Keeps z (glbRingabort mask s) := by
  unfold glbRingabort
  refine keeps_ite ?_ ?_
  · refine keeps_foldl _ _ ?_ (fun _ _ _ => ?_)
    · assumption
    · refine keeps_ringAbortBit _ ?_
      assumption
  · assumption

end Sys2Proof.Machine
end

