-- ==== Sys2Proof/Laws/State.lean ====
section
/-! SUPPORT. What each named update of State leaves and what it writes: one equation for each component, all tagged for
the simplifier, so that no proof unfolds a record update; and the laws of reading a register field after a write. -/

namespace Sys2Proof.Machine
open Sys2Proof

@[simp] theorem setF_ltime (s : State) (f : Field) (v : Nat) : (setF f v s).ltime = s.ltime := rfl
@[simp] theorem setF_pins (s : State) (f : Field) (v : Nat) : (setF f v s).pins = s.pins := rfl
@[simp] theorem setF_cfg (s : State) (f : Field) (v : Nat) : (setF f v s).cfg = s.cfg := rfl
@[simp] theorem setF_ens (s : State) (f : Field) (v : Nat) : (setF f v s).ens = s.ens := rfl
@[simp] theorem setF_sync (s : State) (f : Field) (v : Nat) : (setF f v s).sync = s.sync := rfl
@[simp] theorem setF_flt (s : State) (f : Field) (v : Nat) : (setF f v s).flt = s.flt := rfl
@[simp] theorem setF_host (s : State) (f : Field) (v : Nat) : (setF f v s).host = s.host := rfl
@[simp] theorem setF_lnk (s : State) (f : Field) (v : Nat) : (setF f v s).lnk = s.lnk := rfl
@[simp] theorem setF_sched (s : State) (f : Field) (v : Nat) : (setF f v s).sched = s.sched := rfl
@[simp] theorem setF_kv (s : State) (f : Field) (v : Nat) : (setF f v s).kv = s.kv := rfl
@[simp] theorem setF_sec (s : State) (f : Field) (v : Nat) : (setF f v s).sec = s.sec := rfl
@[simp] theorem setF_banks (s : State) (f : Field) (v : Nat) : (setF f v s).banks = s.banks := rfl
@[simp] theorem setF_wgt (s : State) (f : Field) (v : Nat) : (setF f v s).wgt = s.wgt := rfl
@[simp] theorem setF_arrs (s : State) (f : Field) (v : Nat) : (setF f v s).arrs = s.arrs := rfl
@[simp] theorem setF_hoists (s : State) (f : Field) (v : Nat) : (setF f v s).hoists = s.hoists := rfl
@[simp] theorem setF_pnts (s : State) (f : Field) (v : Nat) : (setF f v s).pnts = s.pnts := rfl
@[simp] theorem setF_vecs (s : State) (f : Field) (v : Nat) : (setF f v s).vecs = s.vecs := rfl
@[simp] theorem setF_mnt (s : State) (f : Field) (v : Nat) : (setF f v s).mnt = s.mnt := rfl
@[simp] theorem setF_pwr (s : State) (f : Field) (v : Nat) : (setF f v s).pwr = s.pwr := rfl
@[simp] theorem setF_mtr (s : State) (f : Field) (v : Nat) : (setF f v s).mtr = s.mtr := rfl
@[simp] theorem setF_sram (s : State) (f : Field) (v : Nat) : (setF f v s).sram = s.sram := rfl
@[simp] theorem setF_answer (s : State) (f : Field) (v : Nat) : (setF f v s).answer = s.answer := rfl
@[simp] theorem setF_fresh (s : State) (f : Field) (v : Nat) : (setF f v s).fresh = s.fresh := rfl
@[simp] theorem setF_pending (s : State) (f : Field) (v : Nat) : (setF f v s).pending = s.pending := rfl

@[simp] theorem addF_ltime (s : State) (f : Field) (v : Nat) : (addF f v s).ltime = s.ltime := rfl
@[simp] theorem addF_pins (s : State) (f : Field) (v : Nat) : (addF f v s).pins = s.pins := rfl
@[simp] theorem addF_cfg (s : State) (f : Field) (v : Nat) : (addF f v s).cfg = s.cfg := rfl
@[simp] theorem addF_ens (s : State) (f : Field) (v : Nat) : (addF f v s).ens = s.ens := rfl
@[simp] theorem addF_sync (s : State) (f : Field) (v : Nat) : (addF f v s).sync = s.sync := rfl
@[simp] theorem addF_flt (s : State) (f : Field) (v : Nat) : (addF f v s).flt = s.flt := rfl
@[simp] theorem addF_host (s : State) (f : Field) (v : Nat) : (addF f v s).host = s.host := rfl
@[simp] theorem addF_lnk (s : State) (f : Field) (v : Nat) : (addF f v s).lnk = s.lnk := rfl
@[simp] theorem addF_sched (s : State) (f : Field) (v : Nat) : (addF f v s).sched = s.sched := rfl
@[simp] theorem addF_kv (s : State) (f : Field) (v : Nat) : (addF f v s).kv = s.kv := rfl
@[simp] theorem addF_sec (s : State) (f : Field) (v : Nat) : (addF f v s).sec = s.sec := rfl
@[simp] theorem addF_banks (s : State) (f : Field) (v : Nat) : (addF f v s).banks = s.banks := rfl
@[simp] theorem addF_wgt (s : State) (f : Field) (v : Nat) : (addF f v s).wgt = s.wgt := rfl
@[simp] theorem addF_arrs (s : State) (f : Field) (v : Nat) : (addF f v s).arrs = s.arrs := rfl
@[simp] theorem addF_hoists (s : State) (f : Field) (v : Nat) : (addF f v s).hoists = s.hoists := rfl
@[simp] theorem addF_pnts (s : State) (f : Field) (v : Nat) : (addF f v s).pnts = s.pnts := rfl
@[simp] theorem addF_vecs (s : State) (f : Field) (v : Nat) : (addF f v s).vecs = s.vecs := rfl
@[simp] theorem addF_mnt (s : State) (f : Field) (v : Nat) : (addF f v s).mnt = s.mnt := rfl
@[simp] theorem addF_pwr (s : State) (f : Field) (v : Nat) : (addF f v s).pwr = s.pwr := rfl
@[simp] theorem addF_mtr (s : State) (f : Field) (v : Nat) : (addF f v s).mtr = s.mtr := rfl
@[simp] theorem addF_sram (s : State) (f : Field) (v : Nat) : (addF f v s).sram = s.sram := rfl
@[simp] theorem addF_answer (s : State) (f : Field) (v : Nat) : (addF f v s).answer = s.answer := rfl
@[simp] theorem addF_fresh (s : State) (f : Field) (v : Nat) : (addF f v s).fresh = s.fresh := rfl
@[simp] theorem addF_pending (s : State) (f : Field) (v : Nat) : (addF f v s).pending = s.pending := rfl

@[simp] theorem satF_ltime (s : State) (f : Field) (v : Nat) : (satF f v s).ltime = s.ltime := rfl
@[simp] theorem satF_pins (s : State) (f : Field) (v : Nat) : (satF f v s).pins = s.pins := rfl
@[simp] theorem satF_cfg (s : State) (f : Field) (v : Nat) : (satF f v s).cfg = s.cfg := rfl
@[simp] theorem satF_ens (s : State) (f : Field) (v : Nat) : (satF f v s).ens = s.ens := rfl
@[simp] theorem satF_sync (s : State) (f : Field) (v : Nat) : (satF f v s).sync = s.sync := rfl
@[simp] theorem satF_flt (s : State) (f : Field) (v : Nat) : (satF f v s).flt = s.flt := rfl
@[simp] theorem satF_host (s : State) (f : Field) (v : Nat) : (satF f v s).host = s.host := rfl
@[simp] theorem satF_lnk (s : State) (f : Field) (v : Nat) : (satF f v s).lnk = s.lnk := rfl
@[simp] theorem satF_sched (s : State) (f : Field) (v : Nat) : (satF f v s).sched = s.sched := rfl
@[simp] theorem satF_kv (s : State) (f : Field) (v : Nat) : (satF f v s).kv = s.kv := rfl
@[simp] theorem satF_sec (s : State) (f : Field) (v : Nat) : (satF f v s).sec = s.sec := rfl
@[simp] theorem satF_banks (s : State) (f : Field) (v : Nat) : (satF f v s).banks = s.banks := rfl
@[simp] theorem satF_wgt (s : State) (f : Field) (v : Nat) : (satF f v s).wgt = s.wgt := rfl
@[simp] theorem satF_arrs (s : State) (f : Field) (v : Nat) : (satF f v s).arrs = s.arrs := rfl
@[simp] theorem satF_hoists (s : State) (f : Field) (v : Nat) : (satF f v s).hoists = s.hoists := rfl
@[simp] theorem satF_pnts (s : State) (f : Field) (v : Nat) : (satF f v s).pnts = s.pnts := rfl
@[simp] theorem satF_vecs (s : State) (f : Field) (v : Nat) : (satF f v s).vecs = s.vecs := rfl
@[simp] theorem satF_mnt (s : State) (f : Field) (v : Nat) : (satF f v s).mnt = s.mnt := rfl
@[simp] theorem satF_pwr (s : State) (f : Field) (v : Nat) : (satF f v s).pwr = s.pwr := rfl
@[simp] theorem satF_mtr (s : State) (f : Field) (v : Nat) : (satF f v s).mtr = s.mtr := rfl
@[simp] theorem satF_sram (s : State) (f : Field) (v : Nat) : (satF f v s).sram = s.sram := rfl
@[simp] theorem satF_answer (s : State) (f : Field) (v : Nat) : (satF f v s).answer = s.answer := rfl
@[simp] theorem satF_fresh (s : State) (f : Field) (v : Nat) : (satF f v s).fresh = s.fresh := rfl
@[simp] theorem satF_pending (s : State) (f : Field) (v : Nat) : (satF f v s).pending = s.pending := rfl

@[simp] theorem sramPut_regs (s : State) (a : Nat) (l : List Byte) : (sramPut a l s).regs = s.regs := rfl
@[simp] theorem sramPut_ltime (s : State) (a : Nat) (l : List Byte) : (sramPut a l s).ltime = s.ltime := rfl
@[simp] theorem sramPut_pins (s : State) (a : Nat) (l : List Byte) : (sramPut a l s).pins = s.pins := rfl
@[simp] theorem sramPut_cfg (s : State) (a : Nat) (l : List Byte) : (sramPut a l s).cfg = s.cfg := rfl
@[simp] theorem sramPut_ens (s : State) (a : Nat) (l : List Byte) : (sramPut a l s).ens = s.ens := rfl
@[simp] theorem sramPut_sync (s : State) (a : Nat) (l : List Byte) : (sramPut a l s).sync = s.sync := rfl
@[simp] theorem sramPut_flt (s : State) (a : Nat) (l : List Byte) : (sramPut a l s).flt = s.flt := rfl
@[simp] theorem sramPut_host (s : State) (a : Nat) (l : List Byte) : (sramPut a l s).host = s.host := rfl
@[simp] theorem sramPut_lnk (s : State) (a : Nat) (l : List Byte) : (sramPut a l s).lnk = s.lnk := rfl
@[simp] theorem sramPut_sched (s : State) (a : Nat) (l : List Byte) : (sramPut a l s).sched = s.sched := rfl
@[simp] theorem sramPut_kv (s : State) (a : Nat) (l : List Byte) : (sramPut a l s).kv = s.kv := rfl
@[simp] theorem sramPut_sec (s : State) (a : Nat) (l : List Byte) : (sramPut a l s).sec = s.sec := rfl
@[simp] theorem sramPut_banks (s : State) (a : Nat) (l : List Byte) : (sramPut a l s).banks = s.banks := rfl
@[simp] theorem sramPut_wgt (s : State) (a : Nat) (l : List Byte) : (sramPut a l s).wgt = s.wgt := rfl
@[simp] theorem sramPut_arrs (s : State) (a : Nat) (l : List Byte) : (sramPut a l s).arrs = s.arrs := rfl
@[simp] theorem sramPut_hoists (s : State) (a : Nat) (l : List Byte) : (sramPut a l s).hoists = s.hoists := rfl
@[simp] theorem sramPut_pnts (s : State) (a : Nat) (l : List Byte) : (sramPut a l s).pnts = s.pnts := rfl
@[simp] theorem sramPut_vecs (s : State) (a : Nat) (l : List Byte) : (sramPut a l s).vecs = s.vecs := rfl
@[simp] theorem sramPut_mnt (s : State) (a : Nat) (l : List Byte) : (sramPut a l s).mnt = s.mnt := rfl
@[simp] theorem sramPut_pwr (s : State) (a : Nat) (l : List Byte) : (sramPut a l s).pwr = s.pwr := rfl
@[simp] theorem sramPut_mtr (s : State) (a : Nat) (l : List Byte) : (sramPut a l s).mtr = s.mtr := rfl
@[simp] theorem sramPut_answer (s : State) (a : Nat) (l : List Byte) : (sramPut a l s).answer = s.answer := rfl
@[simp] theorem sramPut_fresh (s : State) (a : Nat) (l : List Byte) : (sramPut a l s).fresh = s.fresh := rfl
@[simp] theorem sramPut_pending (s : State) (a : Nat) (l : List Byte) : (sramPut a l s).pending = s.pending := rfl

@[simp] theorem sramPutWord_regs (s : State) (a : Nat) (v : Word64) : (sramPutWord a v s).regs = s.regs := rfl
@[simp] theorem sramPutWord_ltime (s : State) (a : Nat) (v : Word64) : (sramPutWord a v s).ltime = s.ltime := rfl
@[simp] theorem sramPutWord_pins (s : State) (a : Nat) (v : Word64) : (sramPutWord a v s).pins = s.pins := rfl
@[simp] theorem sramPutWord_cfg (s : State) (a : Nat) (v : Word64) : (sramPutWord a v s).cfg = s.cfg := rfl
@[simp] theorem sramPutWord_ens (s : State) (a : Nat) (v : Word64) : (sramPutWord a v s).ens = s.ens := rfl
@[simp] theorem sramPutWord_sync (s : State) (a : Nat) (v : Word64) : (sramPutWord a v s).sync = s.sync := rfl
@[simp] theorem sramPutWord_flt (s : State) (a : Nat) (v : Word64) : (sramPutWord a v s).flt = s.flt := rfl
@[simp] theorem sramPutWord_host (s : State) (a : Nat) (v : Word64) : (sramPutWord a v s).host = s.host := rfl
@[simp] theorem sramPutWord_lnk (s : State) (a : Nat) (v : Word64) : (sramPutWord a v s).lnk = s.lnk := rfl
@[simp] theorem sramPutWord_sched (s : State) (a : Nat) (v : Word64) : (sramPutWord a v s).sched = s.sched := rfl
@[simp] theorem sramPutWord_kv (s : State) (a : Nat) (v : Word64) : (sramPutWord a v s).kv = s.kv := rfl
@[simp] theorem sramPutWord_sec (s : State) (a : Nat) (v : Word64) : (sramPutWord a v s).sec = s.sec := rfl
@[simp] theorem sramPutWord_banks (s : State) (a : Nat) (v : Word64) : (sramPutWord a v s).banks = s.banks := rfl
@[simp] theorem sramPutWord_wgt (s : State) (a : Nat) (v : Word64) : (sramPutWord a v s).wgt = s.wgt := rfl
@[simp] theorem sramPutWord_arrs (s : State) (a : Nat) (v : Word64) : (sramPutWord a v s).arrs = s.arrs := rfl
@[simp] theorem sramPutWord_hoists (s : State) (a : Nat) (v : Word64) : (sramPutWord a v s).hoists = s.hoists := rfl
@[simp] theorem sramPutWord_pnts (s : State) (a : Nat) (v : Word64) : (sramPutWord a v s).pnts = s.pnts := rfl
@[simp] theorem sramPutWord_vecs (s : State) (a : Nat) (v : Word64) : (sramPutWord a v s).vecs = s.vecs := rfl
@[simp] theorem sramPutWord_mnt (s : State) (a : Nat) (v : Word64) : (sramPutWord a v s).mnt = s.mnt := rfl
@[simp] theorem sramPutWord_pwr (s : State) (a : Nat) (v : Word64) : (sramPutWord a v s).pwr = s.pwr := rfl
@[simp] theorem sramPutWord_mtr (s : State) (a : Nat) (v : Word64) : (sramPutWord a v s).mtr = s.mtr := rfl
@[simp] theorem sramPutWord_answer (s : State) (a : Nat) (v : Word64) : (sramPutWord a v s).answer = s.answer := rfl
@[simp] theorem sramPutWord_fresh (s : State) (a : Nat) (v : Word64) : (sramPutWord a v s).fresh = s.fresh := rfl
@[simp] theorem sramPutWord_pending (s : State) (a : Nat) (v : Word64) : (sramPutWord a v s).pending = s.pending := rfl

@[simp] theorem hostPut_regs (s : State) (a : Nat) (l : List Byte) : (hostPut a l s).regs = s.regs := rfl
@[simp] theorem hostPut_ltime (s : State) (a : Nat) (l : List Byte) : (hostPut a l s).ltime = s.ltime := rfl
@[simp] theorem hostPut_pins (s : State) (a : Nat) (l : List Byte) : (hostPut a l s).pins = s.pins := rfl
@[simp] theorem hostPut_cfg (s : State) (a : Nat) (l : List Byte) : (hostPut a l s).cfg = s.cfg := rfl
@[simp] theorem hostPut_ens (s : State) (a : Nat) (l : List Byte) : (hostPut a l s).ens = s.ens := rfl
@[simp] theorem hostPut_sync (s : State) (a : Nat) (l : List Byte) : (hostPut a l s).sync = s.sync := rfl
@[simp] theorem hostPut_flt (s : State) (a : Nat) (l : List Byte) : (hostPut a l s).flt = s.flt := rfl
@[simp] theorem hostPut_lnk (s : State) (a : Nat) (l : List Byte) : (hostPut a l s).lnk = s.lnk := rfl
@[simp] theorem hostPut_sched (s : State) (a : Nat) (l : List Byte) : (hostPut a l s).sched = s.sched := rfl
@[simp] theorem hostPut_kv (s : State) (a : Nat) (l : List Byte) : (hostPut a l s).kv = s.kv := rfl
@[simp] theorem hostPut_sec (s : State) (a : Nat) (l : List Byte) : (hostPut a l s).sec = s.sec := rfl
@[simp] theorem hostPut_banks (s : State) (a : Nat) (l : List Byte) : (hostPut a l s).banks = s.banks := rfl
@[simp] theorem hostPut_wgt (s : State) (a : Nat) (l : List Byte) : (hostPut a l s).wgt = s.wgt := rfl
@[simp] theorem hostPut_arrs (s : State) (a : Nat) (l : List Byte) : (hostPut a l s).arrs = s.arrs := rfl
@[simp] theorem hostPut_hoists (s : State) (a : Nat) (l : List Byte) : (hostPut a l s).hoists = s.hoists := rfl
@[simp] theorem hostPut_pnts (s : State) (a : Nat) (l : List Byte) : (hostPut a l s).pnts = s.pnts := rfl
@[simp] theorem hostPut_vecs (s : State) (a : Nat) (l : List Byte) : (hostPut a l s).vecs = s.vecs := rfl
@[simp] theorem hostPut_mnt (s : State) (a : Nat) (l : List Byte) : (hostPut a l s).mnt = s.mnt := rfl
@[simp] theorem hostPut_pwr (s : State) (a : Nat) (l : List Byte) : (hostPut a l s).pwr = s.pwr := rfl
@[simp] theorem hostPut_mtr (s : State) (a : Nat) (l : List Byte) : (hostPut a l s).mtr = s.mtr := rfl
@[simp] theorem hostPut_sram (s : State) (a : Nat) (l : List Byte) : (hostPut a l s).sram = s.sram := rfl
@[simp] theorem hostPut_answer (s : State) (a : Nat) (l : List Byte) : (hostPut a l s).answer = s.answer := rfl
@[simp] theorem hostPut_fresh (s : State) (a : Nat) (l : List Byte) : (hostPut a l s).fresh = s.fresh := rfl
@[simp] theorem hostPut_pending (s : State) (a : Nat) (l : List Byte) : (hostPut a l s).pending = s.pending := rfl

@[simp] theorem lifeAdd_regs (s : State) (o k n : Nat) : (lifeAdd o k n s).regs = s.regs := rfl
@[simp] theorem lifeAdd_ltime (s : State) (o k n : Nat) : (lifeAdd o k n s).ltime = s.ltime := rfl
@[simp] theorem lifeAdd_pins (s : State) (o k n : Nat) : (lifeAdd o k n s).pins = s.pins := rfl
@[simp] theorem lifeAdd_cfg (s : State) (o k n : Nat) : (lifeAdd o k n s).cfg = s.cfg := rfl
@[simp] theorem lifeAdd_ens (s : State) (o k n : Nat) : (lifeAdd o k n s).ens = s.ens := rfl
@[simp] theorem lifeAdd_sync (s : State) (o k n : Nat) : (lifeAdd o k n s).sync = s.sync := rfl
@[simp] theorem lifeAdd_host (s : State) (o k n : Nat) : (lifeAdd o k n s).host = s.host := rfl
@[simp] theorem lifeAdd_lnk (s : State) (o k n : Nat) : (lifeAdd o k n s).lnk = s.lnk := rfl
@[simp] theorem lifeAdd_sched (s : State) (o k n : Nat) : (lifeAdd o k n s).sched = s.sched := rfl
@[simp] theorem lifeAdd_kv (s : State) (o k n : Nat) : (lifeAdd o k n s).kv = s.kv := rfl
@[simp] theorem lifeAdd_sec (s : State) (o k n : Nat) : (lifeAdd o k n s).sec = s.sec := rfl
@[simp] theorem lifeAdd_banks (s : State) (o k n : Nat) : (lifeAdd o k n s).banks = s.banks := rfl
@[simp] theorem lifeAdd_wgt (s : State) (o k n : Nat) : (lifeAdd o k n s).wgt = s.wgt := rfl
@[simp] theorem lifeAdd_arrs (s : State) (o k n : Nat) : (lifeAdd o k n s).arrs = s.arrs := rfl
@[simp] theorem lifeAdd_hoists (s : State) (o k n : Nat) : (lifeAdd o k n s).hoists = s.hoists := rfl
@[simp] theorem lifeAdd_pnts (s : State) (o k n : Nat) : (lifeAdd o k n s).pnts = s.pnts := rfl
@[simp] theorem lifeAdd_vecs (s : State) (o k n : Nat) : (lifeAdd o k n s).vecs = s.vecs := rfl
@[simp] theorem lifeAdd_mnt (s : State) (o k n : Nat) : (lifeAdd o k n s).mnt = s.mnt := rfl
@[simp] theorem lifeAdd_pwr (s : State) (o k n : Nat) : (lifeAdd o k n s).pwr = s.pwr := rfl
@[simp] theorem lifeAdd_mtr (s : State) (o k n : Nat) : (lifeAdd o k n s).mtr = s.mtr := rfl
@[simp] theorem lifeAdd_sram (s : State) (o k n : Nat) : (lifeAdd o k n s).sram = s.sram := rfl
@[simp] theorem lifeAdd_answer (s : State) (o k n : Nat) : (lifeAdd o k n s).answer = s.answer := rfl
@[simp] theorem lifeAdd_fresh (s : State) (o k n : Nat) : (lifeAdd o k n s).fresh = s.fresh := rfl
@[simp] theorem lifeAdd_pending (s : State) (o k n : Nat) : (lifeAdd o k n s).pending = s.pending := rfl

@[simp] theorem meterAdd_regs (s : State) (a k n : Nat) : (meterAdd a k n s).regs = s.regs := rfl
@[simp] theorem meterAdd_ltime (s : State) (a k n : Nat) : (meterAdd a k n s).ltime = s.ltime := rfl
@[simp] theorem meterAdd_pins (s : State) (a k n : Nat) : (meterAdd a k n s).pins = s.pins := rfl
@[simp] theorem meterAdd_cfg (s : State) (a k n : Nat) : (meterAdd a k n s).cfg = s.cfg := rfl
@[simp] theorem meterAdd_ens (s : State) (a k n : Nat) : (meterAdd a k n s).ens = s.ens := rfl
@[simp] theorem meterAdd_sync (s : State) (a k n : Nat) : (meterAdd a k n s).sync = s.sync := rfl
@[simp] theorem meterAdd_flt (s : State) (a k n : Nat) : (meterAdd a k n s).flt = s.flt := rfl
@[simp] theorem meterAdd_host (s : State) (a k n : Nat) : (meterAdd a k n s).host = s.host := rfl
@[simp] theorem meterAdd_lnk (s : State) (a k n : Nat) : (meterAdd a k n s).lnk = s.lnk := rfl
@[simp] theorem meterAdd_sched (s : State) (a k n : Nat) : (meterAdd a k n s).sched = s.sched := rfl
@[simp] theorem meterAdd_kv (s : State) (a k n : Nat) : (meterAdd a k n s).kv = s.kv := rfl
@[simp] theorem meterAdd_sec (s : State) (a k n : Nat) : (meterAdd a k n s).sec = s.sec := rfl
@[simp] theorem meterAdd_banks (s : State) (a k n : Nat) : (meterAdd a k n s).banks = s.banks := rfl
@[simp] theorem meterAdd_wgt (s : State) (a k n : Nat) : (meterAdd a k n s).wgt = s.wgt := rfl
@[simp] theorem meterAdd_arrs (s : State) (a k n : Nat) : (meterAdd a k n s).arrs = s.arrs := rfl
@[simp] theorem meterAdd_hoists (s : State) (a k n : Nat) : (meterAdd a k n s).hoists = s.hoists := rfl
@[simp] theorem meterAdd_pnts (s : State) (a k n : Nat) : (meterAdd a k n s).pnts = s.pnts := rfl
@[simp] theorem meterAdd_vecs (s : State) (a k n : Nat) : (meterAdd a k n s).vecs = s.vecs := rfl
@[simp] theorem meterAdd_mnt (s : State) (a k n : Nat) : (meterAdd a k n s).mnt = s.mnt := rfl
@[simp] theorem meterAdd_pwr (s : State) (a k n : Nat) : (meterAdd a k n s).pwr = s.pwr := rfl
@[simp] theorem meterAdd_sram (s : State) (a k n : Nat) : (meterAdd a k n s).sram = s.sram := rfl
@[simp] theorem meterAdd_answer (s : State) (a k n : Nat) : (meterAdd a k n s).answer = s.answer := rfl
@[simp] theorem meterAdd_fresh (s : State) (a k n : Nat) : (meterAdd a k n s).fresh = s.fresh := rfl
@[simp] theorem meterAdd_pending (s : State) (a k n : Nat) : (meterAdd a k n s).pending = s.pending := rfl

@[simp] theorem sendOn_regs (s : State) (p : Nat) (m : Msg) : (sendOn p m s).regs = s.regs := rfl
@[simp] theorem sendOn_ltime (s : State) (p : Nat) (m : Msg) : (sendOn p m s).ltime = s.ltime := rfl
@[simp] theorem sendOn_pins (s : State) (p : Nat) (m : Msg) : (sendOn p m s).pins = s.pins := rfl
@[simp] theorem sendOn_cfg (s : State) (p : Nat) (m : Msg) : (sendOn p m s).cfg = s.cfg := rfl
@[simp] theorem sendOn_ens (s : State) (p : Nat) (m : Msg) : (sendOn p m s).ens = s.ens := rfl
@[simp] theorem sendOn_sync (s : State) (p : Nat) (m : Msg) : (sendOn p m s).sync = s.sync := rfl
@[simp] theorem sendOn_flt (s : State) (p : Nat) (m : Msg) : (sendOn p m s).flt = s.flt := rfl
@[simp] theorem sendOn_host (s : State) (p : Nat) (m : Msg) : (sendOn p m s).host = s.host := rfl
@[simp] theorem sendOn_sched (s : State) (p : Nat) (m : Msg) : (sendOn p m s).sched = s.sched := rfl
@[simp] theorem sendOn_kv (s : State) (p : Nat) (m : Msg) : (sendOn p m s).kv = s.kv := rfl
@[simp] theorem sendOn_sec (s : State) (p : Nat) (m : Msg) : (sendOn p m s).sec = s.sec := rfl
@[simp] theorem sendOn_banks (s : State) (p : Nat) (m : Msg) : (sendOn p m s).banks = s.banks := rfl
@[simp] theorem sendOn_wgt (s : State) (p : Nat) (m : Msg) : (sendOn p m s).wgt = s.wgt := rfl
@[simp] theorem sendOn_arrs (s : State) (p : Nat) (m : Msg) : (sendOn p m s).arrs = s.arrs := rfl
@[simp] theorem sendOn_hoists (s : State) (p : Nat) (m : Msg) : (sendOn p m s).hoists = s.hoists := rfl
@[simp] theorem sendOn_pnts (s : State) (p : Nat) (m : Msg) : (sendOn p m s).pnts = s.pnts := rfl
@[simp] theorem sendOn_vecs (s : State) (p : Nat) (m : Msg) : (sendOn p m s).vecs = s.vecs := rfl
@[simp] theorem sendOn_mnt (s : State) (p : Nat) (m : Msg) : (sendOn p m s).mnt = s.mnt := rfl
@[simp] theorem sendOn_pwr (s : State) (p : Nat) (m : Msg) : (sendOn p m s).pwr = s.pwr := rfl
@[simp] theorem sendOn_mtr (s : State) (p : Nat) (m : Msg) : (sendOn p m s).mtr = s.mtr := rfl
@[simp] theorem sendOn_sram (s : State) (p : Nat) (m : Msg) : (sendOn p m s).sram = s.sram := rfl
@[simp] theorem sendOn_answer (s : State) (p : Nat) (m : Msg) : (sendOn p m s).answer = s.answer := rfl
@[simp] theorem sendOn_fresh (s : State) (p : Nat) (m : Msg) : (sendOn p m s).fresh = s.fresh := rfl
@[simp] theorem sendOn_pending (s : State) (p : Nat) (m : Msg) : (sendOn p m s).pending = s.pending := rfl

@[simp] theorem setSeq_regs (s : State) (q : Nat) (r : SeqRec) : (setSeq q r s).regs = s.regs := rfl
@[simp] theorem setSeq_ltime (s : State) (q : Nat) (r : SeqRec) : (setSeq q r s).ltime = s.ltime := rfl
@[simp] theorem setSeq_pins (s : State) (q : Nat) (r : SeqRec) : (setSeq q r s).pins = s.pins := rfl
@[simp] theorem setSeq_cfg (s : State) (q : Nat) (r : SeqRec) : (setSeq q r s).cfg = s.cfg := rfl
@[simp] theorem setSeq_ens (s : State) (q : Nat) (r : SeqRec) : (setSeq q r s).ens = s.ens := rfl
@[simp] theorem setSeq_sync (s : State) (q : Nat) (r : SeqRec) : (setSeq q r s).sync = s.sync := rfl
@[simp] theorem setSeq_flt (s : State) (q : Nat) (r : SeqRec) : (setSeq q r s).flt = s.flt := rfl
@[simp] theorem setSeq_host (s : State) (q : Nat) (r : SeqRec) : (setSeq q r s).host = s.host := rfl
@[simp] theorem setSeq_lnk (s : State) (q : Nat) (r : SeqRec) : (setSeq q r s).lnk = s.lnk := rfl
@[simp] theorem setSeq_kv (s : State) (q : Nat) (r : SeqRec) : (setSeq q r s).kv = s.kv := rfl
@[simp] theorem setSeq_sec (s : State) (q : Nat) (r : SeqRec) : (setSeq q r s).sec = s.sec := rfl
@[simp] theorem setSeq_banks (s : State) (q : Nat) (r : SeqRec) : (setSeq q r s).banks = s.banks := rfl
@[simp] theorem setSeq_wgt (s : State) (q : Nat) (r : SeqRec) : (setSeq q r s).wgt = s.wgt := rfl
@[simp] theorem setSeq_arrs (s : State) (q : Nat) (r : SeqRec) : (setSeq q r s).arrs = s.arrs := rfl
@[simp] theorem setSeq_hoists (s : State) (q : Nat) (r : SeqRec) : (setSeq q r s).hoists = s.hoists := rfl
@[simp] theorem setSeq_pnts (s : State) (q : Nat) (r : SeqRec) : (setSeq q r s).pnts = s.pnts := rfl
@[simp] theorem setSeq_vecs (s : State) (q : Nat) (r : SeqRec) : (setSeq q r s).vecs = s.vecs := rfl
@[simp] theorem setSeq_mnt (s : State) (q : Nat) (r : SeqRec) : (setSeq q r s).mnt = s.mnt := rfl
@[simp] theorem setSeq_pwr (s : State) (q : Nat) (r : SeqRec) : (setSeq q r s).pwr = s.pwr := rfl
@[simp] theorem setSeq_mtr (s : State) (q : Nat) (r : SeqRec) : (setSeq q r s).mtr = s.mtr := rfl
@[simp] theorem setSeq_sram (s : State) (q : Nat) (r : SeqRec) : (setSeq q r s).sram = s.sram := rfl
@[simp] theorem setSeq_answer (s : State) (q : Nat) (r : SeqRec) : (setSeq q r s).answer = s.answer := rfl
@[simp] theorem setSeq_fresh (s : State) (q : Nat) (r : SeqRec) : (setSeq q r s).fresh = s.fresh := rfl
@[simp] theorem setSeq_pending (s : State) (q : Nat) (r : SeqRec) : (setSeq q r s).pending = s.pending := rfl

@[simp] theorem updStep_regs (s : State) (n : Nat) (f : StepRec → StepRec) : (updStep n f s).regs = s.regs := rfl
@[simp] theorem updStep_ltime (s : State) (n : Nat) (f : StepRec → StepRec) : (updStep n f s).ltime = s.ltime := rfl
@[simp] theorem updStep_pins (s : State) (n : Nat) (f : StepRec → StepRec) : (updStep n f s).pins = s.pins := rfl
@[simp] theorem updStep_cfg (s : State) (n : Nat) (f : StepRec → StepRec) : (updStep n f s).cfg = s.cfg := rfl
@[simp] theorem updStep_ens (s : State) (n : Nat) (f : StepRec → StepRec) : (updStep n f s).ens = s.ens := rfl
@[simp] theorem updStep_sync (s : State) (n : Nat) (f : StepRec → StepRec) : (updStep n f s).sync = s.sync := rfl
@[simp] theorem updStep_flt (s : State) (n : Nat) (f : StepRec → StepRec) : (updStep n f s).flt = s.flt := rfl
@[simp] theorem updStep_host (s : State) (n : Nat) (f : StepRec → StepRec) : (updStep n f s).host = s.host := rfl
@[simp] theorem updStep_lnk (s : State) (n : Nat) (f : StepRec → StepRec) : (updStep n f s).lnk = s.lnk := rfl
@[simp] theorem updStep_kv (s : State) (n : Nat) (f : StepRec → StepRec) : (updStep n f s).kv = s.kv := rfl
@[simp] theorem updStep_sec (s : State) (n : Nat) (f : StepRec → StepRec) : (updStep n f s).sec = s.sec := rfl
@[simp] theorem updStep_banks (s : State) (n : Nat) (f : StepRec → StepRec) : (updStep n f s).banks = s.banks := rfl
@[simp] theorem updStep_wgt (s : State) (n : Nat) (f : StepRec → StepRec) : (updStep n f s).wgt = s.wgt := rfl
@[simp] theorem updStep_arrs (s : State) (n : Nat) (f : StepRec → StepRec) : (updStep n f s).arrs = s.arrs := rfl
@[simp] theorem updStep_hoists (s : State) (n : Nat) (f : StepRec → StepRec) : (updStep n f s).hoists = s.hoists := rfl
@[simp] theorem updStep_pnts (s : State) (n : Nat) (f : StepRec → StepRec) : (updStep n f s).pnts = s.pnts := rfl
@[simp] theorem updStep_vecs (s : State) (n : Nat) (f : StepRec → StepRec) : (updStep n f s).vecs = s.vecs := rfl
@[simp] theorem updStep_mnt (s : State) (n : Nat) (f : StepRec → StepRec) : (updStep n f s).mnt = s.mnt := rfl
@[simp] theorem updStep_pwr (s : State) (n : Nat) (f : StepRec → StepRec) : (updStep n f s).pwr = s.pwr := rfl
@[simp] theorem updStep_mtr (s : State) (n : Nat) (f : StepRec → StepRec) : (updStep n f s).mtr = s.mtr := rfl
@[simp] theorem updStep_sram (s : State) (n : Nat) (f : StepRec → StepRec) : (updStep n f s).sram = s.sram := rfl
@[simp] theorem updStep_answer (s : State) (n : Nat) (f : StepRec → StepRec) : (updStep n f s).answer = s.answer := rfl
@[simp] theorem updStep_fresh (s : State) (n : Nat) (f : StepRec → StepRec) : (updStep n f s).fresh = s.fresh := rfl
@[simp] theorem updStep_pending (s : State) (n : Nat) (f : StepRec → StepRec) : (updStep n f s).pending = s.pending := rfl

@[simp] theorem setSq_regs (s : State) (q : Nat) (l : List (Word64 × Bool)) : (setSq q l s).regs = s.regs := rfl
@[simp] theorem setSq_ltime (s : State) (q : Nat) (l : List (Word64 × Bool)) : (setSq q l s).ltime = s.ltime := rfl
@[simp] theorem setSq_pins (s : State) (q : Nat) (l : List (Word64 × Bool)) : (setSq q l s).pins = s.pins := rfl
@[simp] theorem setSq_cfg (s : State) (q : Nat) (l : List (Word64 × Bool)) : (setSq q l s).cfg = s.cfg := rfl
@[simp] theorem setSq_ens (s : State) (q : Nat) (l : List (Word64 × Bool)) : (setSq q l s).ens = s.ens := rfl
@[simp] theorem setSq_flt (s : State) (q : Nat) (l : List (Word64 × Bool)) : (setSq q l s).flt = s.flt := rfl
@[simp] theorem setSq_host (s : State) (q : Nat) (l : List (Word64 × Bool)) : (setSq q l s).host = s.host := rfl
@[simp] theorem setSq_lnk (s : State) (q : Nat) (l : List (Word64 × Bool)) : (setSq q l s).lnk = s.lnk := rfl
@[simp] theorem setSq_sched (s : State) (q : Nat) (l : List (Word64 × Bool)) : (setSq q l s).sched = s.sched := rfl
@[simp] theorem setSq_kv (s : State) (q : Nat) (l : List (Word64 × Bool)) : (setSq q l s).kv = s.kv := rfl
@[simp] theorem setSq_sec (s : State) (q : Nat) (l : List (Word64 × Bool)) : (setSq q l s).sec = s.sec := rfl
@[simp] theorem setSq_banks (s : State) (q : Nat) (l : List (Word64 × Bool)) : (setSq q l s).banks = s.banks := rfl
@[simp] theorem setSq_wgt (s : State) (q : Nat) (l : List (Word64 × Bool)) : (setSq q l s).wgt = s.wgt := rfl
@[simp] theorem setSq_arrs (s : State) (q : Nat) (l : List (Word64 × Bool)) : (setSq q l s).arrs = s.arrs := rfl
@[simp] theorem setSq_hoists (s : State) (q : Nat) (l : List (Word64 × Bool)) : (setSq q l s).hoists = s.hoists := rfl
@[simp] theorem setSq_pnts (s : State) (q : Nat) (l : List (Word64 × Bool)) : (setSq q l s).pnts = s.pnts := rfl
@[simp] theorem setSq_vecs (s : State) (q : Nat) (l : List (Word64 × Bool)) : (setSq q l s).vecs = s.vecs := rfl
@[simp] theorem setSq_mnt (s : State) (q : Nat) (l : List (Word64 × Bool)) : (setSq q l s).mnt = s.mnt := rfl
@[simp] theorem setSq_pwr (s : State) (q : Nat) (l : List (Word64 × Bool)) : (setSq q l s).pwr = s.pwr := rfl
@[simp] theorem setSq_mtr (s : State) (q : Nat) (l : List (Word64 × Bool)) : (setSq q l s).mtr = s.mtr := rfl
@[simp] theorem setSq_sram (s : State) (q : Nat) (l : List (Word64 × Bool)) : (setSq q l s).sram = s.sram := rfl
@[simp] theorem setSq_answer (s : State) (q : Nat) (l : List (Word64 × Bool)) : (setSq q l s).answer = s.answer := rfl
@[simp] theorem setSq_fresh (s : State) (q : Nat) (l : List (Word64 × Bool)) : (setSq q l s).fresh = s.fresh := rfl
@[simp] theorem setSq_pending (s : State) (q : Nat) (l : List (Word64 × Bool)) : (setSq q l s).pending = s.pending := rfl

@[simp] theorem setArr_regs (s : State) (a : Nat) (r : ArrRec) : (setArr a r s).regs = s.regs := rfl
@[simp] theorem setArr_ltime (s : State) (a : Nat) (r : ArrRec) : (setArr a r s).ltime = s.ltime := rfl
@[simp] theorem setArr_pins (s : State) (a : Nat) (r : ArrRec) : (setArr a r s).pins = s.pins := rfl
@[simp] theorem setArr_cfg (s : State) (a : Nat) (r : ArrRec) : (setArr a r s).cfg = s.cfg := rfl
@[simp] theorem setArr_ens (s : State) (a : Nat) (r : ArrRec) : (setArr a r s).ens = s.ens := rfl
@[simp] theorem setArr_sync (s : State) (a : Nat) (r : ArrRec) : (setArr a r s).sync = s.sync := rfl
@[simp] theorem setArr_flt (s : State) (a : Nat) (r : ArrRec) : (setArr a r s).flt = s.flt := rfl
@[simp] theorem setArr_host (s : State) (a : Nat) (r : ArrRec) : (setArr a r s).host = s.host := rfl
@[simp] theorem setArr_lnk (s : State) (a : Nat) (r : ArrRec) : (setArr a r s).lnk = s.lnk := rfl
@[simp] theorem setArr_sched (s : State) (a : Nat) (r : ArrRec) : (setArr a r s).sched = s.sched := rfl
@[simp] theorem setArr_kv (s : State) (a : Nat) (r : ArrRec) : (setArr a r s).kv = s.kv := rfl
@[simp] theorem setArr_sec (s : State) (a : Nat) (r : ArrRec) : (setArr a r s).sec = s.sec := rfl
@[simp] theorem setArr_banks (s : State) (a : Nat) (r : ArrRec) : (setArr a r s).banks = s.banks := rfl
@[simp] theorem setArr_wgt (s : State) (a : Nat) (r : ArrRec) : (setArr a r s).wgt = s.wgt := rfl
@[simp] theorem setArr_hoists (s : State) (a : Nat) (r : ArrRec) : (setArr a r s).hoists = s.hoists := rfl
@[simp] theorem setArr_pnts (s : State) (a : Nat) (r : ArrRec) : (setArr a r s).pnts = s.pnts := rfl
@[simp] theorem setArr_vecs (s : State) (a : Nat) (r : ArrRec) : (setArr a r s).vecs = s.vecs := rfl
@[simp] theorem setArr_mnt (s : State) (a : Nat) (r : ArrRec) : (setArr a r s).mnt = s.mnt := rfl
@[simp] theorem setArr_pwr (s : State) (a : Nat) (r : ArrRec) : (setArr a r s).pwr = s.pwr := rfl
@[simp] theorem setArr_mtr (s : State) (a : Nat) (r : ArrRec) : (setArr a r s).mtr = s.mtr := rfl
@[simp] theorem setArr_sram (s : State) (a : Nat) (r : ArrRec) : (setArr a r s).sram = s.sram := rfl
@[simp] theorem setArr_answer (s : State) (a : Nat) (r : ArrRec) : (setArr a r s).answer = s.answer := rfl
@[simp] theorem setArr_fresh (s : State) (a : Nat) (r : ArrRec) : (setArr a r s).fresh = s.fresh := rfl
@[simp] theorem setArr_pending (s : State) (a : Nat) (r : ArrRec) : (setArr a r s).pending = s.pending := rfl

@[simp] theorem updArr_regs (s : State) (a : Nat) (f : ArrRec → ArrRec) : (updArr a f s).regs = s.regs := rfl
@[simp] theorem updArr_ltime (s : State) (a : Nat) (f : ArrRec → ArrRec) : (updArr a f s).ltime = s.ltime := rfl
@[simp] theorem updArr_pins (s : State) (a : Nat) (f : ArrRec → ArrRec) : (updArr a f s).pins = s.pins := rfl
@[simp] theorem updArr_cfg (s : State) (a : Nat) (f : ArrRec → ArrRec) : (updArr a f s).cfg = s.cfg := rfl
@[simp] theorem updArr_ens (s : State) (a : Nat) (f : ArrRec → ArrRec) : (updArr a f s).ens = s.ens := rfl
@[simp] theorem updArr_sync (s : State) (a : Nat) (f : ArrRec → ArrRec) : (updArr a f s).sync = s.sync := rfl
@[simp] theorem updArr_flt (s : State) (a : Nat) (f : ArrRec → ArrRec) : (updArr a f s).flt = s.flt := rfl
@[simp] theorem updArr_host (s : State) (a : Nat) (f : ArrRec → ArrRec) : (updArr a f s).host = s.host := rfl
@[simp] theorem updArr_lnk (s : State) (a : Nat) (f : ArrRec → ArrRec) : (updArr a f s).lnk = s.lnk := rfl
@[simp] theorem updArr_sched (s : State) (a : Nat) (f : ArrRec → ArrRec) : (updArr a f s).sched = s.sched := rfl
@[simp] theorem updArr_kv (s : State) (a : Nat) (f : ArrRec → ArrRec) : (updArr a f s).kv = s.kv := rfl
@[simp] theorem updArr_sec (s : State) (a : Nat) (f : ArrRec → ArrRec) : (updArr a f s).sec = s.sec := rfl
@[simp] theorem updArr_banks (s : State) (a : Nat) (f : ArrRec → ArrRec) : (updArr a f s).banks = s.banks := rfl
@[simp] theorem updArr_wgt (s : State) (a : Nat) (f : ArrRec → ArrRec) : (updArr a f s).wgt = s.wgt := rfl
@[simp] theorem updArr_hoists (s : State) (a : Nat) (f : ArrRec → ArrRec) : (updArr a f s).hoists = s.hoists := rfl
@[simp] theorem updArr_pnts (s : State) (a : Nat) (f : ArrRec → ArrRec) : (updArr a f s).pnts = s.pnts := rfl
@[simp] theorem updArr_vecs (s : State) (a : Nat) (f : ArrRec → ArrRec) : (updArr a f s).vecs = s.vecs := rfl
@[simp] theorem updArr_mnt (s : State) (a : Nat) (f : ArrRec → ArrRec) : (updArr a f s).mnt = s.mnt := rfl
@[simp] theorem updArr_pwr (s : State) (a : Nat) (f : ArrRec → ArrRec) : (updArr a f s).pwr = s.pwr := rfl
@[simp] theorem updArr_mtr (s : State) (a : Nat) (f : ArrRec → ArrRec) : (updArr a f s).mtr = s.mtr := rfl
@[simp] theorem updArr_sram (s : State) (a : Nat) (f : ArrRec → ArrRec) : (updArr a f s).sram = s.sram := rfl
@[simp] theorem updArr_answer (s : State) (a : Nat) (f : ArrRec → ArrRec) : (updArr a f s).answer = s.answer := rfl
@[simp] theorem updArr_fresh (s : State) (a : Nat) (f : ArrRec → ArrRec) : (updArr a f s).fresh = s.fresh := rfl
@[simp] theorem updArr_pending (s : State) (a : Nat) (f : ArrRec → ArrRec) : (updArr a f s).pending = s.pending := rfl

@[simp] theorem setArrState_ltime (s : State) (a n : Nat) : (setArrState a n s).ltime = s.ltime := rfl
@[simp] theorem setArrState_pins (s : State) (a n : Nat) : (setArrState a n s).pins = s.pins := rfl
@[simp] theorem setArrState_cfg (s : State) (a n : Nat) : (setArrState a n s).cfg = s.cfg := rfl
@[simp] theorem setArrState_ens (s : State) (a n : Nat) : (setArrState a n s).ens = s.ens := rfl
@[simp] theorem setArrState_sync (s : State) (a n : Nat) : (setArrState a n s).sync = s.sync := rfl
@[simp] theorem setArrState_flt (s : State) (a n : Nat) : (setArrState a n s).flt = s.flt := rfl
@[simp] theorem setArrState_host (s : State) (a n : Nat) : (setArrState a n s).host = s.host := rfl
@[simp] theorem setArrState_lnk (s : State) (a n : Nat) : (setArrState a n s).lnk = s.lnk := rfl
@[simp] theorem setArrState_sched (s : State) (a n : Nat) : (setArrState a n s).sched = s.sched := rfl
@[simp] theorem setArrState_kv (s : State) (a n : Nat) : (setArrState a n s).kv = s.kv := rfl
@[simp] theorem setArrState_sec (s : State) (a n : Nat) : (setArrState a n s).sec = s.sec := rfl
@[simp] theorem setArrState_banks (s : State) (a n : Nat) : (setArrState a n s).banks = s.banks := rfl
@[simp] theorem setArrState_wgt (s : State) (a n : Nat) : (setArrState a n s).wgt = s.wgt := rfl
@[simp] theorem setArrState_arrs (s : State) (a n : Nat) : (setArrState a n s).arrs = s.arrs := rfl
@[simp] theorem setArrState_hoists (s : State) (a n : Nat) : (setArrState a n s).hoists = s.hoists := rfl
@[simp] theorem setArrState_pnts (s : State) (a n : Nat) : (setArrState a n s).pnts = s.pnts := rfl
@[simp] theorem setArrState_vecs (s : State) (a n : Nat) : (setArrState a n s).vecs = s.vecs := rfl
@[simp] theorem setArrState_mnt (s : State) (a n : Nat) : (setArrState a n s).mnt = s.mnt := rfl
@[simp] theorem setArrState_pwr (s : State) (a n : Nat) : (setArrState a n s).pwr = s.pwr := rfl
@[simp] theorem setArrState_mtr (s : State) (a n : Nat) : (setArrState a n s).mtr = s.mtr := rfl
@[simp] theorem setArrState_sram (s : State) (a n : Nat) : (setArrState a n s).sram = s.sram := rfl
@[simp] theorem setArrState_answer (s : State) (a n : Nat) : (setArrState a n s).answer = s.answer := rfl
@[simp] theorem setArrState_fresh (s : State) (a n : Nat) : (setArrState a n s).fresh = s.fresh := rfl
@[simp] theorem setArrState_pending (s : State) (a n : Nat) : (setArrState a n s).pending = s.pending := rfl

@[simp] theorem setPnt_regs (s : State) (a : Nat) (r : PntRec) : (setPnt a r s).regs = s.regs := rfl
@[simp] theorem setPnt_ltime (s : State) (a : Nat) (r : PntRec) : (setPnt a r s).ltime = s.ltime := rfl
@[simp] theorem setPnt_pins (s : State) (a : Nat) (r : PntRec) : (setPnt a r s).pins = s.pins := rfl
@[simp] theorem setPnt_cfg (s : State) (a : Nat) (r : PntRec) : (setPnt a r s).cfg = s.cfg := rfl
@[simp] theorem setPnt_ens (s : State) (a : Nat) (r : PntRec) : (setPnt a r s).ens = s.ens := rfl
@[simp] theorem setPnt_sync (s : State) (a : Nat) (r : PntRec) : (setPnt a r s).sync = s.sync := rfl
@[simp] theorem setPnt_flt (s : State) (a : Nat) (r : PntRec) : (setPnt a r s).flt = s.flt := rfl
@[simp] theorem setPnt_host (s : State) (a : Nat) (r : PntRec) : (setPnt a r s).host = s.host := rfl
@[simp] theorem setPnt_lnk (s : State) (a : Nat) (r : PntRec) : (setPnt a r s).lnk = s.lnk := rfl
@[simp] theorem setPnt_sched (s : State) (a : Nat) (r : PntRec) : (setPnt a r s).sched = s.sched := rfl
@[simp] theorem setPnt_kv (s : State) (a : Nat) (r : PntRec) : (setPnt a r s).kv = s.kv := rfl
@[simp] theorem setPnt_sec (s : State) (a : Nat) (r : PntRec) : (setPnt a r s).sec = s.sec := rfl
@[simp] theorem setPnt_banks (s : State) (a : Nat) (r : PntRec) : (setPnt a r s).banks = s.banks := rfl
@[simp] theorem setPnt_wgt (s : State) (a : Nat) (r : PntRec) : (setPnt a r s).wgt = s.wgt := rfl
@[simp] theorem setPnt_arrs (s : State) (a : Nat) (r : PntRec) : (setPnt a r s).arrs = s.arrs := rfl
@[simp] theorem setPnt_hoists (s : State) (a : Nat) (r : PntRec) : (setPnt a r s).hoists = s.hoists := rfl
@[simp] theorem setPnt_vecs (s : State) (a : Nat) (r : PntRec) : (setPnt a r s).vecs = s.vecs := rfl
@[simp] theorem setPnt_mnt (s : State) (a : Nat) (r : PntRec) : (setPnt a r s).mnt = s.mnt := rfl
@[simp] theorem setPnt_pwr (s : State) (a : Nat) (r : PntRec) : (setPnt a r s).pwr = s.pwr := rfl
@[simp] theorem setPnt_mtr (s : State) (a : Nat) (r : PntRec) : (setPnt a r s).mtr = s.mtr := rfl
@[simp] theorem setPnt_sram (s : State) (a : Nat) (r : PntRec) : (setPnt a r s).sram = s.sram := rfl
@[simp] theorem setPnt_answer (s : State) (a : Nat) (r : PntRec) : (setPnt a r s).answer = s.answer := rfl
@[simp] theorem setPnt_fresh (s : State) (a : Nat) (r : PntRec) : (setPnt a r s).fresh = s.fresh := rfl
@[simp] theorem setPnt_pending (s : State) (a : Nat) (r : PntRec) : (setPnt a r s).pending = s.pending := rfl

@[simp] theorem updPnt_regs (s : State) (a : Nat) (f : PntRec → PntRec) : (updPnt a f s).regs = s.regs := rfl
@[simp] theorem updPnt_ltime (s : State) (a : Nat) (f : PntRec → PntRec) : (updPnt a f s).ltime = s.ltime := rfl
@[simp] theorem updPnt_pins (s : State) (a : Nat) (f : PntRec → PntRec) : (updPnt a f s).pins = s.pins := rfl
@[simp] theorem updPnt_cfg (s : State) (a : Nat) (f : PntRec → PntRec) : (updPnt a f s).cfg = s.cfg := rfl
@[simp] theorem updPnt_ens (s : State) (a : Nat) (f : PntRec → PntRec) : (updPnt a f s).ens = s.ens := rfl
@[simp] theorem updPnt_sync (s : State) (a : Nat) (f : PntRec → PntRec) : (updPnt a f s).sync = s.sync := rfl
@[simp] theorem updPnt_flt (s : State) (a : Nat) (f : PntRec → PntRec) : (updPnt a f s).flt = s.flt := rfl
@[simp] theorem updPnt_host (s : State) (a : Nat) (f : PntRec → PntRec) : (updPnt a f s).host = s.host := rfl
@[simp] theorem updPnt_lnk (s : State) (a : Nat) (f : PntRec → PntRec) : (updPnt a f s).lnk = s.lnk := rfl
@[simp] theorem updPnt_sched (s : State) (a : Nat) (f : PntRec → PntRec) : (updPnt a f s).sched = s.sched := rfl
@[simp] theorem updPnt_kv (s : State) (a : Nat) (f : PntRec → PntRec) : (updPnt a f s).kv = s.kv := rfl
@[simp] theorem updPnt_sec (s : State) (a : Nat) (f : PntRec → PntRec) : (updPnt a f s).sec = s.sec := rfl
@[simp] theorem updPnt_banks (s : State) (a : Nat) (f : PntRec → PntRec) : (updPnt a f s).banks = s.banks := rfl
@[simp] theorem updPnt_wgt (s : State) (a : Nat) (f : PntRec → PntRec) : (updPnt a f s).wgt = s.wgt := rfl
@[simp] theorem updPnt_arrs (s : State) (a : Nat) (f : PntRec → PntRec) : (updPnt a f s).arrs = s.arrs := rfl
@[simp] theorem updPnt_hoists (s : State) (a : Nat) (f : PntRec → PntRec) : (updPnt a f s).hoists = s.hoists := rfl
@[simp] theorem updPnt_vecs (s : State) (a : Nat) (f : PntRec → PntRec) : (updPnt a f s).vecs = s.vecs := rfl
@[simp] theorem updPnt_mnt (s : State) (a : Nat) (f : PntRec → PntRec) : (updPnt a f s).mnt = s.mnt := rfl
@[simp] theorem updPnt_pwr (s : State) (a : Nat) (f : PntRec → PntRec) : (updPnt a f s).pwr = s.pwr := rfl
@[simp] theorem updPnt_mtr (s : State) (a : Nat) (f : PntRec → PntRec) : (updPnt a f s).mtr = s.mtr := rfl
@[simp] theorem updPnt_sram (s : State) (a : Nat) (f : PntRec → PntRec) : (updPnt a f s).sram = s.sram := rfl
@[simp] theorem updPnt_answer (s : State) (a : Nat) (f : PntRec → PntRec) : (updPnt a f s).answer = s.answer := rfl
@[simp] theorem updPnt_fresh (s : State) (a : Nat) (f : PntRec → PntRec) : (updPnt a f s).fresh = s.fresh := rfl
@[simp] theorem updPnt_pending (s : State) (a : Nat) (f : PntRec → PntRec) : (updPnt a f s).pending = s.pending := rfl

@[simp] theorem setSlot_regs (s : State) (n : Nat) (r : EpSlot) : (setSlot n r s).regs = s.regs := rfl
@[simp] theorem setSlot_ltime (s : State) (n : Nat) (r : EpSlot) : (setSlot n r s).ltime = s.ltime := rfl
@[simp] theorem setSlot_pins (s : State) (n : Nat) (r : EpSlot) : (setSlot n r s).pins = s.pins := rfl
@[simp] theorem setSlot_cfg (s : State) (n : Nat) (r : EpSlot) : (setSlot n r s).cfg = s.cfg := rfl
@[simp] theorem setSlot_ens (s : State) (n : Nat) (r : EpSlot) : (setSlot n r s).ens = s.ens := rfl
@[simp] theorem setSlot_sync (s : State) (n : Nat) (r : EpSlot) : (setSlot n r s).sync = s.sync := rfl
@[simp] theorem setSlot_flt (s : State) (n : Nat) (r : EpSlot) : (setSlot n r s).flt = s.flt := rfl
@[simp] theorem setSlot_host (s : State) (n : Nat) (r : EpSlot) : (setSlot n r s).host = s.host := rfl
@[simp] theorem setSlot_lnk (s : State) (n : Nat) (r : EpSlot) : (setSlot n r s).lnk = s.lnk := rfl
@[simp] theorem setSlot_sched (s : State) (n : Nat) (r : EpSlot) : (setSlot n r s).sched = s.sched := rfl
@[simp] theorem setSlot_kv (s : State) (n : Nat) (r : EpSlot) : (setSlot n r s).kv = s.kv := rfl
@[simp] theorem setSlot_sec (s : State) (n : Nat) (r : EpSlot) : (setSlot n r s).sec = s.sec := rfl
@[simp] theorem setSlot_banks (s : State) (n : Nat) (r : EpSlot) : (setSlot n r s).banks = s.banks := rfl
@[simp] theorem setSlot_arrs (s : State) (n : Nat) (r : EpSlot) : (setSlot n r s).arrs = s.arrs := rfl
@[simp] theorem setSlot_hoists (s : State) (n : Nat) (r : EpSlot) : (setSlot n r s).hoists = s.hoists := rfl
@[simp] theorem setSlot_pnts (s : State) (n : Nat) (r : EpSlot) : (setSlot n r s).pnts = s.pnts := rfl
@[simp] theorem setSlot_vecs (s : State) (n : Nat) (r : EpSlot) : (setSlot n r s).vecs = s.vecs := rfl
@[simp] theorem setSlot_mnt (s : State) (n : Nat) (r : EpSlot) : (setSlot n r s).mnt = s.mnt := rfl
@[simp] theorem setSlot_pwr (s : State) (n : Nat) (r : EpSlot) : (setSlot n r s).pwr = s.pwr := rfl
@[simp] theorem setSlot_mtr (s : State) (n : Nat) (r : EpSlot) : (setSlot n r s).mtr = s.mtr := rfl
@[simp] theorem setSlot_sram (s : State) (n : Nat) (r : EpSlot) : (setSlot n r s).sram = s.sram := rfl
@[simp] theorem setSlot_answer (s : State) (n : Nat) (r : EpSlot) : (setSlot n r s).answer = s.answer := rfl
@[simp] theorem setSlot_fresh (s : State) (n : Nat) (r : EpSlot) : (setSlot n r s).fresh = s.fresh := rfl
@[simp] theorem setSlot_pending (s : State) (n : Nat) (r : EpSlot) : (setSlot n r s).pending = s.pending := rfl

@[simp] theorem setHoist_regs (s : State) (n : Nat) (r : HoistRec) : (setHoist n r s).regs = s.regs := rfl
@[simp] theorem setHoist_ltime (s : State) (n : Nat) (r : HoistRec) : (setHoist n r s).ltime = s.ltime := rfl
@[simp] theorem setHoist_pins (s : State) (n : Nat) (r : HoistRec) : (setHoist n r s).pins = s.pins := rfl
@[simp] theorem setHoist_cfg (s : State) (n : Nat) (r : HoistRec) : (setHoist n r s).cfg = s.cfg := rfl
@[simp] theorem setHoist_ens (s : State) (n : Nat) (r : HoistRec) : (setHoist n r s).ens = s.ens := rfl
@[simp] theorem setHoist_sync (s : State) (n : Nat) (r : HoistRec) : (setHoist n r s).sync = s.sync := rfl
@[simp] theorem setHoist_flt (s : State) (n : Nat) (r : HoistRec) : (setHoist n r s).flt = s.flt := rfl
@[simp] theorem setHoist_host (s : State) (n : Nat) (r : HoistRec) : (setHoist n r s).host = s.host := rfl
@[simp] theorem setHoist_lnk (s : State) (n : Nat) (r : HoistRec) : (setHoist n r s).lnk = s.lnk := rfl
@[simp] theorem setHoist_sched (s : State) (n : Nat) (r : HoistRec) : (setHoist n r s).sched = s.sched := rfl
@[simp] theorem setHoist_kv (s : State) (n : Nat) (r : HoistRec) : (setHoist n r s).kv = s.kv := rfl
@[simp] theorem setHoist_sec (s : State) (n : Nat) (r : HoistRec) : (setHoist n r s).sec = s.sec := rfl
@[simp] theorem setHoist_banks (s : State) (n : Nat) (r : HoistRec) : (setHoist n r s).banks = s.banks := rfl
@[simp] theorem setHoist_wgt (s : State) (n : Nat) (r : HoistRec) : (setHoist n r s).wgt = s.wgt := rfl
@[simp] theorem setHoist_arrs (s : State) (n : Nat) (r : HoistRec) : (setHoist n r s).arrs = s.arrs := rfl
@[simp] theorem setHoist_pnts (s : State) (n : Nat) (r : HoistRec) : (setHoist n r s).pnts = s.pnts := rfl
@[simp] theorem setHoist_vecs (s : State) (n : Nat) (r : HoistRec) : (setHoist n r s).vecs = s.vecs := rfl
@[simp] theorem setHoist_mnt (s : State) (n : Nat) (r : HoistRec) : (setHoist n r s).mnt = s.mnt := rfl
@[simp] theorem setHoist_pwr (s : State) (n : Nat) (r : HoistRec) : (setHoist n r s).pwr = s.pwr := rfl
@[simp] theorem setHoist_mtr (s : State) (n : Nat) (r : HoistRec) : (setHoist n r s).mtr = s.mtr := rfl
@[simp] theorem setHoist_sram (s : State) (n : Nat) (r : HoistRec) : (setHoist n r s).sram = s.sram := rfl
@[simp] theorem setHoist_answer (s : State) (n : Nat) (r : HoistRec) : (setHoist n r s).answer = s.answer := rfl
@[simp] theorem setHoist_fresh (s : State) (n : Nat) (r : HoistRec) : (setHoist n r s).fresh = s.fresh := rfl
@[simp] theorem setHoist_pending (s : State) (n : Nat) (r : HoistRec) : (setHoist n r s).pending = s.pending := rfl

@[simp] theorem updInst_regs (s : State) (f : InstRec → InstRec) : (updInst f s).regs = s.regs := rfl
@[simp] theorem updInst_ltime (s : State) (f : InstRec → InstRec) : (updInst f s).ltime = s.ltime := rfl
@[simp] theorem updInst_pins (s : State) (f : InstRec → InstRec) : (updInst f s).pins = s.pins := rfl
@[simp] theorem updInst_cfg (s : State) (f : InstRec → InstRec) : (updInst f s).cfg = s.cfg := rfl
@[simp] theorem updInst_ens (s : State) (f : InstRec → InstRec) : (updInst f s).ens = s.ens := rfl
@[simp] theorem updInst_sync (s : State) (f : InstRec → InstRec) : (updInst f s).sync = s.sync := rfl
@[simp] theorem updInst_flt (s : State) (f : InstRec → InstRec) : (updInst f s).flt = s.flt := rfl
@[simp] theorem updInst_host (s : State) (f : InstRec → InstRec) : (updInst f s).host = s.host := rfl
@[simp] theorem updInst_lnk (s : State) (f : InstRec → InstRec) : (updInst f s).lnk = s.lnk := rfl
@[simp] theorem updInst_sched (s : State) (f : InstRec → InstRec) : (updInst f s).sched = s.sched := rfl
@[simp] theorem updInst_kv (s : State) (f : InstRec → InstRec) : (updInst f s).kv = s.kv := rfl
@[simp] theorem updInst_sec (s : State) (f : InstRec → InstRec) : (updInst f s).sec = s.sec := rfl
@[simp] theorem updInst_banks (s : State) (f : InstRec → InstRec) : (updInst f s).banks = s.banks := rfl
@[simp] theorem updInst_arrs (s : State) (f : InstRec → InstRec) : (updInst f s).arrs = s.arrs := rfl
@[simp] theorem updInst_hoists (s : State) (f : InstRec → InstRec) : (updInst f s).hoists = s.hoists := rfl
@[simp] theorem updInst_pnts (s : State) (f : InstRec → InstRec) : (updInst f s).pnts = s.pnts := rfl
@[simp] theorem updInst_vecs (s : State) (f : InstRec → InstRec) : (updInst f s).vecs = s.vecs := rfl
@[simp] theorem updInst_mnt (s : State) (f : InstRec → InstRec) : (updInst f s).mnt = s.mnt := rfl
@[simp] theorem updInst_pwr (s : State) (f : InstRec → InstRec) : (updInst f s).pwr = s.pwr := rfl
@[simp] theorem updInst_mtr (s : State) (f : InstRec → InstRec) : (updInst f s).mtr = s.mtr := rfl
@[simp] theorem updInst_sram (s : State) (f : InstRec → InstRec) : (updInst f s).sram = s.sram := rfl
@[simp] theorem updInst_answer (s : State) (f : InstRec → InstRec) : (updInst f s).answer = s.answer := rfl
@[simp] theorem updInst_fresh (s : State) (f : InstRec → InstRec) : (updInst f s).fresh = s.fresh := rfl
@[simp] theorem updInst_pending (s : State) (f : InstRec → InstRec) : (updInst f s).pending = s.pending := rfl

@[simp] theorem updSec_regs (s : State) (f : SecState → SecState) : (updSec f s).regs = s.regs := rfl
@[simp] theorem updSec_ltime (s : State) (f : SecState → SecState) : (updSec f s).ltime = s.ltime := rfl
@[simp] theorem updSec_pins (s : State) (f : SecState → SecState) : (updSec f s).pins = s.pins := rfl
@[simp] theorem updSec_cfg (s : State) (f : SecState → SecState) : (updSec f s).cfg = s.cfg := rfl
@[simp] theorem updSec_ens (s : State) (f : SecState → SecState) : (updSec f s).ens = s.ens := rfl
@[simp] theorem updSec_sync (s : State) (f : SecState → SecState) : (updSec f s).sync = s.sync := rfl
@[simp] theorem updSec_flt (s : State) (f : SecState → SecState) : (updSec f s).flt = s.flt := rfl
@[simp] theorem updSec_host (s : State) (f : SecState → SecState) : (updSec f s).host = s.host := rfl
@[simp] theorem updSec_lnk (s : State) (f : SecState → SecState) : (updSec f s).lnk = s.lnk := rfl
@[simp] theorem updSec_sched (s : State) (f : SecState → SecState) : (updSec f s).sched = s.sched := rfl
@[simp] theorem updSec_kv (s : State) (f : SecState → SecState) : (updSec f s).kv = s.kv := rfl
@[simp] theorem updSec_banks (s : State) (f : SecState → SecState) : (updSec f s).banks = s.banks := rfl
@[simp] theorem updSec_wgt (s : State) (f : SecState → SecState) : (updSec f s).wgt = s.wgt := rfl
@[simp] theorem updSec_arrs (s : State) (f : SecState → SecState) : (updSec f s).arrs = s.arrs := rfl
@[simp] theorem updSec_hoists (s : State) (f : SecState → SecState) : (updSec f s).hoists = s.hoists := rfl
@[simp] theorem updSec_pnts (s : State) (f : SecState → SecState) : (updSec f s).pnts = s.pnts := rfl
@[simp] theorem updSec_vecs (s : State) (f : SecState → SecState) : (updSec f s).vecs = s.vecs := rfl
@[simp] theorem updSec_mnt (s : State) (f : SecState → SecState) : (updSec f s).mnt = s.mnt := rfl
@[simp] theorem updSec_pwr (s : State) (f : SecState → SecState) : (updSec f s).pwr = s.pwr := rfl
@[simp] theorem updSec_mtr (s : State) (f : SecState → SecState) : (updSec f s).mtr = s.mtr := rfl
@[simp] theorem updSec_sram (s : State) (f : SecState → SecState) : (updSec f s).sram = s.sram := rfl
@[simp] theorem updSec_answer (s : State) (f : SecState → SecState) : (updSec f s).answer = s.answer := rfl
@[simp] theorem updSec_fresh (s : State) (f : SecState → SecState) : (updSec f s).fresh = s.fresh := rfl
@[simp] theorem updSec_pending (s : State) (f : SecState → SecState) : (updSec f s).pending = s.pending := rfl

@[simp] theorem updMtr_regs (s : State) (f : MeterState → MeterState) : (updMtr f s).regs = s.regs := rfl
@[simp] theorem updMtr_ltime (s : State) (f : MeterState → MeterState) : (updMtr f s).ltime = s.ltime := rfl
@[simp] theorem updMtr_pins (s : State) (f : MeterState → MeterState) : (updMtr f s).pins = s.pins := rfl
@[simp] theorem updMtr_cfg (s : State) (f : MeterState → MeterState) : (updMtr f s).cfg = s.cfg := rfl
@[simp] theorem updMtr_ens (s : State) (f : MeterState → MeterState) : (updMtr f s).ens = s.ens := rfl
@[simp] theorem updMtr_sync (s : State) (f : MeterState → MeterState) : (updMtr f s).sync = s.sync := rfl
@[simp] theorem updMtr_flt (s : State) (f : MeterState → MeterState) : (updMtr f s).flt = s.flt := rfl
@[simp] theorem updMtr_host (s : State) (f : MeterState → MeterState) : (updMtr f s).host = s.host := rfl
@[simp] theorem updMtr_lnk (s : State) (f : MeterState → MeterState) : (updMtr f s).lnk = s.lnk := rfl
@[simp] theorem updMtr_sched (s : State) (f : MeterState → MeterState) : (updMtr f s).sched = s.sched := rfl
@[simp] theorem updMtr_kv (s : State) (f : MeterState → MeterState) : (updMtr f s).kv = s.kv := rfl
@[simp] theorem updMtr_sec (s : State) (f : MeterState → MeterState) : (updMtr f s).sec = s.sec := rfl
@[simp] theorem updMtr_banks (s : State) (f : MeterState → MeterState) : (updMtr f s).banks = s.banks := rfl
@[simp] theorem updMtr_wgt (s : State) (f : MeterState → MeterState) : (updMtr f s).wgt = s.wgt := rfl
@[simp] theorem updMtr_arrs (s : State) (f : MeterState → MeterState) : (updMtr f s).arrs = s.arrs := rfl
@[simp] theorem updMtr_hoists (s : State) (f : MeterState → MeterState) : (updMtr f s).hoists = s.hoists := rfl
@[simp] theorem updMtr_pnts (s : State) (f : MeterState → MeterState) : (updMtr f s).pnts = s.pnts := rfl
@[simp] theorem updMtr_vecs (s : State) (f : MeterState → MeterState) : (updMtr f s).vecs = s.vecs := rfl
@[simp] theorem updMtr_mnt (s : State) (f : MeterState → MeterState) : (updMtr f s).mnt = s.mnt := rfl
@[simp] theorem updMtr_pwr (s : State) (f : MeterState → MeterState) : (updMtr f s).pwr = s.pwr := rfl
@[simp] theorem updMtr_sram (s : State) (f : MeterState → MeterState) : (updMtr f s).sram = s.sram := rfl
@[simp] theorem updMtr_answer (s : State) (f : MeterState → MeterState) : (updMtr f s).answer = s.answer := rfl
@[simp] theorem updMtr_fresh (s : State) (f : MeterState → MeterState) : (updMtr f s).fresh = s.fresh := rfl
@[simp] theorem updMtr_pending (s : State) (f : MeterState → MeterState) : (updMtr f s).pending = s.pending := rfl

@[simp] theorem updPwr_regs (s : State) (f : PwrState → PwrState) : (updPwr f s).regs = s.regs := rfl
@[simp] theorem updPwr_ltime (s : State) (f : PwrState → PwrState) : (updPwr f s).ltime = s.ltime := rfl
@[simp] theorem updPwr_pins (s : State) (f : PwrState → PwrState) : (updPwr f s).pins = s.pins := rfl
@[simp] theorem updPwr_cfg (s : State) (f : PwrState → PwrState) : (updPwr f s).cfg = s.cfg := rfl
@[simp] theorem updPwr_ens (s : State) (f : PwrState → PwrState) : (updPwr f s).ens = s.ens := rfl
@[simp] theorem updPwr_sync (s : State) (f : PwrState → PwrState) : (updPwr f s).sync = s.sync := rfl
@[simp] theorem updPwr_flt (s : State) (f : PwrState → PwrState) : (updPwr f s).flt = s.flt := rfl
@[simp] theorem updPwr_host (s : State) (f : PwrState → PwrState) : (updPwr f s).host = s.host := rfl
@[simp] theorem updPwr_lnk (s : State) (f : PwrState → PwrState) : (updPwr f s).lnk = s.lnk := rfl
@[simp] theorem updPwr_sched (s : State) (f : PwrState → PwrState) : (updPwr f s).sched = s.sched := rfl
@[simp] theorem updPwr_kv (s : State) (f : PwrState → PwrState) : (updPwr f s).kv = s.kv := rfl
@[simp] theorem updPwr_sec (s : State) (f : PwrState → PwrState) : (updPwr f s).sec = s.sec := rfl
@[simp] theorem updPwr_banks (s : State) (f : PwrState → PwrState) : (updPwr f s).banks = s.banks := rfl
@[simp] theorem updPwr_wgt (s : State) (f : PwrState → PwrState) : (updPwr f s).wgt = s.wgt := rfl
@[simp] theorem updPwr_arrs (s : State) (f : PwrState → PwrState) : (updPwr f s).arrs = s.arrs := rfl
@[simp] theorem updPwr_hoists (s : State) (f : PwrState → PwrState) : (updPwr f s).hoists = s.hoists := rfl
@[simp] theorem updPwr_pnts (s : State) (f : PwrState → PwrState) : (updPwr f s).pnts = s.pnts := rfl
@[simp] theorem updPwr_vecs (s : State) (f : PwrState → PwrState) : (updPwr f s).vecs = s.vecs := rfl
@[simp] theorem updPwr_mnt (s : State) (f : PwrState → PwrState) : (updPwr f s).mnt = s.mnt := rfl
@[simp] theorem updPwr_mtr (s : State) (f : PwrState → PwrState) : (updPwr f s).mtr = s.mtr := rfl
@[simp] theorem updPwr_sram (s : State) (f : PwrState → PwrState) : (updPwr f s).sram = s.sram := rfl
@[simp] theorem updPwr_answer (s : State) (f : PwrState → PwrState) : (updPwr f s).answer = s.answer := rfl
@[simp] theorem updPwr_fresh (s : State) (f : PwrState → PwrState) : (updPwr f s).fresh = s.fresh := rfl
@[simp] theorem updPwr_pending (s : State) (f : PwrState → PwrState) : (updPwr f s).pending = s.pending := rfl

@[simp] theorem updSensor_regs (s : State) (n : Nat) (f : Sensor → Sensor) : (updSensor n f s).regs = s.regs := rfl
@[simp] theorem updSensor_ltime (s : State) (n : Nat) (f : Sensor → Sensor) : (updSensor n f s).ltime = s.ltime := rfl
@[simp] theorem updSensor_pins (s : State) (n : Nat) (f : Sensor → Sensor) : (updSensor n f s).pins = s.pins := rfl
@[simp] theorem updSensor_cfg (s : State) (n : Nat) (f : Sensor → Sensor) : (updSensor n f s).cfg = s.cfg := rfl
@[simp] theorem updSensor_ens (s : State) (n : Nat) (f : Sensor → Sensor) : (updSensor n f s).ens = s.ens := rfl
@[simp] theorem updSensor_sync (s : State) (n : Nat) (f : Sensor → Sensor) : (updSensor n f s).sync = s.sync := rfl
@[simp] theorem updSensor_flt (s : State) (n : Nat) (f : Sensor → Sensor) : (updSensor n f s).flt = s.flt := rfl
@[simp] theorem updSensor_host (s : State) (n : Nat) (f : Sensor → Sensor) : (updSensor n f s).host = s.host := rfl
@[simp] theorem updSensor_lnk (s : State) (n : Nat) (f : Sensor → Sensor) : (updSensor n f s).lnk = s.lnk := rfl
@[simp] theorem updSensor_sched (s : State) (n : Nat) (f : Sensor → Sensor) : (updSensor n f s).sched = s.sched := rfl
@[simp] theorem updSensor_kv (s : State) (n : Nat) (f : Sensor → Sensor) : (updSensor n f s).kv = s.kv := rfl
@[simp] theorem updSensor_sec (s : State) (n : Nat) (f : Sensor → Sensor) : (updSensor n f s).sec = s.sec := rfl
@[simp] theorem updSensor_banks (s : State) (n : Nat) (f : Sensor → Sensor) : (updSensor n f s).banks = s.banks := rfl
@[simp] theorem updSensor_wgt (s : State) (n : Nat) (f : Sensor → Sensor) : (updSensor n f s).wgt = s.wgt := rfl
@[simp] theorem updSensor_arrs (s : State) (n : Nat) (f : Sensor → Sensor) : (updSensor n f s).arrs = s.arrs := rfl
@[simp] theorem updSensor_hoists (s : State) (n : Nat) (f : Sensor → Sensor) : (updSensor n f s).hoists = s.hoists := rfl
@[simp] theorem updSensor_pnts (s : State) (n : Nat) (f : Sensor → Sensor) : (updSensor n f s).pnts = s.pnts := rfl
@[simp] theorem updSensor_vecs (s : State) (n : Nat) (f : Sensor → Sensor) : (updSensor n f s).vecs = s.vecs := rfl
@[simp] theorem updSensor_mnt (s : State) (n : Nat) (f : Sensor → Sensor) : (updSensor n f s).mnt = s.mnt := rfl
@[simp] theorem updSensor_mtr (s : State) (n : Nat) (f : Sensor → Sensor) : (updSensor n f s).mtr = s.mtr := rfl
@[simp] theorem updSensor_sram (s : State) (n : Nat) (f : Sensor → Sensor) : (updSensor n f s).sram = s.sram := rfl
@[simp] theorem updSensor_answer (s : State) (n : Nat) (f : Sensor → Sensor) : (updSensor n f s).answer = s.answer := rfl
@[simp] theorem updSensor_fresh (s : State) (n : Nat) (f : Sensor → Sensor) : (updSensor n f s).fresh = s.fresh := rfl
@[simp] theorem updSensor_pending (s : State) (n : Nat) (f : Sensor → Sensor) : (updSensor n f s).pending = s.pending := rfl

@[simp] theorem updPort_regs (s : State) (n : Nat) (f : PortState → PortState) : (updPort n f s).regs = s.regs := rfl
@[simp] theorem updPort_ltime (s : State) (n : Nat) (f : PortState → PortState) : (updPort n f s).ltime = s.ltime := rfl
@[simp] theorem updPort_pins (s : State) (n : Nat) (f : PortState → PortState) : (updPort n f s).pins = s.pins := rfl
@[simp] theorem updPort_cfg (s : State) (n : Nat) (f : PortState → PortState) : (updPort n f s).cfg = s.cfg := rfl
@[simp] theorem updPort_ens (s : State) (n : Nat) (f : PortState → PortState) : (updPort n f s).ens = s.ens := rfl
@[simp] theorem updPort_sync (s : State) (n : Nat) (f : PortState → PortState) : (updPort n f s).sync = s.sync := rfl
@[simp] theorem updPort_flt (s : State) (n : Nat) (f : PortState → PortState) : (updPort n f s).flt = s.flt := rfl
@[simp] theorem updPort_host (s : State) (n : Nat) (f : PortState → PortState) : (updPort n f s).host = s.host := rfl
@[simp] theorem updPort_sched (s : State) (n : Nat) (f : PortState → PortState) : (updPort n f s).sched = s.sched := rfl
@[simp] theorem updPort_kv (s : State) (n : Nat) (f : PortState → PortState) : (updPort n f s).kv = s.kv := rfl
@[simp] theorem updPort_sec (s : State) (n : Nat) (f : PortState → PortState) : (updPort n f s).sec = s.sec := rfl
@[simp] theorem updPort_banks (s : State) (n : Nat) (f : PortState → PortState) : (updPort n f s).banks = s.banks := rfl
@[simp] theorem updPort_wgt (s : State) (n : Nat) (f : PortState → PortState) : (updPort n f s).wgt = s.wgt := rfl
@[simp] theorem updPort_arrs (s : State) (n : Nat) (f : PortState → PortState) : (updPort n f s).arrs = s.arrs := rfl
@[simp] theorem updPort_hoists (s : State) (n : Nat) (f : PortState → PortState) : (updPort n f s).hoists = s.hoists := rfl
@[simp] theorem updPort_pnts (s : State) (n : Nat) (f : PortState → PortState) : (updPort n f s).pnts = s.pnts := rfl
@[simp] theorem updPort_vecs (s : State) (n : Nat) (f : PortState → PortState) : (updPort n f s).vecs = s.vecs := rfl
@[simp] theorem updPort_mnt (s : State) (n : Nat) (f : PortState → PortState) : (updPort n f s).mnt = s.mnt := rfl
@[simp] theorem updPort_pwr (s : State) (n : Nat) (f : PortState → PortState) : (updPort n f s).pwr = s.pwr := rfl
@[simp] theorem updPort_mtr (s : State) (n : Nat) (f : PortState → PortState) : (updPort n f s).mtr = s.mtr := rfl
@[simp] theorem updPort_sram (s : State) (n : Nat) (f : PortState → PortState) : (updPort n f s).sram = s.sram := rfl
@[simp] theorem updPort_answer (s : State) (n : Nat) (f : PortState → PortState) : (updPort n f s).answer = s.answer := rfl
@[simp] theorem updPort_fresh (s : State) (n : Nat) (f : PortState → PortState) : (updPort n f s).fresh = s.fresh := rfl
@[simp] theorem updPort_pending (s : State) (n : Nat) (f : PortState → PortState) : (updPort n f s).pending = s.pending := rfl

@[simp] theorem setPortState_ltime (s : State) (n v : Nat) : (setPortState n v s).ltime = s.ltime := rfl
@[simp] theorem setPortState_pins (s : State) (n v : Nat) : (setPortState n v s).pins = s.pins := rfl
@[simp] theorem setPortState_cfg (s : State) (n v : Nat) : (setPortState n v s).cfg = s.cfg := rfl
@[simp] theorem setPortState_ens (s : State) (n v : Nat) : (setPortState n v s).ens = s.ens := rfl
@[simp] theorem setPortState_sync (s : State) (n v : Nat) : (setPortState n v s).sync = s.sync := rfl
@[simp] theorem setPortState_flt (s : State) (n v : Nat) : (setPortState n v s).flt = s.flt := rfl
@[simp] theorem setPortState_host (s : State) (n v : Nat) : (setPortState n v s).host = s.host := rfl
@[simp] theorem setPortState_lnk (s : State) (n v : Nat) : (setPortState n v s).lnk = s.lnk := rfl
@[simp] theorem setPortState_sched (s : State) (n v : Nat) : (setPortState n v s).sched = s.sched := rfl
@[simp] theorem setPortState_kv (s : State) (n v : Nat) : (setPortState n v s).kv = s.kv := rfl
@[simp] theorem setPortState_sec (s : State) (n v : Nat) : (setPortState n v s).sec = s.sec := rfl
@[simp] theorem setPortState_banks (s : State) (n v : Nat) : (setPortState n v s).banks = s.banks := rfl
@[simp] theorem setPortState_wgt (s : State) (n v : Nat) : (setPortState n v s).wgt = s.wgt := rfl
@[simp] theorem setPortState_arrs (s : State) (n v : Nat) : (setPortState n v s).arrs = s.arrs := rfl
@[simp] theorem setPortState_hoists (s : State) (n v : Nat) : (setPortState n v s).hoists = s.hoists := rfl
@[simp] theorem setPortState_pnts (s : State) (n v : Nat) : (setPortState n v s).pnts = s.pnts := rfl
@[simp] theorem setPortState_vecs (s : State) (n v : Nat) : (setPortState n v s).vecs = s.vecs := rfl
@[simp] theorem setPortState_mnt (s : State) (n v : Nat) : (setPortState n v s).mnt = s.mnt := rfl
@[simp] theorem setPortState_pwr (s : State) (n v : Nat) : (setPortState n v s).pwr = s.pwr := rfl
@[simp] theorem setPortState_mtr (s : State) (n v : Nat) : (setPortState n v s).mtr = s.mtr := rfl
@[simp] theorem setPortState_sram (s : State) (n v : Nat) : (setPortState n v s).sram = s.sram := rfl
@[simp] theorem setPortState_answer (s : State) (n v : Nat) : (setPortState n v s).answer = s.answer := rfl
@[simp] theorem setPortState_fresh (s : State) (n v : Nat) : (setPortState n v s).fresh = s.fresh := rfl
@[simp] theorem setPortState_pending (s : State) (n v : Nat) : (setPortState n v s).pending = s.pending := rfl

@[simp] theorem updCfg_regs (s : State) (f : CfgState → CfgState) : (updCfg f s).regs = s.regs := rfl
@[simp] theorem updCfg_ltime (s : State) (f : CfgState → CfgState) : (updCfg f s).ltime = s.ltime := rfl
@[simp] theorem updCfg_pins (s : State) (f : CfgState → CfgState) : (updCfg f s).pins = s.pins := rfl
@[simp] theorem updCfg_ens (s : State) (f : CfgState → CfgState) : (updCfg f s).ens = s.ens := rfl
@[simp] theorem updCfg_sync (s : State) (f : CfgState → CfgState) : (updCfg f s).sync = s.sync := rfl
@[simp] theorem updCfg_flt (s : State) (f : CfgState → CfgState) : (updCfg f s).flt = s.flt := rfl
@[simp] theorem updCfg_host (s : State) (f : CfgState → CfgState) : (updCfg f s).host = s.host := rfl
@[simp] theorem updCfg_lnk (s : State) (f : CfgState → CfgState) : (updCfg f s).lnk = s.lnk := rfl
@[simp] theorem updCfg_sched (s : State) (f : CfgState → CfgState) : (updCfg f s).sched = s.sched := rfl
@[simp] theorem updCfg_kv (s : State) (f : CfgState → CfgState) : (updCfg f s).kv = s.kv := rfl
@[simp] theorem updCfg_sec (s : State) (f : CfgState → CfgState) : (updCfg f s).sec = s.sec := rfl
@[simp] theorem updCfg_banks (s : State) (f : CfgState → CfgState) : (updCfg f s).banks = s.banks := rfl
@[simp] theorem updCfg_wgt (s : State) (f : CfgState → CfgState) : (updCfg f s).wgt = s.wgt := rfl
@[simp] theorem updCfg_arrs (s : State) (f : CfgState → CfgState) : (updCfg f s).arrs = s.arrs := rfl
@[simp] theorem updCfg_hoists (s : State) (f : CfgState → CfgState) : (updCfg f s).hoists = s.hoists := rfl
@[simp] theorem updCfg_pnts (s : State) (f : CfgState → CfgState) : (updCfg f s).pnts = s.pnts := rfl
@[simp] theorem updCfg_vecs (s : State) (f : CfgState → CfgState) : (updCfg f s).vecs = s.vecs := rfl
@[simp] theorem updCfg_mnt (s : State) (f : CfgState → CfgState) : (updCfg f s).mnt = s.mnt := rfl
@[simp] theorem updCfg_pwr (s : State) (f : CfgState → CfgState) : (updCfg f s).pwr = s.pwr := rfl
@[simp] theorem updCfg_mtr (s : State) (f : CfgState → CfgState) : (updCfg f s).mtr = s.mtr := rfl
@[simp] theorem updCfg_sram (s : State) (f : CfgState → CfgState) : (updCfg f s).sram = s.sram := rfl
@[simp] theorem updCfg_answer (s : State) (f : CfgState → CfgState) : (updCfg f s).answer = s.answer := rfl
@[simp] theorem updCfg_fresh (s : State) (f : CfgState → CfgState) : (updCfg f s).fresh = s.fresh := rfl
@[simp] theorem updCfg_pending (s : State) (f : CfgState → CfgState) : (updCfg f s).pending = s.pending := rfl

@[simp] theorem updEns_regs (s : State) (f : EnsState → EnsState) : (updEns f s).regs = s.regs := rfl
@[simp] theorem updEns_ltime (s : State) (f : EnsState → EnsState) : (updEns f s).ltime = s.ltime := rfl
@[simp] theorem updEns_pins (s : State) (f : EnsState → EnsState) : (updEns f s).pins = s.pins := rfl
@[simp] theorem updEns_cfg (s : State) (f : EnsState → EnsState) : (updEns f s).cfg = s.cfg := rfl
@[simp] theorem updEns_sync (s : State) (f : EnsState → EnsState) : (updEns f s).sync = s.sync := rfl
@[simp] theorem updEns_flt (s : State) (f : EnsState → EnsState) : (updEns f s).flt = s.flt := rfl
@[simp] theorem updEns_host (s : State) (f : EnsState → EnsState) : (updEns f s).host = s.host := rfl
@[simp] theorem updEns_lnk (s : State) (f : EnsState → EnsState) : (updEns f s).lnk = s.lnk := rfl
@[simp] theorem updEns_sched (s : State) (f : EnsState → EnsState) : (updEns f s).sched = s.sched := rfl
@[simp] theorem updEns_kv (s : State) (f : EnsState → EnsState) : (updEns f s).kv = s.kv := rfl
@[simp] theorem updEns_sec (s : State) (f : EnsState → EnsState) : (updEns f s).sec = s.sec := rfl
@[simp] theorem updEns_banks (s : State) (f : EnsState → EnsState) : (updEns f s).banks = s.banks := rfl
@[simp] theorem updEns_wgt (s : State) (f : EnsState → EnsState) : (updEns f s).wgt = s.wgt := rfl
@[simp] theorem updEns_arrs (s : State) (f : EnsState → EnsState) : (updEns f s).arrs = s.arrs := rfl
@[simp] theorem updEns_hoists (s : State) (f : EnsState → EnsState) : (updEns f s).hoists = s.hoists := rfl
@[simp] theorem updEns_pnts (s : State) (f : EnsState → EnsState) : (updEns f s).pnts = s.pnts := rfl
@[simp] theorem updEns_vecs (s : State) (f : EnsState → EnsState) : (updEns f s).vecs = s.vecs := rfl
@[simp] theorem updEns_mnt (s : State) (f : EnsState → EnsState) : (updEns f s).mnt = s.mnt := rfl
@[simp] theorem updEns_pwr (s : State) (f : EnsState → EnsState) : (updEns f s).pwr = s.pwr := rfl
@[simp] theorem updEns_mtr (s : State) (f : EnsState → EnsState) : (updEns f s).mtr = s.mtr := rfl
@[simp] theorem updEns_sram (s : State) (f : EnsState → EnsState) : (updEns f s).sram = s.sram := rfl
@[simp] theorem updEns_answer (s : State) (f : EnsState → EnsState) : (updEns f s).answer = s.answer := rfl
@[simp] theorem updEns_fresh (s : State) (f : EnsState → EnsState) : (updEns f s).fresh = s.fresh := rfl
@[simp] theorem updEns_pending (s : State) (f : EnsState → EnsState) : (updEns f s).pending = s.pending := rfl

@[simp] theorem setEnsState_ltime (s : State) (n : Nat) : (setEnsState n s).ltime = s.ltime := rfl
@[simp] theorem setEnsState_pins (s : State) (n : Nat) : (setEnsState n s).pins = s.pins := rfl
@[simp] theorem setEnsState_cfg (s : State) (n : Nat) : (setEnsState n s).cfg = s.cfg := rfl
@[simp] theorem setEnsState_ens (s : State) (n : Nat) : (setEnsState n s).ens = s.ens := rfl
@[simp] theorem setEnsState_sync (s : State) (n : Nat) : (setEnsState n s).sync = s.sync := rfl
@[simp] theorem setEnsState_flt (s : State) (n : Nat) : (setEnsState n s).flt = s.flt := rfl
@[simp] theorem setEnsState_host (s : State) (n : Nat) : (setEnsState n s).host = s.host := rfl
@[simp] theorem setEnsState_lnk (s : State) (n : Nat) : (setEnsState n s).lnk = s.lnk := rfl
@[simp] theorem setEnsState_sched (s : State) (n : Nat) : (setEnsState n s).sched = s.sched := rfl
@[simp] theorem setEnsState_kv (s : State) (n : Nat) : (setEnsState n s).kv = s.kv := rfl
@[simp] theorem setEnsState_sec (s : State) (n : Nat) : (setEnsState n s).sec = s.sec := rfl
@[simp] theorem setEnsState_banks (s : State) (n : Nat) : (setEnsState n s).banks = s.banks := rfl
@[simp] theorem setEnsState_wgt (s : State) (n : Nat) : (setEnsState n s).wgt = s.wgt := rfl
@[simp] theorem setEnsState_arrs (s : State) (n : Nat) : (setEnsState n s).arrs = s.arrs := rfl
@[simp] theorem setEnsState_hoists (s : State) (n : Nat) : (setEnsState n s).hoists = s.hoists := rfl
@[simp] theorem setEnsState_pnts (s : State) (n : Nat) : (setEnsState n s).pnts = s.pnts := rfl
@[simp] theorem setEnsState_vecs (s : State) (n : Nat) : (setEnsState n s).vecs = s.vecs := rfl
@[simp] theorem setEnsState_mnt (s : State) (n : Nat) : (setEnsState n s).mnt = s.mnt := rfl
@[simp] theorem setEnsState_pwr (s : State) (n : Nat) : (setEnsState n s).pwr = s.pwr := rfl
@[simp] theorem setEnsState_mtr (s : State) (n : Nat) : (setEnsState n s).mtr = s.mtr := rfl
@[simp] theorem setEnsState_sram (s : State) (n : Nat) : (setEnsState n s).sram = s.sram := rfl
@[simp] theorem setEnsState_answer (s : State) (n : Nat) : (setEnsState n s).answer = s.answer := rfl
@[simp] theorem setEnsState_fresh (s : State) (n : Nat) : (setEnsState n s).fresh = s.fresh := rfl
@[simp] theorem setEnsState_pending (s : State) (n : Nat) : (setEnsState n s).pending = s.pending := rfl

@[simp] theorem updVec_regs (s : State) (v : Nat) (f : VecRec → VecRec) : (updVec v f s).regs = s.regs := rfl
@[simp] theorem updVec_ltime (s : State) (v : Nat) (f : VecRec → VecRec) : (updVec v f s).ltime = s.ltime := rfl
@[simp] theorem updVec_pins (s : State) (v : Nat) (f : VecRec → VecRec) : (updVec v f s).pins = s.pins := rfl
@[simp] theorem updVec_cfg (s : State) (v : Nat) (f : VecRec → VecRec) : (updVec v f s).cfg = s.cfg := rfl
@[simp] theorem updVec_ens (s : State) (v : Nat) (f : VecRec → VecRec) : (updVec v f s).ens = s.ens := rfl
@[simp] theorem updVec_sync (s : State) (v : Nat) (f : VecRec → VecRec) : (updVec v f s).sync = s.sync := rfl
@[simp] theorem updVec_flt (s : State) (v : Nat) (f : VecRec → VecRec) : (updVec v f s).flt = s.flt := rfl
@[simp] theorem updVec_host (s : State) (v : Nat) (f : VecRec → VecRec) : (updVec v f s).host = s.host := rfl
@[simp] theorem updVec_lnk (s : State) (v : Nat) (f : VecRec → VecRec) : (updVec v f s).lnk = s.lnk := rfl
@[simp] theorem updVec_sched (s : State) (v : Nat) (f : VecRec → VecRec) : (updVec v f s).sched = s.sched := rfl
@[simp] theorem updVec_kv (s : State) (v : Nat) (f : VecRec → VecRec) : (updVec v f s).kv = s.kv := rfl
@[simp] theorem updVec_sec (s : State) (v : Nat) (f : VecRec → VecRec) : (updVec v f s).sec = s.sec := rfl
@[simp] theorem updVec_banks (s : State) (v : Nat) (f : VecRec → VecRec) : (updVec v f s).banks = s.banks := rfl
@[simp] theorem updVec_wgt (s : State) (v : Nat) (f : VecRec → VecRec) : (updVec v f s).wgt = s.wgt := rfl
@[simp] theorem updVec_arrs (s : State) (v : Nat) (f : VecRec → VecRec) : (updVec v f s).arrs = s.arrs := rfl
@[simp] theorem updVec_hoists (s : State) (v : Nat) (f : VecRec → VecRec) : (updVec v f s).hoists = s.hoists := rfl
@[simp] theorem updVec_pnts (s : State) (v : Nat) (f : VecRec → VecRec) : (updVec v f s).pnts = s.pnts := rfl
@[simp] theorem updVec_mnt (s : State) (v : Nat) (f : VecRec → VecRec) : (updVec v f s).mnt = s.mnt := rfl
@[simp] theorem updVec_pwr (s : State) (v : Nat) (f : VecRec → VecRec) : (updVec v f s).pwr = s.pwr := rfl
@[simp] theorem updVec_mtr (s : State) (v : Nat) (f : VecRec → VecRec) : (updVec v f s).mtr = s.mtr := rfl
@[simp] theorem updVec_sram (s : State) (v : Nat) (f : VecRec → VecRec) : (updVec v f s).sram = s.sram := rfl
@[simp] theorem updVec_answer (s : State) (v : Nat) (f : VecRec → VecRec) : (updVec v f s).answer = s.answer := rfl
@[simp] theorem updVec_fresh (s : State) (v : Nat) (f : VecRec → VecRec) : (updVec v f s).fresh = s.fresh := rfl
@[simp] theorem updVec_pending (s : State) (v : Nat) (f : VecRec → VecRec) : (updVec v f s).pending = s.pending := rfl

@[simp] theorem setBank_regs (s : State) (t : Nat) (b : Bool) (r : Bank) : (setBank t b r s).regs = s.regs := rfl
@[simp] theorem setBank_ltime (s : State) (t : Nat) (b : Bool) (r : Bank) : (setBank t b r s).ltime = s.ltime := rfl
@[simp] theorem setBank_pins (s : State) (t : Nat) (b : Bool) (r : Bank) : (setBank t b r s).pins = s.pins := rfl
@[simp] theorem setBank_cfg (s : State) (t : Nat) (b : Bool) (r : Bank) : (setBank t b r s).cfg = s.cfg := rfl
@[simp] theorem setBank_ens (s : State) (t : Nat) (b : Bool) (r : Bank) : (setBank t b r s).ens = s.ens := rfl
@[simp] theorem setBank_sync (s : State) (t : Nat) (b : Bool) (r : Bank) : (setBank t b r s).sync = s.sync := rfl
@[simp] theorem setBank_flt (s : State) (t : Nat) (b : Bool) (r : Bank) : (setBank t b r s).flt = s.flt := rfl
@[simp] theorem setBank_host (s : State) (t : Nat) (b : Bool) (r : Bank) : (setBank t b r s).host = s.host := rfl
@[simp] theorem setBank_lnk (s : State) (t : Nat) (b : Bool) (r : Bank) : (setBank t b r s).lnk = s.lnk := rfl
@[simp] theorem setBank_sched (s : State) (t : Nat) (b : Bool) (r : Bank) : (setBank t b r s).sched = s.sched := rfl
@[simp] theorem setBank_kv (s : State) (t : Nat) (b : Bool) (r : Bank) : (setBank t b r s).kv = s.kv := rfl
@[simp] theorem setBank_sec (s : State) (t : Nat) (b : Bool) (r : Bank) : (setBank t b r s).sec = s.sec := rfl
@[simp] theorem setBank_wgt (s : State) (t : Nat) (b : Bool) (r : Bank) : (setBank t b r s).wgt = s.wgt := rfl
@[simp] theorem setBank_arrs (s : State) (t : Nat) (b : Bool) (r : Bank) : (setBank t b r s).arrs = s.arrs := rfl
@[simp] theorem setBank_hoists (s : State) (t : Nat) (b : Bool) (r : Bank) : (setBank t b r s).hoists = s.hoists := rfl
@[simp] theorem setBank_pnts (s : State) (t : Nat) (b : Bool) (r : Bank) : (setBank t b r s).pnts = s.pnts := rfl
@[simp] theorem setBank_vecs (s : State) (t : Nat) (b : Bool) (r : Bank) : (setBank t b r s).vecs = s.vecs := rfl
@[simp] theorem setBank_mnt (s : State) (t : Nat) (b : Bool) (r : Bank) : (setBank t b r s).mnt = s.mnt := rfl
@[simp] theorem setBank_pwr (s : State) (t : Nat) (b : Bool) (r : Bank) : (setBank t b r s).pwr = s.pwr := rfl
@[simp] theorem setBank_mtr (s : State) (t : Nat) (b : Bool) (r : Bank) : (setBank t b r s).mtr = s.mtr := rfl
@[simp] theorem setBank_sram (s : State) (t : Nat) (b : Bool) (r : Bank) : (setBank t b r s).sram = s.sram := rfl
@[simp] theorem setBank_answer (s : State) (t : Nat) (b : Bool) (r : Bank) : (setBank t b r s).answer = s.answer := rfl
@[simp] theorem setBank_fresh (s : State) (t : Nat) (b : Bool) (r : Bank) : (setBank t b r s).fresh = s.fresh := rfl
@[simp] theorem setBank_pending (s : State) (t : Nat) (b : Bool) (r : Bank) : (setBank t b r s).pending = s.pending := rfl

@[simp] theorem setCrossing_regs (s : State) (b : Nat) (c : Crossing) : (setCrossing b c s).regs = s.regs := rfl
@[simp] theorem setCrossing_ltime (s : State) (b : Nat) (c : Crossing) : (setCrossing b c s).ltime = s.ltime := rfl
@[simp] theorem setCrossing_pins (s : State) (b : Nat) (c : Crossing) : (setCrossing b c s).pins = s.pins := rfl
@[simp] theorem setCrossing_ens (s : State) (b : Nat) (c : Crossing) : (setCrossing b c s).ens = s.ens := rfl
@[simp] theorem setCrossing_sync (s : State) (b : Nat) (c : Crossing) : (setCrossing b c s).sync = s.sync := rfl
@[simp] theorem setCrossing_flt (s : State) (b : Nat) (c : Crossing) : (setCrossing b c s).flt = s.flt := rfl
@[simp] theorem setCrossing_host (s : State) (b : Nat) (c : Crossing) : (setCrossing b c s).host = s.host := rfl
@[simp] theorem setCrossing_lnk (s : State) (b : Nat) (c : Crossing) : (setCrossing b c s).lnk = s.lnk := rfl
@[simp] theorem setCrossing_sched (s : State) (b : Nat) (c : Crossing) : (setCrossing b c s).sched = s.sched := rfl
@[simp] theorem setCrossing_kv (s : State) (b : Nat) (c : Crossing) : (setCrossing b c s).kv = s.kv := rfl
@[simp] theorem setCrossing_sec (s : State) (b : Nat) (c : Crossing) : (setCrossing b c s).sec = s.sec := rfl
@[simp] theorem setCrossing_banks (s : State) (b : Nat) (c : Crossing) : (setCrossing b c s).banks = s.banks := rfl
@[simp] theorem setCrossing_wgt (s : State) (b : Nat) (c : Crossing) : (setCrossing b c s).wgt = s.wgt := rfl
@[simp] theorem setCrossing_arrs (s : State) (b : Nat) (c : Crossing) : (setCrossing b c s).arrs = s.arrs := rfl
@[simp] theorem setCrossing_hoists (s : State) (b : Nat) (c : Crossing) : (setCrossing b c s).hoists = s.hoists := rfl
@[simp] theorem setCrossing_pnts (s : State) (b : Nat) (c : Crossing) : (setCrossing b c s).pnts = s.pnts := rfl
@[simp] theorem setCrossing_vecs (s : State) (b : Nat) (c : Crossing) : (setCrossing b c s).vecs = s.vecs := rfl
@[simp] theorem setCrossing_mnt (s : State) (b : Nat) (c : Crossing) : (setCrossing b c s).mnt = s.mnt := rfl
@[simp] theorem setCrossing_pwr (s : State) (b : Nat) (c : Crossing) : (setCrossing b c s).pwr = s.pwr := rfl
@[simp] theorem setCrossing_mtr (s : State) (b : Nat) (c : Crossing) : (setCrossing b c s).mtr = s.mtr := rfl
@[simp] theorem setCrossing_sram (s : State) (b : Nat) (c : Crossing) : (setCrossing b c s).sram = s.sram := rfl
@[simp] theorem setCrossing_answer (s : State) (b : Nat) (c : Crossing) : (setCrossing b c s).answer = s.answer := rfl
@[simp] theorem setCrossing_fresh (s : State) (b : Nat) (c : Crossing) : (setCrossing b c s).fresh = s.fresh := rfl
@[simp] theorem setCrossing_pending (s : State) (b : Nat) (c : Crossing) : (setCrossing b c s).pending = s.pending := rfl

@[simp] theorem setTenant_regs (s : State) (t : Nat) (x : Tenant) : (setTenant t x s).regs = s.regs := rfl
@[simp] theorem setTenant_ltime (s : State) (t : Nat) (x : Tenant) : (setTenant t x s).ltime = s.ltime := rfl
@[simp] theorem setTenant_pins (s : State) (t : Nat) (x : Tenant) : (setTenant t x s).pins = s.pins := rfl
@[simp] theorem setTenant_cfg (s : State) (t : Nat) (x : Tenant) : (setTenant t x s).cfg = s.cfg := rfl
@[simp] theorem setTenant_ens (s : State) (t : Nat) (x : Tenant) : (setTenant t x s).ens = s.ens := rfl
@[simp] theorem setTenant_sync (s : State) (t : Nat) (x : Tenant) : (setTenant t x s).sync = s.sync := rfl
@[simp] theorem setTenant_flt (s : State) (t : Nat) (x : Tenant) : (setTenant t x s).flt = s.flt := rfl
@[simp] theorem setTenant_host (s : State) (t : Nat) (x : Tenant) : (setTenant t x s).host = s.host := rfl
@[simp] theorem setTenant_lnk (s : State) (t : Nat) (x : Tenant) : (setTenant t x s).lnk = s.lnk := rfl
@[simp] theorem setTenant_kv (s : State) (t : Nat) (x : Tenant) : (setTenant t x s).kv = s.kv := rfl
@[simp] theorem setTenant_sec (s : State) (t : Nat) (x : Tenant) : (setTenant t x s).sec = s.sec := rfl
@[simp] theorem setTenant_banks (s : State) (t : Nat) (x : Tenant) : (setTenant t x s).banks = s.banks := rfl
@[simp] theorem setTenant_wgt (s : State) (t : Nat) (x : Tenant) : (setTenant t x s).wgt = s.wgt := rfl
@[simp] theorem setTenant_arrs (s : State) (t : Nat) (x : Tenant) : (setTenant t x s).arrs = s.arrs := rfl
@[simp] theorem setTenant_hoists (s : State) (t : Nat) (x : Tenant) : (setTenant t x s).hoists = s.hoists := rfl
@[simp] theorem setTenant_pnts (s : State) (t : Nat) (x : Tenant) : (setTenant t x s).pnts = s.pnts := rfl
@[simp] theorem setTenant_vecs (s : State) (t : Nat) (x : Tenant) : (setTenant t x s).vecs = s.vecs := rfl
@[simp] theorem setTenant_mnt (s : State) (t : Nat) (x : Tenant) : (setTenant t x s).mnt = s.mnt := rfl
@[simp] theorem setTenant_pwr (s : State) (t : Nat) (x : Tenant) : (setTenant t x s).pwr = s.pwr := rfl
@[simp] theorem setTenant_mtr (s : State) (t : Nat) (x : Tenant) : (setTenant t x s).mtr = s.mtr := rfl
@[simp] theorem setTenant_sram (s : State) (t : Nat) (x : Tenant) : (setTenant t x s).sram = s.sram := rfl
@[simp] theorem setTenant_answer (s : State) (t : Nat) (x : Tenant) : (setTenant t x s).answer = s.answer := rfl
@[simp] theorem setTenant_fresh (s : State) (t : Nat) (x : Tenant) : (setTenant t x s).fresh = s.fresh := rfl
@[simp] theorem setTenant_pending (s : State) (t : Nat) (x : Tenant) : (setTenant t x s).pending = s.pending := rfl

@[simp] theorem setRecipe_regs (s : State) (l : Nat) (r : RecipeRec) : (setRecipe l r s).regs = s.regs := rfl
@[simp] theorem setRecipe_ltime (s : State) (l : Nat) (r : RecipeRec) : (setRecipe l r s).ltime = s.ltime := rfl
@[simp] theorem setRecipe_pins (s : State) (l : Nat) (r : RecipeRec) : (setRecipe l r s).pins = s.pins := rfl
@[simp] theorem setRecipe_cfg (s : State) (l : Nat) (r : RecipeRec) : (setRecipe l r s).cfg = s.cfg := rfl
@[simp] theorem setRecipe_ens (s : State) (l : Nat) (r : RecipeRec) : (setRecipe l r s).ens = s.ens := rfl
@[simp] theorem setRecipe_sync (s : State) (l : Nat) (r : RecipeRec) : (setRecipe l r s).sync = s.sync := rfl
@[simp] theorem setRecipe_flt (s : State) (l : Nat) (r : RecipeRec) : (setRecipe l r s).flt = s.flt := rfl
@[simp] theorem setRecipe_host (s : State) (l : Nat) (r : RecipeRec) : (setRecipe l r s).host = s.host := rfl
@[simp] theorem setRecipe_lnk (s : State) (l : Nat) (r : RecipeRec) : (setRecipe l r s).lnk = s.lnk := rfl
@[simp] theorem setRecipe_kv (s : State) (l : Nat) (r : RecipeRec) : (setRecipe l r s).kv = s.kv := rfl
@[simp] theorem setRecipe_sec (s : State) (l : Nat) (r : RecipeRec) : (setRecipe l r s).sec = s.sec := rfl
@[simp] theorem setRecipe_banks (s : State) (l : Nat) (r : RecipeRec) : (setRecipe l r s).banks = s.banks := rfl
@[simp] theorem setRecipe_wgt (s : State) (l : Nat) (r : RecipeRec) : (setRecipe l r s).wgt = s.wgt := rfl
@[simp] theorem setRecipe_arrs (s : State) (l : Nat) (r : RecipeRec) : (setRecipe l r s).arrs = s.arrs := rfl
@[simp] theorem setRecipe_hoists (s : State) (l : Nat) (r : RecipeRec) : (setRecipe l r s).hoists = s.hoists := rfl
@[simp] theorem setRecipe_pnts (s : State) (l : Nat) (r : RecipeRec) : (setRecipe l r s).pnts = s.pnts := rfl
@[simp] theorem setRecipe_vecs (s : State) (l : Nat) (r : RecipeRec) : (setRecipe l r s).vecs = s.vecs := rfl
@[simp] theorem setRecipe_mnt (s : State) (l : Nat) (r : RecipeRec) : (setRecipe l r s).mnt = s.mnt := rfl
@[simp] theorem setRecipe_pwr (s : State) (l : Nat) (r : RecipeRec) : (setRecipe l r s).pwr = s.pwr := rfl
@[simp] theorem setRecipe_mtr (s : State) (l : Nat) (r : RecipeRec) : (setRecipe l r s).mtr = s.mtr := rfl
@[simp] theorem setRecipe_sram (s : State) (l : Nat) (r : RecipeRec) : (setRecipe l r s).sram = s.sram := rfl
@[simp] theorem setRecipe_answer (s : State) (l : Nat) (r : RecipeRec) : (setRecipe l r s).answer = s.answer := rfl
@[simp] theorem setRecipe_fresh (s : State) (l : Nat) (r : RecipeRec) : (setRecipe l r s).fresh = s.fresh := rfl
@[simp] theorem setRecipe_pending (s : State) (l : Nat) (r : RecipeRec) : (setRecipe l r s).pending = s.pending := rfl

@[simp] theorem updReq_regs (s : State) (r : Nat) (f : ReqPort → ReqPort) : (updReq r f s).regs = s.regs := rfl
@[simp] theorem updReq_ltime (s : State) (r : Nat) (f : ReqPort → ReqPort) : (updReq r f s).ltime = s.ltime := rfl
@[simp] theorem updReq_pins (s : State) (r : Nat) (f : ReqPort → ReqPort) : (updReq r f s).pins = s.pins := rfl
@[simp] theorem updReq_ens (s : State) (r : Nat) (f : ReqPort → ReqPort) : (updReq r f s).ens = s.ens := rfl
@[simp] theorem updReq_sync (s : State) (r : Nat) (f : ReqPort → ReqPort) : (updReq r f s).sync = s.sync := rfl
@[simp] theorem updReq_flt (s : State) (r : Nat) (f : ReqPort → ReqPort) : (updReq r f s).flt = s.flt := rfl
@[simp] theorem updReq_host (s : State) (r : Nat) (f : ReqPort → ReqPort) : (updReq r f s).host = s.host := rfl
@[simp] theorem updReq_lnk (s : State) (r : Nat) (f : ReqPort → ReqPort) : (updReq r f s).lnk = s.lnk := rfl
@[simp] theorem updReq_sched (s : State) (r : Nat) (f : ReqPort → ReqPort) : (updReq r f s).sched = s.sched := rfl
@[simp] theorem updReq_kv (s : State) (r : Nat) (f : ReqPort → ReqPort) : (updReq r f s).kv = s.kv := rfl
@[simp] theorem updReq_sec (s : State) (r : Nat) (f : ReqPort → ReqPort) : (updReq r f s).sec = s.sec := rfl
@[simp] theorem updReq_banks (s : State) (r : Nat) (f : ReqPort → ReqPort) : (updReq r f s).banks = s.banks := rfl
@[simp] theorem updReq_wgt (s : State) (r : Nat) (f : ReqPort → ReqPort) : (updReq r f s).wgt = s.wgt := rfl
@[simp] theorem updReq_arrs (s : State) (r : Nat) (f : ReqPort → ReqPort) : (updReq r f s).arrs = s.arrs := rfl
@[simp] theorem updReq_hoists (s : State) (r : Nat) (f : ReqPort → ReqPort) : (updReq r f s).hoists = s.hoists := rfl
@[simp] theorem updReq_pnts (s : State) (r : Nat) (f : ReqPort → ReqPort) : (updReq r f s).pnts = s.pnts := rfl
@[simp] theorem updReq_vecs (s : State) (r : Nat) (f : ReqPort → ReqPort) : (updReq r f s).vecs = s.vecs := rfl
@[simp] theorem updReq_mnt (s : State) (r : Nat) (f : ReqPort → ReqPort) : (updReq r f s).mnt = s.mnt := rfl
@[simp] theorem updReq_pwr (s : State) (r : Nat) (f : ReqPort → ReqPort) : (updReq r f s).pwr = s.pwr := rfl
@[simp] theorem updReq_mtr (s : State) (r : Nat) (f : ReqPort → ReqPort) : (updReq r f s).mtr = s.mtr := rfl
@[simp] theorem updReq_sram (s : State) (r : Nat) (f : ReqPort → ReqPort) : (updReq r f s).sram = s.sram := rfl
@[simp] theorem updReq_answer (s : State) (r : Nat) (f : ReqPort → ReqPort) : (updReq r f s).answer = s.answer := rfl
@[simp] theorem updReq_fresh (s : State) (r : Nat) (f : ReqPort → ReqPort) : (updReq r f s).fresh = s.fresh := rfl
@[simp] theorem updReq_pending (s : State) (r : Nat) (f : ReqPort → ReqPort) : (updReq r f s).pending = s.pending := rfl

/-! ### Fields -/

/-- A field that was written reads what was written, cut to its width. -/
@[simp] theorem getF_setF_same (s : State) (f : Field) (v : Nat) : getF f (setF f v s) = v % 2 ^ f.w := by
  simp [getF, setF]

/-- A write of one field leaves every other. -/
theorem getF_setF_other (s : State) (f g : Field) (v : Nat) (h : f.key ≠ g.key) : getF f (setF g v s) = getF f s := by
  simp [getF, setF, SMap.get_set_other _ _ _ _ _ h]

theorem getF_addF_same (s : State) (f : Field) (n : Nat) : getF f (addF f n s) = (getF f s + n) % 2 ^ f.w := by
  simp [addF]

theorem getF_addF_other (s : State) (f g : Field) (n : Nat) (h : f.key ≠ g.key) : getF f (addF g n s) = getF f s := by
  simp [addF, getF_setF_other _ _ _ _ h]

/-- A field reads the same in states whose register files are the same. -/
theorem getF_of_regs {s t : State} (h : t.regs = s.regs) (f : Field) : getF f t = getF f s := by simp [getF, h]

@[simp] theorem getF_sramPut (s : State) (g : Field) (a : Nat) (l : List Byte) : getF g (sramPut a l s) = getF g s := rfl
@[simp] theorem getF_sramPutWord (s : State) (g : Field) (a : Nat) (v : Word64) : getF g (sramPutWord a v s) = getF g s := rfl
@[simp] theorem getF_hostPut (s : State) (g : Field) (a : Nat) (l : List Byte) : getF g (hostPut a l s) = getF g s := rfl
@[simp] theorem getF_lifeAdd (s : State) (g : Field) (o k n : Nat) : getF g (lifeAdd o k n s) = getF g s := rfl
@[simp] theorem getF_meterAdd (s : State) (g : Field) (a k n : Nat) : getF g (meterAdd a k n s) = getF g s := rfl
@[simp] theorem getF_sendOn (s : State) (g : Field) (p : Nat) (m : Msg) : getF g (sendOn p m s) = getF g s := rfl
@[simp] theorem getF_setSeq (s : State) (g : Field) (q : Nat) (r : SeqRec) : getF g (setSeq q r s) = getF g s := rfl
@[simp] theorem getF_updStep (s : State) (g : Field) (n : Nat) (f : StepRec → StepRec) : getF g (updStep n f s) = getF g s := rfl
@[simp] theorem getF_setSq (s : State) (g : Field) (q : Nat) (l : List (Word64 × Bool)) : getF g (setSq q l s) = getF g s := rfl
@[simp] theorem getF_setArr (s : State) (g : Field) (a : Nat) (r : ArrRec) : getF g (setArr a r s) = getF g s := rfl
@[simp] theorem getF_updArr (s : State) (g : Field) (a : Nat) (f : ArrRec → ArrRec) : getF g (updArr a f s) = getF g s := rfl
@[simp] theorem getF_setPnt (s : State) (g : Field) (a : Nat) (r : PntRec) : getF g (setPnt a r s) = getF g s := rfl
@[simp] theorem getF_updPnt (s : State) (g : Field) (a : Nat) (f : PntRec → PntRec) : getF g (updPnt a f s) = getF g s := rfl
@[simp] theorem getF_setSlot (s : State) (g : Field) (n : Nat) (r : EpSlot) : getF g (setSlot n r s) = getF g s := rfl
@[simp] theorem getF_setHoist (s : State) (g : Field) (n : Nat) (r : HoistRec) : getF g (setHoist n r s) = getF g s := rfl
@[simp] theorem getF_updInst (s : State) (g : Field) (f : InstRec → InstRec) : getF g (updInst f s) = getF g s := rfl
@[simp] theorem getF_updSec (s : State) (g : Field) (f : SecState → SecState) : getF g (updSec f s) = getF g s := rfl
@[simp] theorem getF_updMtr (s : State) (g : Field) (f : MeterState → MeterState) : getF g (updMtr f s) = getF g s := rfl
@[simp] theorem getF_updPwr (s : State) (g : Field) (f : PwrState → PwrState) : getF g (updPwr f s) = getF g s := rfl
@[simp] theorem getF_updSensor (s : State) (g : Field) (n : Nat) (f : Sensor → Sensor) : getF g (updSensor n f s) = getF g s := rfl
@[simp] theorem getF_updPort (s : State) (g : Field) (n : Nat) (f : PortState → PortState) : getF g (updPort n f s) = getF g s := rfl
@[simp] theorem getF_updCfg (s : State) (g : Field) (f : CfgState → CfgState) : getF g (updCfg f s) = getF g s := rfl
@[simp] theorem getF_updEns (s : State) (g : Field) (f : EnsState → EnsState) : getF g (updEns f s) = getF g s := rfl
@[simp] theorem getF_updVec (s : State) (g : Field) (v : Nat) (f : VecRec → VecRec) : getF g (updVec v f s) = getF g s := rfl
@[simp] theorem getF_setBank (s : State) (g : Field) (t : Nat) (b : Bool) (r : Bank) : getF g (setBank t b r s) = getF g s := rfl
@[simp] theorem getF_setCrossing (s : State) (g : Field) (b : Nat) (c : Crossing) : getF g (setCrossing b c s) = getF g s := rfl
@[simp] theorem getF_setTenant (s : State) (g : Field) (t : Nat) (x : Tenant) : getF g (setTenant t x s) = getF g s := rfl
@[simp] theorem getF_setRecipe (s : State) (g : Field) (l : Nat) (r : RecipeRec) : getF g (setRecipe l r s) = getF g s := rfl
@[simp] theorem getF_updReq (s : State) (g : Field) (r : Nat) (f : ReqPort → ReqPort) : getF g (updReq r f s) = getF g s := rfl

/-! ### SRAM -/

@[simp] theorem sramByte_setF (s : State) (k : Nat) (f : Field) (v : Nat) : sramByte k (setF f v s) = sramByte k s := rfl
@[simp] theorem sramByte_addF (s : State) (k : Nat) (f : Field) (v : Nat) : sramByte k (addF f v s) = sramByte k s := rfl
@[simp] theorem sramByte_satF (s : State) (k : Nat) (f : Field) (v : Nat) : sramByte k (satF f v s) = sramByte k s := rfl
@[simp] theorem sramByte_hostPut (s : State) (k : Nat) (a : Nat) (l : List Byte) : sramByte k (hostPut a l s) = sramByte k s := rfl
@[simp] theorem sramByte_lifeAdd (s : State) (k : Nat) (o w n : Nat) : sramByte k (lifeAdd o w n s) = sramByte k s := rfl
@[simp] theorem sramByte_meterAdd (s : State) (k : Nat) (a w n : Nat) : sramByte k (meterAdd a w n s) = sramByte k s := rfl
@[simp] theorem sramByte_sendOn (s : State) (k : Nat) (p : Nat) (m : Msg) : sramByte k (sendOn p m s) = sramByte k s := rfl
@[simp] theorem sramByte_setSeq (s : State) (k : Nat) (q : Nat) (r : SeqRec) : sramByte k (setSeq q r s) = sramByte k s := rfl
@[simp] theorem sramByte_updStep (s : State) (k : Nat) (n : Nat) (f : StepRec → StepRec) : sramByte k (updStep n f s) = sramByte k s := rfl
@[simp] theorem sramByte_setSq (s : State) (k : Nat) (q : Nat) (l : List (Word64 × Bool)) : sramByte k (setSq q l s) = sramByte k s := rfl
@[simp] theorem sramByte_setArr (s : State) (k : Nat) (a : Nat) (r : ArrRec) : sramByte k (setArr a r s) = sramByte k s := rfl
@[simp] theorem sramByte_updArr (s : State) (k : Nat) (a : Nat) (f : ArrRec → ArrRec) : sramByte k (updArr a f s) = sramByte k s := rfl
@[simp] theorem sramByte_setArrState (s : State) (k : Nat) (a n : Nat) : sramByte k (setArrState a n s) = sramByte k s := rfl
@[simp] theorem sramByte_setPnt (s : State) (k : Nat) (a : Nat) (r : PntRec) : sramByte k (setPnt a r s) = sramByte k s := rfl
@[simp] theorem sramByte_updPnt (s : State) (k : Nat) (a : Nat) (f : PntRec → PntRec) : sramByte k (updPnt a f s) = sramByte k s := rfl
@[simp] theorem sramByte_setSlot (s : State) (k : Nat) (n : Nat) (r : EpSlot) : sramByte k (setSlot n r s) = sramByte k s := rfl
@[simp] theorem sramByte_setHoist (s : State) (k : Nat) (n : Nat) (r : HoistRec) : sramByte k (setHoist n r s) = sramByte k s := rfl
@[simp] theorem sramByte_updInst (s : State) (k : Nat) (f : InstRec → InstRec) : sramByte k (updInst f s) = sramByte k s := rfl
@[simp] theorem sramByte_updSec (s : State) (k : Nat) (f : SecState → SecState) : sramByte k (updSec f s) = sramByte k s := rfl
@[simp] theorem sramByte_updMtr (s : State) (k : Nat) (f : MeterState → MeterState) : sramByte k (updMtr f s) = sramByte k s := rfl
@[simp] theorem sramByte_updPwr (s : State) (k : Nat) (f : PwrState → PwrState) : sramByte k (updPwr f s) = sramByte k s := rfl
@[simp] theorem sramByte_updSensor (s : State) (k : Nat) (n : Nat) (f : Sensor → Sensor) : sramByte k (updSensor n f s) = sramByte k s := rfl
@[simp] theorem sramByte_updPort (s : State) (k : Nat) (n : Nat) (f : PortState → PortState) : sramByte k (updPort n f s) = sramByte k s := rfl
@[simp] theorem sramByte_setPortState (s : State) (k : Nat) (n v : Nat) : sramByte k (setPortState n v s) = sramByte k s := rfl
@[simp] theorem sramByte_updCfg (s : State) (k : Nat) (f : CfgState → CfgState) : sramByte k (updCfg f s) = sramByte k s := rfl
@[simp] theorem sramByte_updEns (s : State) (k : Nat) (f : EnsState → EnsState) : sramByte k (updEns f s) = sramByte k s := rfl
@[simp] theorem sramByte_setEnsState (s : State) (k : Nat) (n : Nat) : sramByte k (setEnsState n s) = sramByte k s := rfl
@[simp] theorem sramByte_updVec (s : State) (k : Nat) (v : Nat) (f : VecRec → VecRec) : sramByte k (updVec v f s) = sramByte k s := rfl
@[simp] theorem sramByte_setBank (s : State) (k : Nat) (t : Nat) (b : Bool) (r : Bank) : sramByte k (setBank t b r s) = sramByte k s := rfl
@[simp] theorem sramByte_setCrossing (s : State) (k : Nat) (b : Nat) (c : Crossing) : sramByte k (setCrossing b c s) = sramByte k s := rfl
@[simp] theorem sramByte_setTenant (s : State) (k : Nat) (t : Nat) (x : Tenant) : sramByte k (setTenant t x s) = sramByte k s := rfl
@[simp] theorem sramByte_setRecipe (s : State) (k : Nat) (l : Nat) (r : RecipeRec) : sramByte k (setRecipe l r s) = sramByte k s := rfl
@[simp] theorem sramByte_updReq (s : State) (k : Nat) (r : Nat) (f : ReqPort → ReqPort) : sramByte k (updReq r f s) = sramByte k s := rfl

/-- A write of bytes leaves every byte outside them. -/
theorem sramByte_sramPut_outside (s : State) (a k : Nat) (l : List Byte) (h : k < a ∨ a + l.length ≤ k) :
    sramByte k (sramPut a l s) = sramByte k s := by
  rcases h with h | h
  · exact putBytes_below a l s.sram k h
  · exact putBytes_beyond a l s.sram k h

/-- Bytes that were written read back. -/
theorem sramTake_sramPut (s : State) (a : Nat) (l : List Byte) : sramTake l.length a (sramPut a l s) = l :=
  takeBytes_putBytes a l s.sram

/-! ### Tables -/

@[simp] theorem arrOf_setArr (s : State) (a : Nat) (r : ArrRec) : arrOf a (setArr a r s) = r := by simp [arrOf, setArr]
theorem arrOf_setArr_other (s : State) (a b : Nat) (r : ArrRec) (h : b ≠ a) : arrOf b (setArr a r s) = arrOf b s := by
  simp [arrOf, setArr, SMap.get_set_other _ _ _ _ _ h]
@[simp] theorem arrOf_updArr (s : State) (a : Nat) (f : ArrRec → ArrRec) : arrOf a (updArr a f s) = f (arrOf a s) := by
  simp [updArr]
@[simp] theorem arrOf_setF (s : State) (a : Nat) (f : Field) (v : Nat) : arrOf a (setF f v s) = arrOf a s := rfl
@[simp] theorem pntOf_setPnt (s : State) (a : Nat) (r : PntRec) : pntOf a (setPnt a r s) = r := by simp [pntOf, setPnt]
theorem pntOf_setPnt_other (s : State) (a b : Nat) (r : PntRec) (h : b ≠ a) : pntOf b (setPnt a r s) = pntOf b s := by
  simp [pntOf, setPnt, SMap.get_set_other _ _ _ _ _ h]
@[simp] theorem pntOf_updPnt (s : State) (a : Nat) (f : PntRec → PntRec) : pntOf a (updPnt a f s) = f (pntOf a s) := by
  simp [updPnt]
@[simp] theorem pntOf_setF (s : State) (a : Nat) (f : Field) (v : Nat) : pntOf a (setF f v s) = pntOf a s := rfl
@[simp] theorem sqOf_setSq (s : State) (q : Nat) (l : List (Word64 × Bool)) : sqOf q (setSq q l s) = l := by simp [sqOf, setSq]
theorem sqOf_setSq_other (s : State) (q p : Nat) (l : List (Word64 × Bool)) (h : p ≠ q) : sqOf p (setSq q l s) = sqOf p s := by
  simp [sqOf, setSq, SMap.get_set_other _ _ _ _ _ h]
@[simp] theorem sqOf_setF (s : State) (q : Nat) (f : Field) (v : Nat) : sqOf q (setF f v s) = sqOf q s := rfl
@[simp] theorem seqOf_setSeq (s : State) (q : Nat) (r : SeqRec) : seqOf q (setSeq q r s) = r := by simp [seqOf, setSeq]
theorem seqOf_setSeq_other (s : State) (q p : Nat) (r : SeqRec) (h : p ≠ q) : seqOf p (setSeq q r s) = seqOf p s := by
  simp [seqOf, setSeq, SMap.get_set_other _ _ _ _ _ h]
@[simp] theorem seqOf_setF (s : State) (q : Nat) (f : Field) (v : Nat) : seqOf q (setF f v s) = seqOf q s := rfl
@[simp] theorem slotRec_setSlot (s : State) (n : Nat) (r : EpSlot) : slotRec n (setSlot n r s) = r := by simp [slotRec, setSlot]

end Sys2Proof.Machine
end

