-- ==== Sys2Proof/Laws/Reports.lean ====
section
/-! SUPPORT. What reporting can touch: each operation that reports a fault, sends an event or a message, or signals a
vector changes a state only in the parts that `Safety.reports` names. -/

namespace Sys2Proof.Safety
open Sys2Proof Sys2Proof.Machine

/-! ### Fields -/

theorem sameFields_refl (l : List Field) (s : State) : sameFields l s s := fun _ _ => rfl

theorem sameFields_trans {l m : List Field} {s t u : State} (h : sameFields l s t) (g : sameFields m t u) :
    sameFields (l ++ m) s u := fun f hf => by
  simp only [List.map_append, List.mem_append, not_or] at hf
  rw [g f hf.2, h f hf.1]

theorem sameFields_mono {l m : List Field} {s t : State} (h : sameFields l s t) (hl : ∀ f ∈ l, f ∈ m) : sameFields m s t :=
  fun f hf => h f (fun hm => hf (by
    obtain ⟨g, hg, e⟩ := List.mem_map.1 hm
    exact List.mem_map.2 ⟨g, hl g hg, e⟩))

theorem sameFields_of_regs {l : List Field} {s t : State} (h : t.regs = s.regs) : sameFields l s t := fun f _ => getF_of_regs h f

theorem sameFields_setF (s : State) (f : Field) (v : Nat) (l : List Field) (hf : f ∈ l) : sameFields l s (setF f v s) :=
  fun g hg => getF_setF_other s g f v (fun e => hg (List.mem_map.2 ⟨f, hf, e.symm⟩))

theorem sameFields_addF (s : State) (f : Field) (n : Nat) (l : List Field) (hf : f ∈ l) : sameFields l s (addF f n s) :=
  sameFields_setF s f _ l hf

theorem sameFields_satF (s : State) (f : Field) (n : Nat) (l : List Field) (hf : f ∈ l) : sameFields l s (satF f n s) :=
  sameFields_setF s f _ l hf

/-- Two steps that touch the same fields. -/
theorem sameFields_then {l : List Field} {s t u : State} (h : sameFields l s t) (g : sameFields l t u) : sameFields l s u :=
  fun f hf => (g f hf).trans (h f hf)

/-! ### Reporting -/

theorem reports_refl (s : State) : reports s s := ⟨sameFields_refl _ s, rfl⟩

theorem reports_trans {s t u : State} (h : reports s t) (g : reports t u) : reports s u :=
  ⟨sameFields_then h.1 g.1, g.2.trans h.2⟩

theorem reports_setF (s : State) (f : Field) (v : Nat) (hf : f ∈ reportFields) : reports s (setF f v s) :=
  ⟨sameFields_setF s f v _ hf, rfl⟩

theorem reports_of_regs {z s t : State} (h : reports z s) (e : t.regs = s.regs) (q : quiet t = quiet s) : reports z t :=
  reports_trans h ⟨sameFields_of_regs e, q⟩

variable {z s : State}

theorem reports_field (f : Field) (v : Nat) (hf : f ∈ reportFields) (h : reports z s) : reports z (setF f v s) :=
  reports_trans h (reports_setF s f v hf)
theorem reports_lifeAdd (o k n : Nat) (h : reports z s) : reports z (lifeAdd o k n s) := reports_of_regs h rfl rfl
theorem reports_sendOn (p : Nat) (m : Msg) (h : reports z s) : reports z (sendOn p m s) := reports_of_regs h rfl rfl
theorem reports_sendTo (pod typ layer step len : Nat) (b : MsgBody) (h : reports z s) :
    reports z (sendTo pod typ layer step len b s) := reports_of_regs h rfl rfl
theorem reports_hostPut (a : Nat) (l : List Byte) (h : reports z s) : reports z (hostPut a l s) := reports_of_regs h rfl rfl

theorem reports_sendAll (typ step len : Nat) (b : MsgBody) (h : reports z s) : reports z (sendAll typ step len b s) := by
  unfold sendAll
  generalize instancePods _ s = l
  induction l generalizing s with
  | nil => exact h
  | cons a l ih => exact ih (reports_sendTo _ _ _ _ _ _ h)

theorem reports_signal (v : Nat) (h : reports z s) : reports z (signal v s) := by
  unfold signal
  split <;> exact reports_of_regs h rfl rfl

theorem reports_ringAdded (n : Nat) (h : reports z s) : reports z (ringAdded n s) := by
  unfold ringAdded
  dsimp only
  split
  · refine reports_signal _ ?_
    exact reports_of_regs h rfl rfl
  · exact reports_of_regs h rfl rfl

theorem reports_writeEvent (e : Event) (h : reports z s) : reports z (writeEvent e s) := by
  unfold writeEvent ringAdvance
  refine reports_ringAdded _ (reports_hostPut _ _ ?_)
  exact reports_field _ _ (by simp [reportFields]) (reports_hostPut _ _ h)

theorem reports_drainEvents (l : List Event) (h : reports z s) : reports z (drainEvents l s) := by
  induction l generalizing s with
  | nil => exact reports_of_regs h rfl rfl
  | cons e l ih =>
    unfold drainEvents
    split
    · exact ih (reports_writeEvent _ h)
    · exact reports_of_regs h rfl rfl

theorem reports_drainQueue (h : reports z s) : reports z (drainQueue s) := by
  unfold drainQueue
  split
  · refine reports_drainEvents _ (reports_writeEvent _ ?_)
    exact reports_of_regs h rfl rfl
  · exact reports_drainEvents _ h

theorem reports_queueEvent (e : Event) (h : reports z s) : reports z (queueEvent e s) := by
  unfold queueEvent
  split
  · refine reports_field _ _ (by simp [reportFields]) ?_
    exact reports_of_regs h rfl rfl
  · refine reports_drainQueue ?_
    exact reports_of_regs h rfl rfl

theorem reports_emit (code ten seq step detail : Nat) (h : reports z s) : reports z (emit code ten seq step detail s) := by
  unfold emit
  dsimp only
  split
  · exact reports_sendTo _ _ _ _ _ _ h
  · exact reports_queueEvent _ h

theorem reports_emitPart (code detail : Nat) (h : reports z s) : reports z (emitPart code detail s) := reports_emit _ _ _ _ _ h

theorem reports_queueFault (code src detail : Nat) (h : reports z s) : reports z (queueFault code src detail s) := by
  unfold queueFault
  split
  · exact reports_of_regs h rfl rfl
  · split
    · dsimp only
      split
      · refine reports_signal _ ?_
        exact reports_of_regs h rfl rfl
      · exact reports_of_regs h rfl rfl
    · exact reports_lifeAdd _ _ _ (reports_field _ _ (by simp [reportFields]) (reports_field _ _ (by simp [reportFields]) h))

theorem reports_report (code src detail : Nat) (h : reports z s) : reports z (report code src detail s) := by
  have h1 := reports_queueFault code src detail h
  have h2 : ∀ o, reports z (lifeAdd o 8 1 (queueFault code src detail s)) := fun o => reports_lifeAdd _ _ _ h1
  unfold report
  dsimp only
  split <;> split
  · exact h2 _
  · rename_i o _ _
    refine reports_emitPart _ _ ?_
    exact reports_of_regs (h2 o) rfl rfl
  · exact h1
  · refine reports_emitPart _ _ ?_
    exact reports_of_regs h1 rfl rfl

/-! ### What stands -/

theorem reports_ltime {s t : State} (h : reports s t) : t.ltime = s.ltime :=
  show (quiet t).ltime = (quiet s).ltime from congrArg State.ltime h.2
theorem reports_pins {s t : State} (h : reports s t) : t.pins = s.pins :=
  show (quiet t).pins = (quiet s).pins from congrArg State.pins h.2
theorem reports_cfg {s t : State} (h : reports s t) : t.cfg = s.cfg :=
  show (quiet t).cfg = (quiet s).cfg from congrArg State.cfg h.2
theorem reports_ens {s t : State} (h : reports s t) : t.ens = s.ens :=
  show (quiet t).ens = (quiet s).ens from congrArg State.ens h.2
theorem reports_sync {s t : State} (h : reports s t) : t.sync = s.sync :=
  show (quiet t).sync = (quiet s).sync from congrArg State.sync h.2
theorem reports_sched {s t : State} (h : reports s t) : t.sched = s.sched :=
  show (quiet t).sched = (quiet s).sched from congrArg State.sched h.2
theorem reports_kv {s t : State} (h : reports s t) : t.kv = s.kv :=
  show (quiet t).kv = (quiet s).kv from congrArg State.kv h.2
theorem reports_sec {s t : State} (h : reports s t) : t.sec = s.sec :=
  show (quiet t).sec = (quiet s).sec from congrArg State.sec h.2
theorem reports_banks {s t : State} (h : reports s t) : t.banks = s.banks :=
  show (quiet t).banks = (quiet s).banks from congrArg State.banks h.2
theorem reports_wgt {s t : State} (h : reports s t) : t.wgt = s.wgt :=
  show (quiet t).wgt = (quiet s).wgt from congrArg State.wgt h.2
theorem reports_arrs {s t : State} (h : reports s t) : t.arrs = s.arrs :=
  show (quiet t).arrs = (quiet s).arrs from congrArg State.arrs h.2
theorem reports_hoists {s t : State} (h : reports s t) : t.hoists = s.hoists :=
  show (quiet t).hoists = (quiet s).hoists from congrArg State.hoists h.2
theorem reports_pnts {s t : State} (h : reports s t) : t.pnts = s.pnts :=
  show (quiet t).pnts = (quiet s).pnts from congrArg State.pnts h.2
theorem reports_vecs {s t : State} (h : reports s t) : t.vecs = s.vecs :=
  show (quiet t).vecs = (quiet s).vecs from congrArg State.vecs h.2
theorem reports_mnt {s t : State} (h : reports s t) : t.mnt = s.mnt :=
  show (quiet t).mnt = (quiet s).mnt from congrArg State.mnt h.2
theorem reports_pwr {s t : State} (h : reports s t) : t.pwr = s.pwr :=
  show (quiet t).pwr = (quiet s).pwr from congrArg State.pwr h.2
theorem reports_mtr {s t : State} (h : reports s t) : t.mtr = s.mtr :=
  show (quiet t).mtr = (quiet s).mtr from congrArg State.mtr h.2
theorem reports_sram {s t : State} (h : reports s t) : t.sram = s.sram :=
  show (quiet t).sram = (quiet s).sram from congrArg State.sram h.2
theorem reports_answer {s t : State} (h : reports s t) : t.answer = s.answer :=
  show (quiet t).answer = (quiet s).answer from congrArg State.answer h.2
theorem reports_fresh {s t : State} (h : reports s t) : t.fresh = s.fresh :=
  show (quiet t).fresh = (quiet s).fresh from congrArg State.fresh h.2
theorem reports_pending {s t : State} (h : reports s t) : t.pending = s.pending :=
  show (quiet t).pending = (quiet s).pending from congrArg State.pending h.2

end Sys2Proof.Safety
end

