-- ==== Sys2Proof/Tests/Slice0.lean ====
section
/-! SUPPORT. Tests: an ill-formed term for each check of WellFormed, witnesses of the statements' hypotheses, and small
tests from the spec's rules and worked examples, each about one command. -/

namespace Sys2Proof.Tests
set_option Elab.async false
open Sys2Proof Sys2Proof.Machine Sys2Proof.Safety

/-! ### Helpers -/

/-- Reset with some fields written. -/
def withFields (l : List (Field × Nat)) (s : State) : State := l.foldl (fun s e => setF e.1 e.2 s) s

/-- A layer of one pennant's block. -/
def layer0 : LayerSection :=
  ⟨0, 0, 0, 0, 0, 1, 0, 1, 32, 1, 0, 1, 0, 0, [], [], [], [⟨true, 2, 0, 0, 0, 0, false, []⟩], ⟨1, 1, 1, 1, false⟩, []⟩

/-- A base image with the head and output roles, three positions, and array 0 mapped for epoch slot 0. -/
def image0 : EnsImage :=
  { formOk := true, kind := 0, keysel := 0, seq := 5, baseDigest := [], instanceId := [], partPos := 0, nparts := 3,
    length := 1000, nsect := 1, bytes := [1], signature := [2], trust := some [],
    part := some ⟨3, false, false, false, [0]⟩
    sram := some ⟨[mib * 96, mib * 128, mib * 64, mib * 64, mib * 28, mib * 4], 24, 0, 786432⟩
    placements := [⟨0, [7], [(0, ⟨1, 0, 0, 0⟩), (1, ⟨2, 0, 0, 0⟩)]⟩]
    pennants := some [⟨0, true, 0, 0, [0], 0, 0, [], 0, [], []⟩]
    layers := [layer0]
    sched := some ⟨16, [], []⟩
    route := some ⟨0, 4, 4, 1, 0, 1000, [⟨0, 0xFF, 0, 15, [], [1], 0⟩, ⟨1, 0, 0, 15, [], [1], 1⟩, ⟨2, 1, 0, 15, [], [1], 2⟩]⟩
    power := some ⟨[], []⟩
    seeds := [] }

/-- Head and output part of an instance of three: image active, firmware and cores running, pod address 0. -/
def head : State :=
  let s := withFields [(Reg.Glb.state, 7), (Reg.Glb.ensState, 3), (Reg.Glb.imageActive, 1), (Reg.Glb.mgmtFwRun, 1),
    (Reg.Glb.ctrlRun, 1), (Reg.Glb.seqRun, 15), (Reg.Cxl.link.at cxlBase, 2), (Reg.Ring.en.at (ringBase 8), 1),
    (Reg.Glb.clkHclk, 1), (Reg.Glb.clkCxl, 1), (Reg.Glb.clkAclk, 255)] State.reset
  { s with
    cfg := { s.cfg with imageEver := true }
    ens := { s.ens with image := some image0 }
    lnk := { s.lnk with podKnown := true }
    sched := { s.sched with tenantCount := 16 } }

/-- The same part in another role. -/
def follower : State :=
  { head with ens := { head.ens with image := some { image0 with part := some ⟨0, false, false, false, [0]⟩, partPos := 1 } } }

/-- What a command answers, where it answers a next state. -/
def after (c : Instr) (s : State) : State := match exec c s with | .next t => t | _ => s

/-- A command answers a next state. -/
def goesOn (c : Instr) (s : State) : Bool := match exec c s with | .next _ => true | _ => false

/-- A command ends in a fault. -/
def faults (c : Instr) (s : State) : Bool := match exec c s with | .fault _ => true | _ => false

/-- A time later. -/
def at_ (n : Nat) (s : State) : State := { s with ltime := BitVec.ofNat 64 n }

/-! ### Witnesses: halyard, flag words, streamer queues, BAR2, clocks -/

/-- A flag word of the reset layout: the first of partition 4. -/
def flag0 : Nat := partBase 4 State.reset

def waiter0 : WaitSpec := ⟨0, flag0, .ge, 5, true, false, .quantiser, 0, none⟩

theorem witness_SramAccess :
    (56 ≤ 56 ∧ 0 < 256 ∧ 256 % 256 + 256 ≤ 256 ∧ 256 < Config.sramEnd ∧ isPoisoned 256 State.reset = false) ∧
    (Config.sramEnd - 1) % 256 + [(1 : Byte)].length ≤ 256 ∧ Config.sramEnd - 1 < Config.sramEnd ∧
    0 < sramOpLen (.read 256) ∧ Config.sramEnd % 256 + sramOpLen (.read 256) ≤ 256 ∧ Config.sramEnd ≤ Config.sramEnd ∧
    isSet Reg.Glb.halValid State.reset = false ∧ isSet Reg.Glb.halValid (withFields [(Reg.Glb.halValid, 1)] State.reset) = true := by
  decide +kernel

theorem witness_FlagWords :
    isFlagWord flag0 State.reset = true ∧ isFlagWord 0 State.reset = false ∧
    (let s := sramPutWord flag0 (BitVec.ofNat 64 (5 * 2 ^ 32 + 3)) State.reset
     creditAvail (sramWord flag0 s) + 2 ≤ creditCap (sramWord flag0 s) ∧ 3 ≤ creditAvail (sramWord flag0 s) ∧
     creditCap (sramWord flag0 s) < creditAvail (sramWord flag0 s) + 3 ∧ creditAvail (sramWord flag0 s) < 4) ∧
    isSet (Reg.Flg.fltValid.at flgBase) State.reset = false ∧
    isSet (Reg.Flg.fltValid.at flgBase) (withFields [(Reg.Flg.fltValid.at flgBase, 1)] State.reset) = true := by
  decide +kernel

theorem witness_Waits :
    waiter0.port ≤ 56 ∧ isFlagWord waiter0.addr State.reset = true ∧
    condHolds .ge 5 (sramWord flag0 State.reset) = false ∧ condHolds .ge 0 (sramWord flag0 State.reset) = true := by
  decide +kernel

theorem witness_StreamerQueues :
    (let on := withFields [(Reg.Sq.en.at (sqBase 63), 1)] State.reset
     isSet (Reg.Sq.en.at (sqBase 63)) on = true ∧ (sqOf 63 on).length + (List.replicate 32 (1 : Word64)).length ≤ 32 ∧
     32 < (sqOf 63 (setSq 63 [(1, true)] on)).length + (List.replicate 32 (1 : Word64)).length) ∧
    isSet (Reg.Sq.en.at (sqBase 63)) State.reset = false ∧
    sqOf 63 (setSq 63 [(5, true), (6, false)] State.reset) = (5, true) :: [(6, false)] ∧
    sqOf 63 State.reset = [] ∧
    isSet (Reg.Sq.inpkt.at (sqBase 63)) (withFields [(Reg.Sq.inpkt.at (sqBase 63), 1)] State.reset) = true ∧
    (1 : Word64).toNat.testBit 62 = false ∧ (BitVec.ofNat 64 (2 ^ 62)).toNat.testBit 62 = true := by
  decide +kernel

theorem witness_StreamerLevels :
    sqOf 0 (setSq 0 [(5, true), (6, false)] State.reset) = [(5, true)] ++ ((6 : Word64), false) :: [] ∧
    ([((5 : Word64), true)].all (fun e => e.2) = true) ∧
    0 < (1 : BitVec 6).toNat ∧ min (1 : BitVec 6).toNat 32 ≤ sqReady (sqOf 0 (setSq 0 [(5, true)] State.reset)) ∧
    sqReady (sqOf 0 State.reset) < min (63 : BitVec 6).toNat 32 := by
  decide +kernel

theorem witness_Bar2Accesses :
    (0 < 64 ∧ 64 ≤ 64 ∧ bar2Ok 0 64 head = true ∧ bar2Ok 63 2 head = false) ∧ hostStalled head = false ∧
    hostStalled { head with cfg := { head.cfg with reqs := SMap.set dfltReq [] 0 ⟨[], [], List.replicate 16 ⟨true, 0x10000, 4, 0⟩⟩ } } = true := by
  decide +kernel

theorem witness_DeadlockDetector :
    (let s := at_ (47 * 20 * 1000000 * 60) { withFields [(Reg.Dlk.frozen.at dlkBase, 1)] State.reset with
        sync := { State.reset.sync with waiters := [⟨waiter0, true, 0⟩] } }
     isSet (Reg.Dlk.frozen.at dlkBase) s = true ∧ s.sched.steps = [] ∧
     deadlocked false [] { s with regs := [] } = true ∧ deadlocked true [] { s with regs := [] } = false) := by
  decide +kernel

theorem witness_ClocksAndCrossings :
    clockPresent 30 (setClock 30 true State.reset) = true ∧ plannedStop 30 (setClock 30 true State.reset) = true ∧
    clockPresent 8 head = true ∧ clockPresent 0 State.reset = false ∧ clockPresent 30 State.reset = false := by
  decide +kernel

/-! ### Witnesses: rings, commands, the link, prompts -/

/-- The head part with one entry on the command ring. -/
def commanded : State := withFields [(Reg.Ring.tail.at (ringBase 8), 1)] head

/-- A tenant of the table, with a secret and a sequence in a state. -/
def withTenant (ten seq : Nat) (st : SeqState) (s : State) : State :=
  { s with
    sec := { s.sec with secrets := [(ten, [1])] }
    sched := { s.sched with
      tenants := SMap.set dfltTenant s.sched.tenants ten ⟨true, 0, 1, 8, 8, true, [], none, []⟩
      seqs := SMap.set dfltSeq s.sched.seqs seq { dfltSeq 0 with state := st, ten := ten, len := 10, expiry := 100, epoch := 1 } } }

def cmd5 : CmdHead := ⟨false, 0xABCD, 5, 7⟩

theorem witness_RingsAndEvents :
    hostReach State.reset = false ∧ hostReach head = true ∧ hostStalled head = false ∧
    (let n8 := withFields [(Reg.Ring.log2.at (ringBase 8), 4), (Reg.Ring.head.at (ringBase 8), 2 ^ 32 - 1), (Reg.Ring.tail.at (ringBase 8), 3)] head
     cntDiff 15 (2 ^ 32 - 1) ≤ ringSize 8 n8 ∧ 0 < cntDiff 15 3 ∧ ringSize 8 n8 < cntDiff 16 (2 ^ 32 - 1)) ∧
    (let n10 := withFields [(Reg.Ring.head.at (ringBase 10), 2), (Reg.Ring.tail.at (ringBase 10), 5)] head
     0 < cntDiff 5 2 ∧ cntDiff 5 2 ≤ cntDiff (getF (Reg.Ring.tail.at (ringBase 10)) n10) 2 ∧ cntDiff 5 2 < cntDiff 6 2) ∧
    eventRoom head = false ∧
    (let r := withFields [(Reg.Ring.en.at (ringBase 10), 1), (Reg.Ring.wb.at (ringBase 10), 0x2000)] head
     let r := { r with host := { r.host with events := [⟨0x0402, 0, 1, 2, 3, 4, 5⟩] } }
     eventRoom r = true ∧ r.host.lost = 0 ∧ r.host.events = [⟨0x0402, 0, 1, 2, 3, 4, 5⟩] ∧
     getF (Reg.Ring.base.at (ringBase 10)) r + 32 ≤ getF (Reg.Ring.wb.at (ringBase 10)) r) ∧
    (let c := at_ 1000 { head with host := { head.host with unsignalled := [(10, (2, 0))] } }
     let p := SMap.get dfltPair c.host.unsignalled 10
     0 < p.1 ∧ p.2 + ticksUs (getF (Reg.Ring.coalTime.at (ringBase 10)) c) ≤ now c) := by
  decide +kernel

theorem witness_TenantAndSequenceCommands :
    canCommand commanded = true ∧ isHead commanded = true ∧ cmd5.ten.toNat < commanded.sched.tenantCount ∧
    (1 ∈ liveVersions 5 commanded ∨ (liveVersions 5 commanded).length < 2) ∧
    commanded.sched.tenantCount ≤ (CmdHead.mk false 1 16 0).ten.toNat ∧
    (canCommand { follower with regs := commanded.regs } = true ∧ isHead { follower with regs := commanded.regs } = false) ∧
    ([SeqState.prefill, .generate, .waiting, .paused].all fun st =>
      let s := withTenant 5 7 st commanded
      canCommand s && isHead s && hasSecret 5 s && (seqOf 7 s).ten == 5 && (seqOf 7 s).state == st && (seqOf 7 s).pausing == none &&
        (seqOf 7 s).inStep == none && !(seqOf 7 s).releasing && decide (now s < (seqOf 7 s).expiry)) = true ∧
    (let s := setSeq 7 { seqOf 7 (withTenant 5 7 .waiting commanded) with releasing := true } (withTenant 5 7 .waiting commanded)
     canCommand s = true ∧ (seqOf 7 s).releasing = true ∧ (seqOf 7 s).state = .waiting) := by
  decide +kernel

theorem witness_StagingAndFence :
    canCommand commanded = true ∧ 16 * 64 + 4096 ≤ partSize 2 commanded ∧ overlapsLive (16 * 64) 4096 commanded = false ∧
    commanded.host.openCmds = [] ∧
    (let s := { commanded with host := { commanded.host with openCmds := [(3, cmd5)] } }
     canCommand s = true ∧ s.host.openCmds ≠ []) ∧
    (let s := { withTenant 5 7 .waiting commanded with host := { commanded.host with staging := some (cmd5, 64, 3) } }
     s.host.staging = some (cmd5, 64, 3) ∧ [(1 : Byte), 2, 3].length = 3 ∧ hasSecret 5 s = true ∧ hasSecret 6 s = false) := by
  decide +kernel

theorem witness_LinkAndUio :
    getF (Reg.Cxl.link.at cxlBase) head = 2 ∧ getF (Reg.Cxl.link.at cxlBase) State.reset ≠ 2 ∧
    (let s := setUio (.mirror 5 9) (some 0) head
     (uioAttempts (.mirror 5 9) s).isSome = true ∧ uioAttempts (.mirror 5 9) s = some 0) := by
  decide +kernel

/-- The head part serving, with an entry on ring 3, an epoch installed and tenant 5 valid. -/
def prompted (st : SeqState) : State :=
  withTenant 5 7 st (withFields [(Reg.Ring.en.at (ringBase 3), 1), (Reg.Ring.tail.at (ringBase 3), 1), (Reg.Wgt.epoch.at wgtBase, 1)] head)

def prompt0 : PromptHeader := ⟨0, 0, 5, 7, 4, 2, 100, 0, 0, 0, 0⟩

theorem witness_PromptEntries :
    (let s := prompted .free
     isHead s = true ∧ ringOn 3 s = true ∧ 0 < ringUsed 3 s ∧ (tenantOf 5 s).valid = true ∧ (seqOf 7 s).state = .free ∧
     liveCount 5 s + 1 ≤ (tenantOf 5 s).maxSeq ∧ (2 : BitVec 32).toNat ≤ Config.maxPositions ∧ getF (Reg.Wgt.epoch.at wgtBase) s ≠ 0 ∧
     promptRule prompt0 s = none ∧ promptRule { prompt0 with ntok := 0 } s = some 5 ∧ promptRule { prompt0 with op := 9 } s = some 10) ∧
    (let s := prompted .waiting
     (seqOf 7 s).state = .waiting ∧ (seqOf 7 s).ten = 5 ∧ (seqOf 7 s).len + 2 ≤ Config.maxPositions ∧
     promptRule { prompt0 with op := 1 } s = none ∧ promptRule prompt0 s = some 2) := by
  decide +kernel

/-! ### Witnesses: steps, the arbiter, arrays, converters, calibration -/

/-- The head part with tenant 5's sequence 7 generating, epoch 1 installed and rings 9 and 10 open. -/
def serving : State :=
  let s := withTenant 5 7 .generate (withFields [(Reg.Ring.en.at (ringBase 9), 1), (Reg.Ring.log2.at (ringBase 9), 20)] head)
  { s with wgt := { s.wgt with slots := [(0, { dfltSlot 0 with state := .installed, num := 1 })] } }

def compose0 : Composition :=
  { lost := false, wave := 0, gens := [⟨7, 0, [(0, 0)]⟩], pres := [], costs := [], recipes := [], loads := [⟨3, true, 5, 0, 1, 0, 64⟩]
    uses := [], frees := [], fetches := [], flags := [(flag0, 9)] }

theorem witness_StepComposition :
    (let s := serving
     let c := compose0
     let s1 := setF (Reg.Sch.ratioCur.at schBase) (shareNext (leastAllowance c.costs s) s) s
     let chunk := min (getF (Reg.Sch.chunk.at schBase) s) (getF (Reg.Sch.limMaxPos.at schBase) s)
     let x0 : Shape := ⟨c.gens.map (fun g => (g, min g.drawn (nextDepth (seqOf g.seq.toNat s1) s1))), []⟩
     let x := reduce c.costs s1 (32 + c.gens.length + c.pres.length) x0
     mayCompose c.lost c.wave s = true ∧ screenPrompts chunk c.pres s1 = (c.pres, s1) ∧
     admissible c x (shareNext (leastAllowance c.costs s) s) s1 = true ∧ fits c.costs x s1 = true ∧ stepOf s.sched.nextStep s = none ∧
     x.gens.map (fun g => g.1.seq) = [7] ∧ installedHere (seqOf 7 s).epoch s = true ∧ isFlagWord flag0 s = true ∧
     (SMap.get dfltBank s.banks 7).state = .empty) := by
  decide +kernel

def entry7 : PlanEntry := ⟨5, 7, true, 10, 0, 0, 1, none, dfltSampling, true, []⟩

def plan9 : Plan :=
  { step := 9, wave := 0, entries := [entry7], recipes := [], preds := [], loads := [], uses := [], frees := [], fetches := [], flags := [] }

def rec9 : StepRec := ⟨plan9, 0, true, true, [], [], none, 0, false, false, [0, 1, 2], none, 128, 0, 1⟩

/-- A part with step 9 in flight, ready everywhere. -/
def inFlight (s : State) : State := { s with sched := { s.sched with steps := [rec9] } }

theorem witness_StepPlans : headFor 9 follower = false ∧ stepOf 9 follower = none ∧ lostBase ≤ (2 ^ 48 : Nat) ∧
    headFor (2 ^ 48) head = false ∧ stepOf (2 ^ 48) head = none := by
  decide +kernel

theorem witness_ReadinessAndAcceptance :
    headFor 9 (inFlight serving) = true ∧ stepOf 9 (inFlight serving) = some rec9 ∧ rec9.accepted = none ∧
    rec9.unacked = 0 ∧ rec9.readySent = false ∧ ({ rec9 with kvDone := false } : StepRec).kvDone = false := by
  decide +kernel

theorem witness_StepCommit :
    (let s := inFlight serving
     stepOf 9 s = some rec9 ∧ headFor 9 s = true ∧ allReady rec9 s = true ∧ s.sched.steps.all (fun x => 9 ≤ x.plan.step) = true ∧
     (rec9.plan.entries.map fun e => e.seq).Nodup ∧ (seqOf 7 s).releasing = false ∧ (seqOf 7 s).pausing = none ∧
     (commitEntry entry7 (rec9.accepted.getD []) s).2.2.2 = 0) := by
  decide +kernel

theorem witness_StepEnds :
    (let s := at_ (47 * 1000000 * 3600) (inFlight serving)
     stepOf 9 s = some rec9 ∧ headFor 9 s = true ∧ rec9.composedAt + ticksUs (getF (Reg.Sch.tmoTimeout.at schBase) s) ≤ now s ∧
     (rec9.plan.entries.map fun e => e.seq).Nodup ∧ (seqOf 7 s).releasing = false ∧
     (seqOf 7 s).retry < getF (Reg.Sch.tmoRetryMax.at schBase) s) ∧
    headFor 9 (inFlight follower) = false ∧ (stepOf 9 (inFlight follower)).isSome = true := by
  decide +kernel

/-- An array in a state that holds block 0 of layer 0 of epoch slot 0, with its hoist's converters on and settled. -/
def arrayIn (a st : Nat) (s : State) : State :=
  let s := withFields [(arrF Reg.Pnt.stState a, st), (hoistF Reg.Hoist.convEn (a / 256), 1), (hoistF Reg.Hoist.refSettled (a / 256), 1)] s
  updArr a (fun r => { r with hold := some ⟨0, 0, 0, 0, 0, 0, 1024, 512, 0⟩ }) s

theorem witness_MaintenanceArbiter :
    (let s := arrayIn 3 3 serving
     s.mnt.waiting = [] ∧ actLive (.startup 4) (arrayIn 4 1 s) = true ∧ grantable ⟨.startup 4, 0, false, false⟩ (arrayIn 4 1 s) ≠ none ∧
     (arrayIn 4 1 s).mnt.granted.all (fun g => g.act ≠ .startup 4) = true ∧
     actLive (.spareProg 3) s = true ∧ grantable ⟨.spareProg 3, now s, false, false⟩ s = none) ∧
    (let s := { serving with mnt := ⟨[], [⟨.compaction, [], 0⟩, ⟨.snapshot, [], 0⟩]⟩ }
     holds .compaction s = true ∧ holds .snapshot s = true) ∧
    (let s := at_ (47000000 * 100000) { arrayIn 3 3 serving with mnt := ⟨[⟨.spareProg 3, 0, false, true⟩], []⟩ }
     0 + ticksS (getF (Reg.Pwr.mntAge.at pwrBase) s) < now s ∧ actLive (.spareProg 3) s = true ∧
     grantable ⟨.spareProg 3, 0, false, true⟩ s = none) := by
  decide +kernel

def tag0 : VecTag := ⟨1, 9, 5, 7, 1, 0, 0, .plain, false, true, false, none⟩

theorem witness_QuantisedVectors :
    (let s := withFields [(pntF Reg.Pnt.zeroVecEn 0, 0)] (arrayIn 0 1 serving)
     chainArrays 0 tag0 s = [0] ∧ s.pwr.held = [] ∧ (arrOf 0 s).buf = [] ∧ isSet (pntF Reg.Pnt.zeroVecEn 0) s = false ∧
     nonFinite (f32 ([(0x3F800000 : Nat)].foldl maxNanF32 0)) = false ∧ nonFinite (f32 ([(0x7FC00000 : Nat)].foldl maxNanF32 0)) = true) := by
  decide +kernel

theorem witness_ArrayReads :
    (let s := updArr 0 (fun r => { r with buf := [⟨1, 9, 5, 0, [1, 2], false⟩] }) (arrayIn 0 1 serving)
     (arrOf 0 s).buf = ⟨1, 9, 5, 0, [1, 2], false⟩ :: [] ∧ [(1 : Int), 2].all (fun x => x = 0) = false ∧
     convOn 0 s = true ∧ serves 0 s = true ∧ standinOf 0 s = none ∧ cflts 0 s = []) ∧
    (let v : InVec := ⟨1, 9, 5, 0, [1, 2], false⟩
     let r : ReadRec := ⟨v, ⟨0, 64, 1, 1, 1, [], [], none, false⟩, [⟨0, [], 0, false, false⟩]⟩
     let s := updArr 0 (fun x => { x with reads := [r] }) (arrayIn 0 1 serving)
     (arrOf 0 s).reads.any (fun rd => rd.slices.any fun sl => !sl.settled) = true) := by
  decide +kernel

theorem witness_SuspectsAndCheckConverter :
    (let s := updArr 5 (fun r => { r with winReads := 2 ^ 40 }) (arrayIn 5 2 serving)
     arrState 5 s = 2 ∧ s.mnt.waiting = [] ∧ 2 ^ (getF (pntF Reg.Pnt.confWindow 0) s + 10) ≤ (arrOf 5 s).winReads) ∧
    (let s := withFields [(arrF Reg.Pnt.cvCflt 5, 4)] (arrayIn 5 1 serving)
     standinOf 5 s = none ∧ cflts 5 s = [2] ∧ chkFlt 5 s = false) ∧
    (let s := withFields [(arrF Reg.Pnt.cvStandin 5, 1), (arrF Reg.Pnt.cvStandinM 5, 2)] (arrayIn 5 1 serving)
     standinOf 5 s = some 2 ∧ 2 ∉ cflts 5 s) ∧
    (let d : Dwell := ⟨8, 3, 4, 8, 4, 16⟩
     let s := updArr 5 (fun r => { r with dwell := some d, rot := 4 }) (arrayIn 5 1 serving)
     (arrOf 5 s).dwell = some d ∧ d.need ≤ d.made ∧ d.wrong < d.confirm ∧ d.col / 4 ∉ cflts 5 s ∧
     d.col / 4 ∈ cflts 5 (withFields [(arrF Reg.Pnt.cvCflt 5, 2)] s)) ∧
    (let d : Dwell := ⟨8, 4, 4, 8, 4, 16⟩
     let s := updArr 5 (fun r => { r with dwell := some d, rot := 4 }) (arrayIn 5 1 serving)
     (arrOf 5 s).dwell = some d ∧ d.need ≤ d.made ∧ d.confirm ≤ d.wrong ∧ cflts 5 s = [] ∧ chkFlt 5 s = false ∧
     (arrOf 5 s).cal.chkFailed = false ∧ d.col < 16) := by
  decide +kernel

theorem witness_ConvertersAndReferences :
    isSet (hoistF Reg.Hoist.refSettled 3) head = false ∧
    (let s := withFields [(hoistF Reg.Hoist.refSettled 3, 1)] head
     isSet (hoistF Reg.Hoist.refSettled 3) s = true ∧ convOn 3 s = false ∧ convOn 3 (withFields [(hoistF Reg.Hoist.convEn 3, 1)] s) = true) ∧
    serves (3 * 256 + 7) (arrayIn (3 * 256 + 7) 1 head) = true ∧ (List.range 256).all (fun i => !serves (3 * 256 + i) head) = true ∧
    (let s := { head with pwr := { head.pwr with ramping := [(3, true, true), (3, false, false)] } }
     (s.pwr.ramping.take 4).find? (fun x => x.1 = 3 ∧ x.2.1 = true) = some (3, true, true) ∧
     (s.pwr.ramping.take 4).find? (fun x => x.1 = 3 ∧ x.2.1 = false) = some (3, false, false)) ∧
    refWindow 0 1200000 1800 = true ∧ refWindow 0 1187999 1800 = false ∧ steady ((1200000 :: List.replicate 7 1200500).take 8) = true := by
  decide +kernel

theorem witness_Calibration :
    (let s := updPnt 0 (fun p => { p with round := true }) (arrayIn 5 1 serving)
     convOn 0 s = true ∧ (pntOf 0 s).round = true ∧ calibrates 5 s = true ∧ (arrOf 5 s).cal.done = false ∧
     isSet (hoistF Reg.Hoist.refSettled 0) s = true ∧ s.mnt.waiting = [] ∧ ([(0, 3, (512 : Int)), (1, 3, 900000)].map fun m => m.1 * 1024 + m.2.1).Nodup ∧
     (absLimits 0).1 ≤ 512 ∧ 512 ≤ (absLimits 0).2 ∧ (absLimits 1).1 ≤ 900000 ∧
     waived 5 0 3 (updArr 5 (fun r => { r with cal := { r.cal with waiveAll := true } }) s) = true) ∧
    (let s := arrayIn 5 5 serving
     let s := { s with mnt := { s.mnt with granted := [⟨.diag 5, [5], 0⟩] } }
     convOn 0 s = true ∧ arrState 5 s = 5 ∧ holds (.diag 5) s = true ∧ isSet (hoistF Reg.Hoist.refSettled 0) s = true ∧
     ([(0, 3, (512 : Int))].map fun m => m.1 * 1024 + m.2.1).Nodup ∧ (absLimits 0).1 ≤ 512 ∧ (512 : Int) ≤ (absLimits 0).2) ∧
    (let tu : Int := ((65536 * 1000000000000000 / 47000000 + 69720000 / 2) / 69720000 : Nat)
     15000 ≤ tu ∧ tu ≤ 25000) ∧
    (let s := at_ (2 ^ 62) (arrayIn 5 1 serving)
     convOn 0 s = true ∧ calibrates 5 s = true ∧ (getF (pntF Reg.Pnt.calOld 0) s).testBit 5 = false ∧
     (arrOf 5 s).cal.lastPass + 2 ^ (getF (pntF Reg.Pnt.calAge 0) s + 20) < now s ∧
     actLive (.round 0 false) s = true) := by
  decide +kernel

/-! ### Witnesses: weight images, programs, checks -/

/-- An epoch slot in a state, and an install or attach in progress in a phase. -/
def slotIn (n : Nat) (st : SlotState) (num : Nat) (s : State) : State :=
  { s with wgt := { s.wgt with slots := SMap.set dfltSlot s.wgt.slots n { dfltSlot 0 with state := st, num := num, arrays := 1 } } }

def installIn (n : Nat) (attach : Bool) (ph : InstPhase) (root : Option ImgRoot) (s : State) : State :=
  { s with wgt := { s.wgt with inst := some ⟨n, attach, ph, root, [], [], [], [], none⟩ } }

theorem witness_EpochSlots :
    wgtOpen State.reset = false ∧ wgtOpen head = true ∧ (slotRec 1 head).state ≠ .dormant ∧ (slotRec 1 head).state = .empty ∧
    (slotRec 1 (slotIn 1 .installing 7 head)).state = .installing ∧
    ((slotRec 1 (slotIn 1 .installed 7 head)).state = .installed ∧
      getF (wgtF Reg.Wgt.epoch) (withFields [(wgtF Reg.Wgt.epoch, 7)] (slotIn 1 .installed 7 head)) = 7) ∧
    head.wgt.inst.map (fun i => i.slot) ≠ some 1 ∧ (slotRec 1 (slotIn 1 .failed 7 head)).state = .failed ∧
    (placementOf 0 head).isSome = true ∧ overlaps 0 head = false ∧ keysRefused head = false ∧ placementOf 1 head = none ∧
    (slotRec 1 (slotIn 1 .dormant 7 head)).state = .dormant ∧ keysRefused (withFields [(Reg.Glb.secDebug, 1)] head) = true ∧
    (head.mnt.waiting = [] ∧ epochIdle 7 (slotIn 1 .dormant 7 head) = true ∧ getF (wgtF Reg.Wgt.epoch) head ≠ 7) ∧
    (let s := installIn 1 false .chunks none (slotIn 1 .installing 7 head)
     (slotRec 1 s).state = .installing ∧ (s.wgt.inst.map fun x => (x.slot, x.attach)) = some (1, false)) := by
  decide +kernel

/-- A manifest root with one layer section whose digest is given. -/
def root1 (digest : List Byte) : ImgRoot := ⟨true, false, false, 0, 0, [], [], [⟨1, 0, digest⟩, ⟨1, 1, digest⟩], [], []⟩

/-- Layer slot 0's table names block 0 in chunk 0 with a digest, and array 0 waits to be installed from it. -/
def chunkState (digest : List Byte) : State :=
  let s := installIn 0 false .chunks none (slotIn 0 .installing 7 head)
  let s := { s with
    wgt := { s.wgt with tables := SMap.set dfltTables [] 0 ⟨[(0, ⟨0, 0, 0, 0, 0, 0, 0, 512, 0⟩)], [(0, ⟨0, digest⟩)]⟩ }
    mnt := ⟨[], [⟨.install 0, [0], 600⟩]⟩ }
  updArr 0 (fun r => { r with job := some .install, phase := .wantChunk, reserved := some ⟨0, 0, 0, 0, 0, 0, 0, 512, 0⟩ }) s

theorem witness_ImageChecks :
    compWanted 1 .root head = false ∧ compWanted 1 .root (installIn 1 false .root none head) = true ∧ head.mnt.waiting = [] ∧
    ({ head with wgt := { head.wgt with lost := [(1, .root, 0)] } } : State).wgt.lost = [(1, .root, 0)] ∧
    0 + ticksS 10 ≤ now (at_ (47000000 * 11) head) ∧ now (at_ 46999999 head) < 0 + ticksS 10 ∧
    (isSet (wgtF Reg.Wgt.bcReader) head = false ∧ isSet (wgtF Reg.Wgt.bcReceive) (withFields [(wgtF Reg.Wgt.bcReceive, 1)] head) = true) ∧
    (parseRoot []).formOk = false ∧ 0 < (root1 []).sects.length ∧
    keysRefused (withFields [(Reg.Glb.secDebug, 1)] (installIn 1 false .wrap (some (root1 [])) head)) = true ∧
    ((root1 [3]).sects[1]? = some ⟨1, 1, [3]⟩ ∧ 1 ∈ [0, 1] ∧ [0, 1].any (fun k => k ≠ 1) = true) := by
  decide +kernel

/-- A section or chunk whose digest is right, and one whose digest is wrong, whatever SHAKE256 gives. -/
theorem witness_ImageChecks_digests (b : List Byte) :
    Config.shake256 b = (⟨0, Config.shake256 b⟩ : ChunkEntry).digest ∧ Config.shake256 b ≠ (⟨0, 0 :: Config.shake256 b⟩ : ChunkEntry).digest := by
  simp

/-- A well-formed root of a trusted publisher whose signature verifies passes the checks of errors 1 and 2. -/
theorem witness_ImageChecks_root (r : ImgRoot) (hf : r.formOk = true)
    (h : Config.ed448Verify r.pubkey (Config.shake256 r.signed) r.sig = true) :
    (if r.formOk = false ∨ Config.ed448Verify r.pubkey (Config.shake256 r.signed) r.sig = false then 1 else 0) = 0 := by
  simp [hf, h]

theorem witness_ImageChecks_chunk (d : List Byte) :
    ((tablesOf 0 (chunkState d)).chunks.find? fun c => c.1 = 0 ∧ c.2.index = 0) = some (0, ⟨0, d⟩) ∧
    installing 0 (chunkState d) = true ∧ chunkNamed 0 0 0 (chunkState d) = true ∧ wantChunk 0 0 0 (chunkState d) = [0] ∧
    wantedBlock 0 (chunkState d) = some ⟨0, 0, 0, 0, 0, 0, 0, 512, 0⟩ ∧
    entryOf ⟨0, 0, 0, 0, 0, 0, 0, 512, 0⟩ (chunkState d) = some ⟨0, 0, 0, 0, 0, 0, 0, 512, 0⟩ ∧
    (arrOf 0 (chunkState d)).job = some .install ∧
    residuesMatch ⟨0, 0, 0, 0, 0, 0, 0, 512, 0⟩ [] (residuesOf ⟨0, 0, 0, 0, 0, 0, 0, 512, 0⟩ []) = true := by
  exact ⟨rfl, rfl, rfl, rfl, rfl, rfl, rfl, rfl⟩

/-- An array with a job in a phase, its program granted, resting since the start. -/
def jobIn (a : Nat) (j : Job) (ph : JobPhase) (g : MntAct) : State :=
  let s := { serving with mnt := ⟨[], [⟨g, [a / 16], 600⟩]⟩ }
  updArr a (fun r => { r with job := some j, phase := ph, reserved := some ⟨0, 0, 0, 0, 0, 0, 0, 512, 0⟩ }) s

theorem witness_ArrayPrograms :
    (let s := jobIn 3 .install .programming (.install 3)
     (arrOf 3 s).job = some .install ∧ (arrOf 3 s).phase = .programming ∧ (programAct 3 s).isSome = true ∧ s.mnt.waiting = [] ∧
     (getF (pntF Reg.Pnt.calStale 0) s).testBit 3 = false) ∧
    (let s := jobIn 3 .repair .programming (.repair 3)
     (arrOf 3 s).job = some .repair ∧ (programAct 3 s).isSome = true) ∧
    (let s := at_ (47000000 * 100000) (jobIn 3 .repair .resting (.repair 3))
     (arrOf 3 s).phase = .resting ∧ (arrOf 3 s).restAt + ticksS (arrOf 3 s).relax / 8 ≤ now s) ∧
    ¬ ((arrOf 3 head).restAt + ticksS (arrOf 3 head).relax / 8 ≤ now head) ∧
    (let s := installIn 0 false .chunks none (jobIn 3 .install .reading (.readback 3))
     holds (.readback 3) s = true ∧ s.arrs.all (fun e => decide (e.2.age + s.arrs.length * 1680 < Config.ageUnit)) = true ∧ (arrOf 3 s).reserved = some ⟨0, 0, 0, 0, 0, 0, 0, 512, 0⟩ ∧
     (s.wgt.inst.any fun x => x.slot == 0 && !x.attach && x.phase == .chunks) = true ∧
     (arrOf 3 s).failedReads + 1 < (arrOf 3 s).repass ∧ atBudget 3 s = false) ∧
    (let s := updArr 3 (fun r => { r with failedReads := 7 }) (jobIn 3 .repair .reading (.readback 3))
     (arrOf 3 s).job = some .repair ∧ (arrOf 3 s).repass ≤ (arrOf 3 s).failedReads + 1) := by
  decide +kernel

theorem witness_ArrayChecks :
    (let s := arrayIn 3 5 (jobIn 3 .repair .reading (.diag 3))
     holds (.diag 3) s = true ∧ atBudget 3 s = false ∧ arrState 3 s = 5 ∧ s.arrs.all (fun e => decide (e.2.age + s.arrs.length * 1680 < Config.ageUnit)) = true ∧ s.mnt.waiting = []) ∧
    holds (.diag 3) head = false ∧
    (let s := arrayIn 3 2 (jobIn 4 .repair .reading (.startup 3))
     holds (.startup 3) s = true ∧ arrState 3 s = 2 ∧ s.wgt.inst = none) ∧
    (let s := installIn 0 true (.checks [3]) none (jobIn 4 .repair .reading (.startup 3))
     holds (.startup 3) s = true ∧ (s.wgt.inst.map fun x => (x.attach, x.phase)) = some (true, .checks [3])) ∧
    (arrState 3 head = 0 ∧ (arrOf 3 head).reserved = none ∧ atBudget 3 head = false ∧ (arrOf 3 head).adding = false ∧
      arrState 3 (arrayIn 3 7 head) ≠ 0) ∧
    ((arrOf 3 (arrayIn 3 1 head)).hold.isSome = true ∧ (arrOf 4 head).hold = none) ∧
    (let s := withFields [(Reg.Glb.state, 4)] head
     getF Reg.Glb.state s = 4 ∧ s.wgt.inst = none ∧ (usedHoists s).all (fun h => (List.range 16).all fun i => !(pntOf (h * 16 + i) s).initial) = true) ∧
    (canCommand (arrayIn 3 1 commanded) = true ∧ arrState 3 (arrayIn 3 1 commanded) = 1 ∧ arrState 3 commanded ≠ 1 ∧ arrState 3 commanded ≠ 2) := by
  decide +kernel

/-! ### Witnesses: output vectors, vector units, tiles, the meter, security -/

def acc0 : VecAcc := ⟨tag0, 0, false, 0, [], [], false, [], []⟩

/-- Pennant 0 with a finished accumulation and its output enabled, and further fields. -/
def output (l : List (Field × Nat)) (r : PntRec → PntRec) : State :=
  updPnt 0 (fun p => r { p with accs := [acc0] }) (withFields ((pntF Reg.Pnt.outEn 0, 1) :: (pntF Reg.Pnt.wEn 0, 0) :: l) head)

theorem witness_OutputVectors :
    readyVector 0 head = none ∧ isSet (pntF Reg.Pnt.outEn 0) (withFields [(pntF Reg.Pnt.outEn 0, 0)] head) = false ∧
    (let s := output [] id
     readyVector 0 s = some acc0 ∧ isSet (pntF Reg.Pnt.outEn 0) s = true ∧ isSet (pntF Reg.Pnt.wEn 0) s = false ∧
     getF (pntF Reg.Pnt.gate 0) s = 0 ∧ getF (pntF Reg.Pnt.pool 0) s ≠ 3) ∧
    (let s := output [(pntF Reg.Pnt.pool 0, 3)] id
     readyVector 0 s = some acc0 ∧ getF (pntF Reg.Pnt.pool 0) s = 3 ∧ acc0.tag.lastOfSeq = true ∧
     ({ acc0 with tag := { tag0 with lastOfSeq := false } } : VecAcc).tag.lastOfSeq = false) ∧
    (let s := output [(pntF Reg.Pnt.gate 0, 2), (pntF Reg.Pnt.gpart 0, 3)] id
     readyVector 0 s = some acc0 ∧ getF (pntF Reg.Pnt.gate 0) s = 2) ∧
    (let s := output [(pntF Reg.Pnt.gate 0, 1)] (fun r => { r with partners := [[0]] })
     readyVector 0 s = some acc0 ∧ getF (pntF Reg.Pnt.gate 0) s = 1 ∧ (pntOf 0 s).gateWait = [] ∧ (pntOf 0 s).partners = [0] :: []) ∧
    (let s := output [(pntF Reg.Pnt.gate 0, 1)] (fun r => { r with partners := [[0]], gateWait := [⟨tag0, [0], false⟩] })
     (pntOf 0 s).gateWait = ⟨tag0, [0], false⟩ :: [] ∧ (pntOf 0 s).partners = [0] :: []) := by
  decide +kernel

/-- The watch words of pennant 0 in the flag-words-and-queues partition. -/
def watched (l : List (Field × Nat)) (bad : Bool) : State :=
  updPnt 0 (fun p => { p with accs := [{ acc0 with bad := bad }] })
    (withFields ([(pntF Reg.Pnt.outEn 0, 1), (pntF Reg.Pnt.wEn 0, 1), (pntF Reg.Pnt.watchLayer 0, flag0 / 8), (pntF Reg.Pnt.watchTen 0, flag0 / 8)] ++ l) head)

theorem witness_PennantWindows :
    (let s := updPnt 0 (fun p => { p with coming := [(1, 3, [(0, 5)])] }) head
     ((pntOf 0 s).coming.find? fun d => d.1 = 1) = some (1, 3, [(0, 5)]) ∧ ((pntOf 0 s).coming.find? fun d => d.1 = 2) = none) ∧
    (pntOf 0 head).snapReq = false ∧ (pntOf 0 (updPnt 0 (fun p => { p with snapReq := true }) head)).snapReq = true ∧
    (getF (pntF Reg.Pnt.actBank 0) head = getF (pntF Reg.Pnt.tbank 0) head ∧
      getF (pntF Reg.Pnt.actBank 0) (withFields [(pntF Reg.Pnt.actBank 0, 1), (pntF Reg.Pnt.actIdx 0, 258)] head) ≠ getF (pntF Reg.Pnt.tbank 0) head) ∧
    (let s := watched [(pntF Reg.Pnt.wsWarm 0, 0)] true
     readyVector 0 s = some { acc0 with bad := true } ∧ isSet (pntF Reg.Pnt.outEn 0) s = true ∧ isSet (pntF Reg.Pnt.wEn 0) s = true ∧
     acc0.tag.prov = false ∧ getF (pntF Reg.Pnt.gate 0) s = 0 ∧ getF (pntF Reg.Pnt.pool 0) s = 0 ∧ acc0.tag.adapter = false ∧
     isFlagWord (getF (pntF Reg.Pnt.watchLayer 0) s * 8) s = true ∧
     isFlagWord (getF (pntF Reg.Pnt.watchTen 0) s * 8 + 8 * 5) s = true ∧ isSet (pntF Reg.Pnt.wsWarm 0) s = false) ∧
    (let s := watched [] false
     (chainOf 0 s).any (fun q => (accOf q 1 s).any fun a => !a.skipped) = true) ∧
    isSet (pntF Reg.Pnt.wsWarm 0) (watched [(pntF Reg.Pnt.wsWarm 0, 1)] false) = true := by
  decide +kernel

theorem witness_PennantWindows_norms :
    (let s := watched [(pntF Reg.Pnt.wsWarm 0, 0)] false
     let z := ((List.range 512).map (columnValue 0 acc0.e acc0.bad (chainSum 0 tag0 s) none s)).map fun c => activate 0 s c.1
     isNanF32 (norm2 z) = false ∧ isNanF32 (normInf z) = false) := by
  decide +kernel

def block7 : Block := ⟨5, 7, 0, 0, 0, 0, 3, .hot, 0, 0, false, none, .hot, .hot, 0, false, false, false, false, 0⟩

theorem witness_VectorUnits :
    isFlagWord flag0 head = true ∧ layerOf 0 head = some layer0 ∧
    (let s := { head with kv := { head.kv with dir := [block7] } }
     heldBlock 0 7 0 0 s = some block7 ∧ block7.ten = 5 ∧ (List.range (slotLines 0 0 s)).all (fun i => !isPoisoned (0x10000 + 256 * i) s) = true ∧
     ((List.range 256).filter fun i => decide (0 ≤ i ∧ i < block7.fill ∧ 0 * 256 + i ≤ 2)) ≠ []) ∧
    (getF (Reg.Kvc.selmap.at (kvcBase + 5 / 32 * 4)) head).testBit (5 % 32) = false ∧
    (let e := { entry7 with gen := false, chunk := 1 }
     let s := { head with sched := { head.sched with steps := [{ rec9 with plan := { plan9 with entries := [e] } }] } }
     planEntryOf 9 7 s = some e ∧ e.gen = false ∧ e.samp.temp = 0 ∧ e.samp.logp = false ∧
     isNanF32 (distOf 0 0 [(0, [])] s).m = false) ∧
    (let c : Combine := ⟨4, 9, 7, 5, 0, 2, ⟨.plain, 0, 0, none⟩, [(0, ⟨0, 0, []⟩)]⟩
     let s := { head with vecs := SMap.set dfltVec [] 3 ⟨[c], [], []⟩ }
     ((vecOf 3 s).combines.find? fun c => c.cid = 4) = some c ∧ ((vecOf 3 s).combines.find? fun c => c.cid = 5) = none ∧
     c.got.any (fun g => g.1 = 1) = false ∧ c.step % 65536 = 9 ∧
     (let got : List (Nat × Partial) := c.got ++ [(1, ⟨0, 0, []⟩)]
      c.holders ≤ ((List.range c.holders).filterMap fun i => (got.find? fun g => g.1 = i).map fun g => g.2).length ∧
      ((List.range 3).filterMap fun i => (got.find? fun g => g.1 = i).map fun g => g.2).length < 3)) := by
  decide +kernel

/-- A bank in a state with tenant 5's adapter version 1. -/
def bankIn (st : BankState) (s : State) : State := setBank 3 true ⟨st, 5, 0, 1, 0x1000, 64, 9, []⟩ s

theorem witness_BuntingTiles :
    (bankOf 3 true head).state ≠ .loading ∧ (bankOf 3 true (bankIn .loading head)).state = .loading ∧ bankSteps 3 true (bankIn .loading head) = [] ∧
    (let b := bankOf 3 true (bankIn .ready head)
     let u : BankUse := ⟨3, true, 5, 0, 1⟩
     b.state = .ready ∧ b.kind = u.kind.toNat ∧ b.version = u.version.toNat ∧ (b.kind = 0 → b.ten = (5 : TenantId).toNat) ∧
     (b.kind = 0 ∧ b.ten ≠ (6 : TenantId).toNat)) := by
  decide +kernel

/-- The meter off. -/
def meterOff : State := { head with mtr := { head.mtr with on := false } }

def record3 : MeterRecord := ⟨0, 3, [1, 2, 3]⟩

theorem witness_MeterSeconds :
    head.mtr.on = true ∧ meterOff.mtr.on = false ∧ head.mtr.exchange = false ∧
    (let s := { head with mtr := { head.mtr with exchange := true, spare := some head.mtr.params } }
     s.mtr.on = true ∧ s.mtr.exchange = true ∧ s.mtr.spare = some head.mtr.params) ∧
    head.kv.dir = [] ∧ head.kv.lent = [] ∧ head.mtr.sent = [] ∧
    (let f : Frame := ⟨7, 0, [(5, 1, 10)]⟩
     let s := { head with mtr := { head.mtr with sent := [f], lastInterval := some 3 } }
     s.mtr.sent = f :: [] ∧ s.mtr.lastInterval = some 3 ∧ 3 < f.interval) ∧ head.mtr.lastInterval = none := by
  decide +kernel

theorem witness_MeterReading :
    meterOff.mtr.on = false ∧
    (let s := { head with mtr := { head.mtr with records := [record3], totalsRec := some record3, nonce := some ([1], 0) } }
     s.mtr.on = true ∧ (s.mtr.records.find? fun y => y.rseq = (3 : Word64).toNat) = some record3 ∧
     (s.mtr.records.find? fun y => y.rseq = (4 : Word64).toNat) = none ∧ s.mtr.totalsRec = some record3 ∧
     recordChunk 3 0 s.mtr ≠ none ∧ recordChunk 4 0 s.mtr = none ∧ s.mtr.nonce = some ([1], 0) ∧ s.mtr.mtime < 0 + 60 * 16384000 ∧
     0 + 60 * 16384000 ≤ ({ s.mtr with mtime := 60 * 16384000 } : MeterState).mtime) ∧
    isSet (Reg.Mtr.mbBusy.at mtrBase) head = false ∧ isSet (Reg.Mtr.mbBusy.at mtrBase) (withFields [(Reg.Mtr.mbBusy.at mtrBase, 1)] head) = true ∧
    isSet Reg.Glb.mgmtFwRun head = true ∧ isSet Reg.Glb.mgmtFwRun State.reset = false ∧ head.mtr.programming = false ∧
    ({ head.mtr with programming := true } : MeterState).programming = true := by
  decide +kernel

/-- No image, a nonce, and the operands of SEC_XFER. -/
def secured (l : List (Nat × CfgKey)) (x : SMap Byte) (nonce : Option (List Byte)) : State :=
  { State.reset with sec := { State.reset.sec with cfgKeys := l, xfer := x, nonce := nonce } }

theorem witness_SecurityOperations :
    isSet Reg.Glb.secBusy (withFields [(Reg.Glb.secBusy, 1)] head) = true ∧ isSet Reg.Glb.secBusy head = false ∧
    head.sec.fwKey1 = false ∧ (2 : BitVec 4).toNat ≤ 2 ∧ 2 < (3 : BitVec 4).toNat ∧ isSet Reg.Glb.secIdFail head = false ∧
    isSet Reg.Glb.secIdFail (withFields [(Reg.Glb.secIdFail, 1)] head) = true ∧ getF Reg.Glb.ensState head ≠ 0 ∧
    getF Reg.Glb.ensState State.reset = 0 ∧ State.reset.sec.nonce = none ∧ (secured [] [] (some [1])).sec.nonce = some [1] := by
  decide +kernel

theorem witness_ConfigurationKeys :
    isSet Reg.Glb.secBusy (secured [] [] none) = false ∧ isSet Reg.Glb.secIdFail (secured [] [] none) = false ∧
    ofLe (xferBytes 0 1 (secured [] [(0, 1)] none)) ≠ (0 : BitVec 4).toNat ∧
    (let s := secured [] [(0, 3), (1, 0xFF)] none
     ofLe (xferBytes 0 1 s) = (3 : BitVec 4).toNat ∧ (List.range 4).all (fun j => (cfgKey j s).state == 0) = true ∧
     ofLe (xferBytes 1 1 s) = 0xFF ∧ ofLe (xferBytes 1 1 (secured [] [(0, 3)] none)) ≠ 0xFF) ∧
    (let s := secured [(1, ⟨1, [1], 0⟩)] [(0, 3), (1, 1)] none
     (cfgKey 3 s).state = 0 ∧ (List.range 4).all (fun j => (cfgKey j s).state == 0) = false ∧ s.sec.nonce = none) ∧
    (let s := secured [(1, ⟨1, [1], 0⟩)] [(0, 3), (1, 2)] (some [9])
     s.sec.nonce ≠ none ∧ enrolGood 3 3 (xferBytes 4 57 s) s = false) ∧
    (let s := secured [(1, ⟨1, [1], 0⟩)] [(0, 1), (1, 1)] (some [9])
     ofLe (xferBytes 0 1 s) = 1 ∧ (cfgKey 1 s).state = 1 ∧ (List.range 4).any (fun j => j ≠ 1 && (cfgKey j s).state == 1) = false) ∧
    (let s := secured [(1, ⟨1, [1], 0⟩), (2, ⟨1, [2], 0⟩)] [(0, 1), (1, 1)] (some [9])
     (cfgKey 1 s).state = 1 ∧ (cfgKey 2 s).state = 1 ∧ ofLe (xferBytes 1 1 s) = 1) := by
  decide +kernel

/-- A good signature by an enrolled signer makes the change good. -/
theorem witness_ConfigurationKeys_signed (slot op : Nat) (key n : List Byte) (s : State)
    (h1 : (cfgKey (ofLe (xferBytes 1 1 s)) s).state = 1) (h2 : ofLe (xferBytes 1 1 s) < 4) (h3 : s.sec.nonce = some n)
    (h4 : Config.ed448Verify (cfgKey (ofLe (xferBytes 1 1 s)) s).key (enrolMessage n slot op key) (xferBytes 64 114 s) = true) :
    enrolGood slot op key s = true := by
  simp [enrolGood, h1, h2, h3, h4]

theorem witness_AttestationAndSecrets :
    (List.replicate 32 (0 : Byte)).length = 32 ∧ head.sec.reports = [] ∧ mgmtStill head = true ∧
    mgmtStill (withFields [(Reg.Glb.ensState, 1)] head) = false ∧
    (let s := { head with sec := { head.sec with reports := [(true, [1]), (false, [2])] } }
     s.sec.reports = (true, [1]) :: [(false, [2])] ∧ s.sec.ops = []) ∧
    (List.replicate 256 (0 : Byte)).length = 256 ∧ canCommand commanded = true ∧ commanded.sched.tenantCount ≤ 16 ∧
    cmd5.ten.toNat < commanded.sched.tenantCount ∧ keysRefused (withFields [(Reg.Glb.secDebug, 1)] commanded) = true ∧
    hasSecret 5 commanded = false := by
  decide +kernel

/-- A record that names this part and the tenant fits, where IDDIG has its 64 bytes. -/
theorem witness_AttestationAndSecrets_fits (h : idDigest.length = 64) :
    (idDigest ++ (List.replicate 116 0 ++ [5, 0] ++ List.replicate 74 0)).take 64 = idDigest ∧
    (idDigest ++ (List.replicate 116 0 ++ [5, 0] ++ List.replicate 74 0)).length = 256 := by
  constructor
  · rw [← h]; simp only [List.take_left']
  · simp only [List.length_append, List.length_replicate, h]; rfl

/-! ### Witnesses: Lenrik ports, messages, losses, tiers -/

/-- A port in a state, with more fields. -/
def port (n st : Nat) (l : List (Field × Nat)) (p : PortState → PortState) (s : State) : State :=
  let s := withFields ((portF Reg.Port.state n, st) :: l) s
  updPort n p s

theorem witness_PortTraining :
    (List.range 9).all (fun st => portState 15 (port 15 st [] id head) == st) = true ∧
    lightOf 15 (port 15 1 [(Reg.Lnk.lightIn1.at lnkBase, 15)] id head) = 15 ∧
    ((List.range 4).all fun l => pwrOk ((0x141400B0 : Word).extractLsb' (8 * l) 8)) = true ∧ pwrOk 0x15 = false ∧
    ((List.range 4).all fun l => decide (((0x80800001 : Word).extractLsb' (8 * l) 8).toNat ≤ 128)) = true ∧
    (let s := at_ 47000 (port 19 1 [] id head)
     (portOf 19 s).attemptAt + ticksMs 1 ≤ now s ∧ now (at_ 46999 s) < (portOf 19 s).attemptAt + ticksMs 1) ∧
    (let s := port 5 5 [(Reg.Lnk.topoSlot.at lnkBase, 3), (Reg.Lnk.topoBoard.at lnkBase, 2)] id head
     portState 5 s = 5 ∧ peerOk 5 (2 * 16 + 9) 9 s = true ∧ peerOk 5 (2 * 16 + 9) 10 s = false) := by
  decide +kernel

theorem witness_PortLossAndLight :
    portState 19 (port 19 6 [] id head) = 6 ∧ portState 19 (port 19 7 [] id head) = 7 ∧ portState 19 head = 0 ∧
    (let s := at_ 470000 (port 19 5 [] id head)
     (portOf 19 s).attemptAt + ticksMs 10 ≤ now s ∧ (portOf 19 s).attempts < 2 ∧ s.sched.steps = []) ∧
    2 ≤ (portOf 19 (port 19 1 [] (fun p => { p with attempts := 2 }) head)).attempts ∧
    (let s := at_ 47000000 (port 0 8 [(portF Reg.Port.auto 0, 1)] id head)
     portState 0 s = 8 ∧ isSet (portF Reg.Port.auto 0) s = true ∧ (portOf 0 s).downAt + ticksS 1 ≤ now s) ∧
    11 ∈ portsOfInput false ∧ 12 ∉ portsOfInput false ∧ 12 ∈ portsOfInput true := by
  decide +kernel

def msg0 : Msg := ⟨0x01, false, true, 1, 7, 0, 9, 0, 1, .vectors [5]⟩
def flit0 : Flit := ⟨⟨1, 0, false, false, 0, 0, 3⟩, 1, false, [(5, 200)]⟩

theorem witness_Flits :
    (let s := port 3 6 [(portF Reg.Port.credAct 3, 2)] id head
     portState 3 s = 6 ∧ flit0.uncorrectable = false ∧ flit0.head.null = false ∧ flit0.head.nak = false ∧
     flit0.head.fseq.toNat = nextSeq (portOf 3 s).rxSeq ∧ (portOf 3 s).nakSince = none ∧ (portOf 3 s).resend = [] ∧ chooseVc 3 s = none) ∧
    nextSeq 4095 = 0 ∧ ({ flit0 with uncorrectable := true } : Flit).uncorrectable = true ∧
    (let s := at_ 94 (port 3 6 [] (fun p => { p with nakSince := some 0 }) head)
     (portOf 3 s).nakSince = some 0 ∧ 0 + ticksUs 2 ≤ now s) ∧
    (let f : TxFlit := ⟨7, 0, msg0, true, 0⟩
     let s := port 3 6 [] (fun p => { p with replay := [f], resend := [f] }) head
     (portOf 3 s).resend = f :: [] ∧ f.resent < 7 ∧ f.fseq < 4096) ∧
    (let s := port 3 6 [(portF Reg.Port.credAct 3, 2)] (fun p => { p with queues := [(0, msg0, 1)] }) head
     (portOf 3 s).resend = [] ∧ chooseVc 3 s = some 0 ∧ ((portOf 3 s).queues.find? fun q => q.1 == 0) = some (0, msg0, 1)) := by
  decide +kernel

/-- Mirrored operation with the partner at pod address 77. -/
def mirrored : State := withFields [(Reg.Lnk.pairMirrored.at lnkBase, 1), (Reg.Lnk.pairPod.at lnkBase, 77)] follower

def item0 : MirrorItem := ⟨5, 7, 0, 0, 0, 0, 1⟩

theorem witness_FabricMessages :
    msg0.body = .vectors [5] ∧ msg0.relay = false ∧ (head.lnk.arrivals.find? fun a => a.1 = 9 ∧ a.2.1 = 0) = none ∧
    msg0.vec0 = 0 ∧ ({ msg0 with vec0 := 4 } : Msg).vec0 ≠ 0 ∧
    (2 / 16 = getF (Reg.Lnk.topoBoard.at lnkBase) head ∧ 2 ≠ myPod head ∧ relayBuf head ≠ 0 ∧ ¬ (40 / 16 = getF (Reg.Lnk.topoBoard.at lnkBase) head)) ∧
    stepOf 9 (inFlight head) = some rec9 ∧ isHead head = true ∧ isHead follower = false ∧ follower.lnk.lostHead = false ∧
    ({ rec9 with kvDone := false } : StepRec).kvDone = false ∧
    (isMirrored mirrored = true ∧ (77 : BitVec 10).toNat = getF (Reg.Lnk.pairPod.at lnkBase) mirrored ∧ isMirrored head = false) ∧
    (let u := { mirrored with lnk := { mirrored.lnk with mirror := [⟨item0, 9, none, false⟩] } }
     mirrorStaged u ≤ mirrorBuf u ∧
     mirrorBuf u < mirrorStaged { u with lnk := { u.lnk with mirror := List.replicate 20 ⟨{ item0 with n := 20000 }, 9, none, false⟩ } }) ∧
    head.lnk.switched.contains 1 = false ∧ ({ head with lnk := { head.lnk with switched := [1] } } : State).lnk.switched.contains 1 = true ∧
    (let s := at_ 4700 (port 3 6 [] id head)
     portUp 3 s = true ∧ (portOf 3 s).lastSent + ticksUs 100 ≤ now s ∧ portUp 4 s = false) ∧
    (let s := withTenant 5 7 .waiting (withFields [(Reg.Kvc.cxlEn.at kvcBase, 1)] head)
     hasSecret 5 s = true ∧ isSet (Reg.Kvc.cxlEn.at kvcBase) s = true) ∧ head.lnk.mirror = [] := by
  decide +kernel

theorem witness_FabricLoss :
    (0 : BitVec 10).toNat = myPod head ∧ allDisabled 2 head = true ∧
    (let s := port (directPort 2 follower) 6 [] id follower
     (2 : BitVec 10).toNat ≠ myPod s ∧ allDisabled 2 s = false ∧ (5 : BitVec 10).toNat ≠ myPod s ∧ isHead s = false ∧ isMirrored s = false ∧
     now s < SMap.get dfltZero s.lnk.heard 2 + lossTicks s) ∧
    (let s := port (directPort 1 head) 6 [] id { head with lnk := { head.lnk with silent := [(4, 1)] } }
     allDisabled 1 s = false ∧ isHead s = true ∧ (instancePods false s).contains 1 = true ∧ (5 : BitVec 10).toNat ≠ myPod s ∧
     (4, 1) ∈ s.lnk.silent ∧ 4 ≠ (5 : BitVec 10).toNat) ∧
    (instancePods false head).contains 9 = false ∧ (seqOf 7 serving).state ≠ .free ∧
    isSet (Reg.Lnk.pairResync.at lnkBase) head = false ∧ isSet (Reg.Lnk.pairResync.at lnkBase) (withFields [(Reg.Lnk.pairResync.at lnkBase, 1)] head) = true ∧
    head.mnt.waiting = [] ∧ head.kv.lent = [] ∧ isSet (Reg.Lnk.pairPromoted.at lnkBase) head = false ∧
    isSet (Reg.Lnk.pairPromoted.at lnkBase) (withFields [(Reg.Lnk.pairPromoted.at lnkBase, 1)] head) = true ∧ head.lnk.handingBack = false := by
  decide +kernel

def lent7 : LentBlock := ⟨12, 5, 7, 0, 0, 0, 0, 3, 1, 0x1000, true⟩
def moving7 : Block := { block7 with state := .moving, src := .lent, dest := .hot, destLoc := 0x800 }

theorem witness_KeyValueTiers :
    (9, 0, 7, 0) ∉ head.kv.fetching ∧
    (let s := withTenant 5 7 .generate { head with kv := { head.kv with fetching := [(9, 0, 7, 0)], dir := [block7] } }
     (9, 0, 7, 0) ∈ s.kv.fetching ∧ blockOf 0 7 0 s = some block7 ∧ hasSecret 5 s = true ∧ block7.state ≠ .moving) ∧
    (let s := inFlight { head with kv := { head.kv with dir := [moving7] } }
     blockOf 0 7 0 s = some moving7 ∧ moving7.state = .moving ∧ moving7.copied = false ∧ moving7.src = .lent ∧ moving7.dest = .hot ∧
     s.mnt.waiting = [] ∧ s.sched.steps ≠ []) ∧
    (let s := { head with kv := { head.kv with lent := [lent7] } }
     (s.kv.lent.find? fun x => x.pod = 12 ∧ x.lslot = 0 ∧ x.seq = 7 ∧ x.blk = 0 ∧ x.demoting) = some lent7 ∧
     lentOf 12 0 7 0 s = some lent7 ∧ lentOf 12 0 7 1 s = none ∧ lent7.ten = (5 : TenantId).toNat ∧ lent7.ten ≠ (6 : TenantId).toNat ∧
     isPoisoned ((lent7.loc + 0) * 256) s = false) ∧
    (let s := withFields [(Reg.Kvc.lend.at kvcBase, 1)] head
     firstFit (([(1 : Byte)].length + 255) / 256) (getF (Reg.Kvc.lend.at kvcBase) s * 4096) (lentRuns s) = some 0 ∧
     s.lnk.reclaiming = false ∧ s.ens.lendNext = none) ∧
    firstFit 1 (getF (Reg.Kvc.lend.at kvcBase) head * 4096) (lentRuns head) = none ∧ (0, 7, 0) ∉ head.flt.restoring ∧
    (let s := at_ (47000000 * 10) (withTenant 5 7 .waiting (withFields [(Reg.Kvc.idle.at kvcBase, 10)] head))
     isHead s = true ∧ (seqOf 7 s).state = .waiting ∧ (seqOf 7 s).inStep = none ∧ 0 < getF (Reg.Kvc.idle.at kvcBase) s ∧
     (seqOf 7 s).waitSince + ticksS (getF (Reg.Kvc.idle.at kvcBase) s) ≤ now s ∧ hasSecret (seqOf 7 s).ten s = true) ∧
    (let s := at_ 100 (withTenant 5 7 .paused head)
     (seqOf 7 s).state = .paused ∧ (seqOf 7 s).expiry ≤ now s ∧ now (at_ 99 s) < (seqOf 7 s).expiry) := by
  decide +kernel

/-! ### Witnesses: commits, images, the lifetime record, reset and start-up, power, registers -/

/-- Commits pending. -/
def committed (l : List HostCommit) (s : State) : State := { s with cfg := { s.cfg with commits := l } }

theorem witness_CommitsAndBoundaries :
    head.cfg.commits.length < 16 ∧ 16 ≤ (committed (List.replicate 16 ⟨1, none, []⟩) head).cfg.commits.length ∧
    head.sched.steps = [] ∧ head.cfg.internals = [] ∧ (inFlight head).sched.steps ≠ [] ∧
    (committed [⟨3, none, []⟩] head).cfg.commits.all (fun c => c.atStep == none) = true ∧
    (committed [⟨3, none, []⟩] head).cfg.commits.getLast? = some ⟨3, none, []⟩ ∧
    (committed [⟨3, some 9, []⟩, ⟨4, none, []⟩] head).cfg.commits = ⟨3, some 9, []⟩ :: [⟨4, none, []⟩] ∧
    (let s := { head with sched := { head.sched with steps := [{ rec9 with started := false }] } }
     boundaryDue 9 s = true ∧ 9 < lostBase ∧ boundaryDue 8 s = false ∧
     (committed [⟨3, some 8, []⟩] s).cfg.commits.all (fun c => (c.atStep.all fun m => decide (m ≤ 9)) && c.values == []) = true ∧
     (committed [⟨3, some 10, []⟩] s).cfg.commits = ⟨3, some 10, []⟩ :: [] ∧ 9 < 10) := by
  decide +kernel

/-- Management firmware runs, no image is in force, and key slot 0 is enrolled. -/
def booted (l : List (Field × Nat)) : State :=
  { withFields ([(Reg.Glb.mgmtFwRun, 1), (Reg.Glb.state, 1), (Reg.Glb.ensLen, 1000)] ++ l) State.reset with
    sec := { State.reset.sec with cfgKeys := [(0, ⟨1, [1], 0⟩)] } }

def loading (i : EnsImage) (amend : Bool) (s : State) : State := { s with ens := { s.ens with load := some ⟨i, amend⟩ } }

theorem witness_ImageLoads :
    isSet Reg.Glb.mgmtFwRun State.reset = false ∧ State.reset.ens.held = none ∧ isSet Reg.Glb.mgmtFwRun (booted []) = true ∧
    1 < ({ image0 with kind := 2 } : EnsImage).kind ∧ image0.kind = 0 ∧ ({ image0 with kind := 1 } : EnsImage).kind = 1 ∧
    ensState (booted []) = 0 ∧ ensState (booted [(Reg.Glb.ensState, 1)]) = 1 ∧ ensState (booted [(Reg.Glb.ensState, 2)]) = 2 ∧
    isSet Reg.Glb.ensAmend (booted [(Reg.Glb.ensAmend, 1)]) = true ∧ ensState head = 3 ∧ isSet Reg.Glb.ensAmend head = false ∧
    (booted []).ens.load = none ∧ (loading image0 false (booted [])).ens.load = some ⟨image0, false⟩ ∧
    baseError { image0 with formOk := false } (booted []) ≠ 0 ∧ (booted []).ens.image = none ∧ head.ens.image = some image0 ∧
    amendError image0 { image0 with formOk := false } head ≠ 0 ∧ canDeactivate head = true ∧ canDeactivate serving = false := by
  decide +kernel

/-- A base image whose signature verifies passes the first pass. -/
theorem witness_ImageLoads_base (h : Config.ed448Verify [1] (Config.shake256 [1]) [2] = true) : baseError image0 (booted []) = 0 := by
  have hs : signatureOk image0 (booted []) = true := by
    unfold signatureOk
    rw [Bool.and_eq_true]
    exact ⟨by decide +kernel, h⟩
  have h1 : image0.formOk = true ∧ lengthOk image0 (booted []) = true ∧ sectionsOk image0 = true ∧
      contentError image0 (booted []) = 0 ∧ residentOk image0 (booted []) = true := by decide +kernel
  simp [baseError, h1, hs]

/-- An amendment of a layer's recipe that is signed over the image in force passes. -/
theorem witness_ImageLoads_amendment (s : State) (a : EnsImage) (hf : a.formOk = true) (hl : lengthOk a s = true)
    (hs : signatureOk a s = true) (hb : a.baseDigest = ensDigestBytes s) (hq : getF Reg.Glb.ensSeq s < a.seq)
    (hk : a.keysel = image0.keysel) (ha : amendAllowed image0 a s = true) (hc : contentError (amendMerge image0 a) s = 0) :
    amendError image0 a s = 0 := by
  simp [amendError, hf, hl, hs, hb, hk, ha, hc, Nat.not_le.mpr hq]

theorem witness_ScrubbingAndLifetime :
    holds (.scrub 5) head = false ∧
    (let s := { head with mnt := ⟨[], [⟨.scrub 5, [605], 200⟩, ⟨.snapshot, [800], 100⟩]⟩ }
     holds (.scrub 5) s = true ∧ holds .snapshot s = true ∧ s.mnt.waiting = [] ∧ s.kv.dir = [] ∧ sliceOf (5 * 256) = 5) ∧
    isSet Reg.Glb.mgmtFwRun State.reset = false ∧ isSet Reg.Glb.mgmtFwRun head = true ∧ holds .snapshot head = false ∧
    now head < head.flt.lastSnapshot + 3600 * 47000000 ∧
    (let s := at_ (3600 * 47000000) head
     s.flt.lastSnapshot + 3600 * 47000000 ≤ now s) ∧
    newestCopy head = none ∧
    (let s := { head with flt := { head.flt with copies := [(0, ⟨4, [(0x618, 3)], true⟩), (1, ⟨5, [], false⟩)] } }
     newestCopy s = some ⟨4, [(0x618, 3)], true⟩) := by
  decide +kernel

theorem witness_ConventionalReset :
    SMap.sorted serving.arrs = true ∧ SMap.sorted serving.wgt.slots = true ∧ (slotRec 0 serving).state = .installed ∧
    (slotRec 1 (slotIn 1 .installing 7 head)).state = .installing ∧ head.pins.resetN = true ∧
    (let s := { State.reset with pins := { State.reset.pins with resetN := false } }
     s.pins.resetN = false ∧ pwrGood s = true) ∧ pwrGood { State.reset with pwr := { State.reset.pwr with pg := [0, 1] } } = false := by
  decide +kernel

def slotA : FwSlot := ⟨true, 1, 3, true, [1], [2]⟩
def dark : State := { withFields [(Reg.Glb.state, 6), (Reg.Glb.seqRun, 0)] head with lnk := { head.lnk with podKnown := false } }

theorem witness_StartUp :
    (let s := State.reset
     s.pins.resetN = true ∧ getF Reg.Glb.state s = 0 ∧ isSet Reg.Glb.mgmtFwRun s = false ∧ isSet Reg.Glb.secBootFail s = false ∧
     slotAccepted slotA s = true ∧ slotAccepted { slotA with sigOk := false } s = false) ∧
    getF Reg.Glb.state (booted []) ≠ 0 ∧ dark.lnk.podKnown = false ∧ getF Reg.Glb.state dark = 6 ∧ (enPorts dark).length ≠ 0 ∧
    head.lnk.podKnown = true ∧
    (let s := withFields [(Reg.Glb.state, 5)] head
     getF Reg.Glb.state s = 5 ∧ checkingOver s = true ∧ checkingOver (slotIn 1 .dormant 7 s) = false) ∧
    (let s := (enPorts dark).foldl (fun s n => port n 6 [] id s) { dark with lnk := { dark.lnk with podKnown := true } }
     getF Reg.Glb.state s = 6 ∧ lightingOver s = true ∧ getF Reg.Glb.seqRun s = 0 ∧ anyInstalled s = false) ∧ lightingOver dark = false := by
  decide +kernel

theorem witness_CoreRestarts :
    isSet Reg.Glb.mgmtFwRun State.reset = false ∧ isSet Reg.Glb.mgmtFwRun head = true ∧ head.ens.load = none ∧
    (loading image0 true head).ens.load = some ⟨image0, true⟩ ∧ getF Reg.Glb.state State.reset = 0 ∧
    (let s := withFields [(Reg.Glb.mgmtFwRun, 0)] head
     isSet Reg.Glb.mgmtFwRun s = false ∧ getF Reg.Glb.state s ≠ 0 ∧ s.mnt.waiting = [] ∧ s.mtr.held = none ∧ s.ens.held = none) ∧
    isSet Reg.Glb.imageActive State.reset = false ∧
    (let s := inFlight (withFields [(Reg.Glb.ctrlRun, 0), (Reg.Glb.seqRun, 0)] head)
     isSet Reg.Glb.imageActive s = true ∧ ¬ getF Reg.Glb.state s < 6 ∧ isSet Reg.Glb.ctrlRun s = false ∧ isHead s = true ∧
     s.sched.steps.all (fun r => decide (r.plan.step < lostBase)) = true) := by
  decide +kernel

theorem witness_PowerStage :
    (let s := { State.reset with pwr := { State.reset.pwr with on := false, latch := .rail 3, armed := true, pg := [0, 1] } }
     3600 < (3601 : BitVec 16).toNat ∧ (5800 : BitVec 16).toNat ≤ 5800 ∧ s.pwr.on = false ∧ s.pwr.armed = true) ∧
    (3399 : BitVec 16).toNat < 3400 ∧ 3400 ≤ (3400 : BitVec 16).toNat ∧ 5800 < (5801 : BitVec 16).toNat ∧
    (let s := { State.reset with pwr := { State.reset.pwr with pg := [0, 1], droop := [7] } }
     s.pwr.on = true ∧ (List.range 2).all (fun k => s.pwr.pg.contains k) = true ∧ (List.range 3).all (fun k => s.pwr.pg.contains k) = false ∧
     (7 : RegionIx).toNat ∈ s.pwr.droop ∧ (6 : RegionIx).toNat ∉ s.pwr.droop) := by
  decide +kernel

/-- Sensor 0 with a record, in a part whose other sensors read what they read at reset. -/
def sensed (n : Nat) (x : Sensor) (l : List (Field × Nat)) : State :=
  let s := withFields l head
  { s with pwr := { s.pwr with sensors := [(n, x)] } }

theorem witness_SensorsAndBands :
    71 < 72 ∧ ((-641 : BitVec 16).toInt < -640 ∧ -640 ≤ (-640 : BitVec 16).toInt ∧ (2400 : BitVec 16).toInt ≤ 2400 ∧ 2400 < (2401 : BitVec 16).toInt) ∧
    groupMedian 0 head = some 0 ∧
    (let s := at_ 47000000 (sensed 0 ⟨0, some 0, 0, 0, 0, some 96⟩ [])
     rawOf 0 s = (0 : BitVec 16).toInt ∧ (sensorOf 0 s).sameSince + ticksS 1 ≤ now s ∧ (sensorOf 0 s).sameMedian = some 96 ∧ 96 ≤ ((0 : Int) - 96).natAbs) ∧
    getF (pwrF Reg.Pwr.thmDisagree) head * 32 < (2 * (2000 : BitVec 16).toInt - 0).natAbs ∧
    (let s := sensed 0 ⟨0, some 0, 9, 1, 0, none⟩ []
     9 ≤ (sensorOf 0 s).apart ∧ 0 < (sensorOf 0 s).hot ∧ faulted 0 s = false) ∧
    (let s := sensed 64 ⟨0, some 0, 0, 1, 0, none⟩ []
     groupMedian 64 s = none ∧ tripLimit 64 ≤ (2400 : BitVec 16).toInt ∧ (100 : BitVec 16).toInt < tripLimit 64 ∧ 0 < (sensorOf 64 s).hot ∧ faulted 64 s = false) ∧
    (let s := at_ 470000000 (sensed 0 ⟨0, some 0, 0, 0, 0, none⟩ [])
     (sensorOf 0 s).lastAt + ticksMs 1 ≤ now s ∧ now (at_ 46999 s) < (sensorOf 0 s).lastAt + ticksMs 1 ∧ 0 + ticksS 10 ≤ now s) ∧
    (let s := withFields [(senF Reg.Pwr.senRaw 0, 1700), (pwrF (Reg.Pwr.regBand.at 4), 3), (regF Reg.Pwr.regLth 1, 4)] head
     0 < bandOf 1 s ∧ bandOf 1 s ≤ 4 ∧ (getF (pwrF Reg.Pwr.thmThrottle) s : Int) ≤ sourceReading 0 s ∧
     sourceReading 1 s < (getF (pwrF Reg.Pwr.thmThrottle) s : Int) - 32 ∧ leastLevel 0 s < 4) ∧
    (let s := at_ 47000000 { withFields [(pwrF (Reg.Pwr.regBand.at 4), 3)] head with pwr := { head.pwr with below := [(1, some 0)] } }
     0 < bandOf 1 s ∧ SMap.get dfltNone s.pwr.below 1 = some 0 ∧ 0 + ticksS 1 ≤ now s) := by
  decide +kernel

theorem witness_PowerLevels :
    1450000 < 1450001 ∧ 42000 < 42001 ∧ head.mnt.waiting = [] ∧ due head.pwr.overAt (ticksUs 100) head = true ∧
    getF (pwrF Reg.Pwr.limBucket) head * 1000000 ≤ 3000000000 ∧
    0 < lp (withFields [(pwrF Reg.Pwr.lp, 3)] head) ∧ 100 * 1000 + 50000000 < getF (pwrF Reg.Pwr.lim) head * 250000 ∧
    (let s := withFields [(senF Reg.Pwr.senRaw 64, 2300)] head
     waveHot s = some 8 ∧ getF (pwrF Reg.Pwr.waveLevel) s < 12 ∧ due s.pwr.waveUp (ticksMs 1) s = true) ∧
    (let s := withFields [(pwrF Reg.Pwr.waveLevel, 2)] head
     waveHot s = none ∧ 0 < getF (pwrF Reg.Pwr.waveLevel) s ∧ waveCool s = true ∧ due s.pwr.waveDown (ticksMs 10) s = true) ∧
    isSet Reg.Glb.mgmtFwRun State.reset = false ∧ isSet Reg.Glb.mgmtFwRun head = true ∧
    (let s := at_ 47001 head
     isSet Reg.Glb.ctrlRun s = true ∧ isSet Reg.Glb.hdrmStale s = false ∧ s.pwr.pubAt.getD 0 + ticksMs 1 < now s) ∧
    (let s := at_ 470 { withFields [(pwrF Reg.Pwr.coolant, 0x41F00000)] head with
      pwr := { head.pwr with coolantAt := some 0, pMean := 300000, pSum := 300000, pCount := 1, tCount := 1 } }
     coolantN s = some 30000000000 ∧ rthHeld s = false ∧ s.pwr.tCount ≠ 0) ∧
    coolantN (withFields [(pwrF Reg.Pwr.coolant, 0x7FC00000)] head) = none := by
  decide +kernel

/-- Requester 1 with accesses that wait. -/
def waiting (l : List RegAccess) (s : State) : State := { s with cfg := { s.cfg with reqs := [(1, ⟨[], [], l⟩)] } }

theorem witness_RegisterWrites :
    (ringRuns head = true ∧ ringRuns { head with pins := { head.pins with crystal := false } } = false) ∧
    reaches 0 (pwrBase + 4) State.reset = false ∧
    ([0, pwrBase + 4, schBase + 0x114, 0x110, pwrBase + 0x10, 0x10C].all fun off => reaches 1 off head) = true ∧ (1 ≠ 0) ∧
    (reqOf 1 head).queue = [] ∧ crossingOpen (schBase + 0x114) head = true ∧
    inWindow (schBase + 0x114) = false ∧ rootOnly (schBase + 0x114) = false ∧
    (reqOf 1 (waiting [⟨true, schBase + 0x114, 4, 0⟩] head)).queue ≠ [] ∧ crossingOpen (schBase + 0x114) State.reset = false ∧
    isSet Reg.Glb.ensReject (withFields [(Reg.Glb.ensReject, 1)] head) = true ∧
    isSet Reg.Glb.imageActive head = true ∧ isSet Reg.Glb.imageActive State.reset = false ∧ 5 ≠ getF (pwrF Reg.Pwr.hdrmAddr) head := by
  decide +kernel

theorem witness_PairsAndHungAccesses :
    isPairLo 0x61 = false ∧ isPairLo 0x60 = true ∧ isPairHi 0x60 = false ∧ ringRuns head = true ∧
    reaches 0 0x62008 State.reset = false ∧ reaches 1 0x60 head = true ∧ hostStalled head = false ∧
    getF Reg.Glb.ensAddr head ≠ 0x1_0000_0100 ∧ getF Reg.Glb.ensState (withFields [(Reg.Glb.ensState, 2)] head) = 2 ∧
    ¬ (getF Reg.Glb.ensState head = 1 ∨ getF Reg.Glb.ensState head = 2 ∨ isSet Reg.Glb.ensAmend head = true) ∧ head.cfg.posted = [] ∧
    (let a : RegAccess := ⟨true, schBase + 0x114, 4, 600⟩
     let s := waiting [a] State.reset
     (reqOf 1 s).queue = a :: [] ∧ crossingOpen a.off s = false ∧ stoppedClock 1 s = some 8 ∧ crossingOpen a.off (waiting [a] head) = true ∧
     stoppedClock 1 head = none) := by
  decide +kernel

theorem witness_PeerIdentities :
    isMirrored mirrored = true ∧ isMirrored head = false ∧ portState 3 (port 3 5 [] id head) = 5 ∧
    getF (Reg.Lnk.topoSlot.at lnkBase) (withFields [(Reg.Lnk.topoSlot.at lnkBase, 3)] head) = 3 ∧ 41 % 16 = 9 := by
  decide +kernel

theorem witness_GrantsHeldAndAged :
    (let q : MntReq := ⟨.spareProg 3, 0, false, true⟩
     let s := at_ (47000000 * 10 + 1) { head with mnt := ⟨[q], []⟩ }
     (s.mnt.waiting.find? fun x => x.act = .spareProg 3) = some q ∧ q.arrival + ticksS (getF (Reg.Pwr.mntAge.at pwrBase) s) < now s) ∧
    goesOn (.maintRequest .compaction) head = true ∧ isSet Reg.Glb.arbHold (withFields [(Reg.Glb.arbHold, 1)] head) = true ∧
    0 < lp (withFields [(pwrF Reg.Pwr.lp, 3)] head) ∧
    getF (Reg.Pwr.mntAllow.at pwrBase) (withFields [(Reg.Pwr.mntAllow.at pwrBase, 0)] head) * 250 <
      claims { head with mnt := ⟨[], [⟨.resync, [], 2000⟩]⟩ } := by
  decide +kernel

theorem witness_StoresKeepTheirForm :
    (match Machine.step head with | .next t => t.ltime == 1 && t.pending == [] | _ => false) = true ∧
    Memory.wf head = true ∧ registersWf head = true ∧ SMap.wf dfltByte head.host.mem = true := by
  decide +kernel

theorem witness_EveryCommandRuns : wellFormed .glbFltpop = true ∧ wellFormed (.railFault 6) = false ∧
    ({ head with pending := [.glbFltpop] } : State).pending.all wellFormed = true := by
  decide +kernel


/-! ### Ill-formed commands, one for each check -/

/-- A wait from a port. -/
def waitFrom (p : Nat) : WaitSpec := ⟨p, 0, .ge, 0, false, false, .vectorUnit, 0, none⟩

/-- Register, SRAM, BAR2, flag and engine commands, one for each check of WellFormed that fails. -/
def illFormedA : List Instr :=
  [.registerWrite 0 0 0 0 .good, .registerWrite 0 0 65 0 .good, .pairLoRead 0 0 .good, .pairHiWrite 0 0 0 .good,
   .sramAccess 57 0 (.read 8) .clean .arrived .data none none, .sramAccess 0 0 (.read 0) .clean .arrived .data none none,
   .sramAccess 0 250 (.read 8) .clean .arrived .data none none, .bar2Write 0 [], .bar2Write 0 (List.replicate 65 0),
   .bar2Read 0 0, .bar2Read 0 65, .flagRead 57 0 none, .flagSet 57 0 0 none, .flagAdd 57 0 0 none, .cpost 57 0 1 none,
   .ctake 57 0 1 none, .wait (waitFrom 57), .delayLineCount 0 133 0, .stepCompose ⟨false, 4, [], [], [], [], [], [], [], [], []⟩,
   .buntingVector 0 0 ⟨0, false, 0, 0, 0⟩ 0 1048576 [] (.delta 0 0) .clean, .promptEntry 8 ⟨0, 0, 0, 0, 0, 0, 0, 0, 0, 0, 0⟩ []]

/-- Link commands, one for each check of WellFormed that fails. -/
def illFormedB : List Instr :=
  [.nakResend 20, .linkEnable 20, .linkDisable 20, .linkRetrain 20, .lightWindow 20 0, .lightLowTimeout 20, .laneLock 20,
   .deskew 20 0, .fecLock 20, .peerIdentity 20 0 0 0 [0, 0, 0, 0], .peerIdentity 0 0 0 0 [0, 0, 0], .trainingAttemptTimeout 20,
   .downRetry 20, .laneUnlock 20, .heartbeatTimer 20, .flitTime 20, .activationVectors 20 ⟨0, false, false, 0, 0, 0, 0, 0, 0, .empty⟩,
   .flitReceive 20 ⟨⟨0, 0, true, false, 0, 0, 0⟩, 0, false, []⟩]

/-- Host, clock, queue, power and lifetime commands, one for each check of WellFormed that fails. -/
def illFormedC : List Instr :=
  [.ringDoorbell 11 0, .tenantKey ⟨false, 0, 0, 0⟩ true (List.replicate 255 0) none, .ringEnableWrite 11 true,
   .coalescingTimeout 11, .cxlLinkReturn 5 false, .getMeasurements (List.replicate 31 0), .clockAbsenceTimeout 31,
   .clockPresenceWindow 31 0, .crossingReset 31 true, .crossingResync 31, .sqPacketWrite 0 [], .sqPacketWrite 0 (List.replicate 33 0),
   .railPowerGood 6, .railFault 6, .railPowerGoodLoss 6, .sensorSample 72 none, .sensorSilentTimeout 72, .sensorFaultClear 72,
   .lifRead 0 0, .lifRead 0 257]

/-- All of them. -/
def illFormed : List Instr := illFormedA ++ (illFormedB ++ illFormedC)

theorem test_illFormed_refused : illFormed.all (fun c => !wellFormed c) = true := by decide +kernel

theorem test_illFormed_faults : illFormed.all (fun c => faults c State.reset) = true := by decide +kernel

/-- A streamed record of more than 1 MiB is no load of a bank. -/
theorem test_illFormed_streamed (l : List Byte) (h : l.length = 1048577) :
    wellFormed (.bankLoadDone 0 false true l) = false := by
  show decide (l.length ≤ 1048576) = false
  rw [h]; rfl

/-- At the last value of each range. -/
def lastFormed : List Instr :=
  [.registerWrite 0 0 64 0 .good, .sramAccess 56 248 (.read 8) .clean .arrived .data none none, .bar2Write 0 (List.replicate 64 0),
   .bar2Read 0 64, .flagRead 56 0 none, .delayLineCount 0 132 0, .linkEnable 19, .ringDoorbell 10 0, .coalescingTimeout 10,
   .clockAbsenceTimeout 30, .cxlLinkReturn 16 false, .sqPacketWrite 0 (List.replicate 32 0), .railPowerGood 5, .sensorSample 71 none,
   .lifRead 0 256]

theorem test_lastFormed_accepted : lastFormed.all (fun c => wellFormed c && goesOn c State.reset) = true := by decide +kernel

/-! ### Witness of the step from the queue -/

theorem witness_StepFromQueue : ({ head with pending := [] } : State).pending = [] := rfl


/-! ### Small tests: expected values are the spec's own worked examples and tables -/

/-- FP32 bits of a decimal, as the spec's examples give values. -/
def dec (num den : Nat) : Nat := encodeFrac fp32 num den 0

/-- Chapter 4, value projection, step 1: a = 0.2463 gives E = −9, and 0.1381 becomes 71. -/
theorem test_inputExp_valueProjection :
    inputExp 127 (f32 (dec 2463 10000)) = -9 ∧ quantise 127 (-9) (f32 (dec 1381 10000)) = 71 := by decide +kernel

/-- Chapter 5, gated column, step 7: 3.25 gives E = −1 at A4 and −5 at A8; −0.34375 becomes −1 and −11. -/
theorem test_inputExp_gatedColumn :
    inputExp 7 (f32 (dec 325 100)) = -1 ∧ quantise 7 (-1) (.fin true 11 (-5)) = -1 ∧
    inputExp 127 (f32 (dec 325 100)) = -5 ∧ quantise 127 (-5) (.fin true 11 (-5)) = -11 := by decide +kernel

/-- Chapter 4, step 3: seven groups of two arrays with FS = 103 at A8 promote to ACC-W = 63,253,536. -/
theorem test_promotion_valueProjection :
    ([28332, 10728, -4511, 17906, -9287, 2044, -6830] : List Int).foldl (fun w n => w + n * 103 * 2 ^ (4 - widthF 2)) 0 =
      63253536 := by decide

/-- Chapter 4, step 4: E = −9, X = 121, m = 1.1875 give a scale product of 2^−23 × 1.1875. -/
theorem test_scaleProduct_valueProjection :
    scaleProduct (-9) ⟨121, encodeFrac fp16 11875 10000 0, 0⟩ =
      (encodeFrac fp32 11875 10000 (-23), false) := by decide +kernel

/-- Chapter 4, step 6: a block whose largest magnitude is 11.3 has X = 128 at FP4. -/
theorem test_blockScale_fp4 : blockScale 7 [f32 (dec 113 10)] = 128 := by decide +kernel

/-- Chapter 4, step 7: 4.477118 rounds up to 6.0 (code 7) when r < 0.238559 × 2^32, otherwise down to 4.0 (code 6). -/
theorem test_stochastic_fp4 :
    (toFloat e2m1 (.sr 1024600000) (f32 (dec 4477118 1000000))).1 = 7 ∧
    (toFloat e2m1 (.sr 1024620000) (f32 (dec 4477118 1000000))).1 = 6 := by decide +kernel

/-- Chapter 5, steps 4 and 5: a block of FP8 E4M3 with 2.75 and −0.358984 has X = 120, and the elements are 352 and −44. -/
theorem test_convBlock_e4m3 :
    convBlock 10 false 0 0 [f32 (dec 275 100), negV (f32 (dec 358984 1000000))] =
      ⟨[encodeFrac e4m3 352 1 0, signed e4m3 true (encodeFrac e4m3 44 1 0)], [120], 0, 0, 0⟩ := by decide +kernel

/-- R106, R451: 2^−127 is the least E8M0 value and NaN is 0xFF. -/
theorem test_e8m0 : toE8m0 (.fin false 1 (-127)) = (0, false) ∧ toE8m0 (.fin false 1 127) = (254, false) ∧
    toE8m0 (.nan false) = (255, false) := by decide

/-- Chapter 2, every row at full scale: 124 slots per slice, so 496 at A8 and 248 at A4. -/
theorem test_clipSplit_slots :
    (winRead (fun _ _ _ => 127) (fun _ v => v) (rowsDepth 1024) 0 [0]).wins.length * 4 * widthSlices 2 = 496 ∧
    (winRead (fun _ _ _ => 127) (fun _ v => v) (rowsDepth 1024) 0 [0]).wins.length * 4 * widthSlices 1 = 248 := by decide +kernel

/-- Chapter 2, confidence check: a sample whose data columns of group 5 sum to `s` and whose checksum column is `c`, in
1/64 LSB. -/
def sample5 (s c : Int) : Sample := ⟨[(160, s, 1), (517, c, 1)], [], false, false⟩

/-- The gate-projection array: FS = 103, THRESH = 3 LSB, E = −1,514. -/
def check5 (s c : Int) : Option Bool :=
  groupCheck ⟨2, 1024, 103, 24, 3, [], [], none, false⟩ [(5, -1514)] [1] [sample5 s c] 5

/-- Δ = 0.53 passes, Δ = 4.63 fails. -/
theorem test_confidence_example : check5 11987 6726 = some true ∧ check5 13037 6726 = some false := by decide +kernel

/-- Chapter 3, the shift of 2.90 LSB on the checksum converter passes the confidence check: Δ = −2.40. -/
theorem test_confidence_shift : check5 11987 6914 = some true := by decide +kernel

/-- Chapter 5, norm watch, with q = 4.0, α = 8 and r2 = 38.6: 171.2 is beyond 154.4. -/
theorem test_watch_threshold :
    ltF32 (mulF32 (toF32 (.fin false 0x40 (-4))) (dec 386 10)) (dec 1712 10) = true ∧
    limitF32 0 (mulF32 (toF32 (.fin false 0x40 (-4))) (dec 386 10)) (dec 1712 10) = dec 1544 10 := by decide +kernel

/-- A sequence at the depth controller's start, with KMAX = 8. -/
def seq8 : SeqRec := { dfltSeq 5 with kmax := 8, rate := 0x3A00 }

/-- Chapter 8: the admission depth is 4. -/
theorem test_depth_admission : nextDepth seq8 State.reset = 4 := by decide +kernel

/-- Chapter 8: four steps with no accepted draft give depths 3, 2, 2 and then 0 with the controller off. -/
theorem test_depth_disagrees :
    let a := (depthUpdate seq8 4 0 State.reset).1
    let b := (depthUpdate a 3 0 State.reset).1
    let c := (depthUpdate b 2 0 State.reset).1
    let d := (depthUpdate c 2 0 State.reset).1
    ([a, b, c, d].map fun r => (nextDepth r State.reset, r.zeros, r.off)) = [(3, 1, false), (2, 2, false), (2, 3, false), (0, 0, true)] := by
  decide +kernel

/-- Chapter 15: a meter second of 1,032 J over tenants 1207 and 88 and relayed bytes. Kinds of Table 15-2: 0 array slots,
1 bunting multiply-adds in units of 1,024, 5 halyard bytes, 6 link bytes, 8 hot blocks. -/
def secondCounts : SMap Nat :=
  [(88 * 16, 100000000000), (88 * 16 + 1, 128000000000000), (88 * 16 + 5, 100000000000), (88 * 16 + 8, 135000),
   (1207 * 16, 180000000000), (1207 * 16 + 5, 400000000000), (1207 * 16 + 8, 140000), (0xFFFF * 16 + 6, 20000000000)]

/-- Chapter 15: 619,200,000 µJ, 411,871,200 µJ and 928,800 µJ. -/
theorem test_apportion_example :
    ((apportion State.reset.mtr.params secondCounts 1032000000).2.map fun x => (x.1, x.2.1)) =
      [(88, 411871200), (1207, 619200000), (0xFFFF, 928800)] := by decide +kernel

/-- Chapter 18: array 9 of pennant 3 in hoist 20. -/
theorem test_addresses :
    pntBase (20 * 16 + 3) + 0x80 + 4 * 9 = 0x24130A4 ∧ pntBase (20 * 16 + 3) + 0x40 + 4 * 9 = 0x2413064 ∧
    vecBase 20 + 0x40 = 0x2480040 ∧ bntBase 41 = 0x2491000 := by decide

/-- Chapter 18: the host reads LO of SCH_LASTSTEP, the step commits, management firmware reads LO, the host reads HI. -/
theorem test_pair_latches :
    let s := setF (Reg.Sch.lastStep.at schBase) 0x1FFFFFFFF head
    let off := BitVec.ofNat 26 (Reg.Sch.lastStep.at schBase).off
    let s := after (.pairLoRead 0 off .good) s
    let lo := s.answer
    let s := after (.pairLoRead 1 off .good) (setF (Reg.Sch.lastStep.at schBase) 0x200000000 s)
    (lo, s.answer, SMap.get dfltZero (reqOf 0 s).latches off.toNat, SMap.get dfltZero (reqOf 1 s).latches off.toNat) =
      (.value 0xFFFFFFFF, .value 0, 1, 2) := by decide +kernel

/-- Queue 5 of chapter 13: summaries of two words, LEVEL = 4. -/
def queue5 : State := after (.sqLevelWrite 5 4) (after (.sqEnableWrite 5 true) head)

/-- Entries, settled entries and LVL of queue 5. -/
def queue5Of (s : State) : Nat × Nat × Nat := ((sqOf 5 s).length, sqReady (sqOf 5 s), getF (Reg.Sq.lvl.at (sqBase 5)) s)

/-- Chapter 13: the first four rows of the table of queue 5. -/
theorem test_sq_summary :
    let a := after (.sqPacketWrite 5 [1, 2]) queue5
    let b := after (.sqEntrySettle 5) (after (.sqEntrySettle 5) a)
    let c := after (.sqEntrySettle 5) (after (.sqEntrySettle 5) (after (.sqPacketWrite 5 [3, 4]) b))
    let d := after (.sqDataRead 5) c
    [queue5Of a, queue5Of b, queue5Of c, queue5Of d] = [(2, 0, 0), (2, 2, 0), (4, 4, 1), (3, 3, 1)] := by decide +kernel

end Sys2Proof.Tests
end

/-! How every command ends, by its well-formedness, and that a run from a queue of well-formed commands never stops. -/

namespace Sys2Proof.Safety
open Sys2Proof Sys2Proof.Machine

/-! ### How a command ends -/

/-- A command ends in a next state that keeps the waiting queue and the form of the three memories, where the part can be
given it (`true`), and in a fault where it cannot (`false`); it is never refused. -/
inductive Ends (s : State) : Bool → Host.Outcome State Fault Refusal → Prop where
  | next {t : State} (h : Keeps s t) : Ends s true (.next t)
  | fault (r : Fault) : Ends s false (.fault r)

section Checks
variable {s t : State} {b : Bool} {c : Prop} [Decidable c] {r : Fault} {x : Host.Outcome State Fault Refusal} {n m : Nat}

/-- A check that an operand passes where the command is well-formed. -/
theorem Ends.when (hc : b = true ↔ c) (h : Keeps s t) : Ends s b (if c then .next t else .fault r) := by
  by_cases hp : c
  · rw [if_pos hp, hc.2 hp]
    exact .next h
  · rw [if_neg hp, Bool.eq_false_iff.2 fun hb => hp (hc.1 hb)]
    exact .fault r

/-- A check that an operand fails where the command is well-formed. -/
theorem Ends.unless (hc : b = true ↔ ¬ c) (h : Keeps s t) : Ends s b (if c then .fault r else .next t) := by
  rw [← ite_not]
  exact .when hc h

/-- The check that a number names one of the units 0 to `m`. -/
theorem Ends.unit (h : Keeps s t) : Ends s (decide (n ≤ m)) (if m < n then .fault r else .next t) :=
  .unless (decide_eq_true_iff.trans Nat.not_lt.symm) h

/-- The check that a length `k` is above 0 and that `n`, which holds it, is at most `m`. -/
theorem Ends.length {k : Nat} (h : Keeps s t) :
    Ends s (decide (0 < k ∧ n ≤ m)) (if k = 0 ∨ m < n then .fault r else .next t) :=
  .unless (decide_eq_true_iff.trans (by omega)) h

/-- The check that a register access takes 1 to 64 bytes. -/
theorem Ends.size {k : BitVec 7} (h : Keeps s t) :
    Ends s (decide (0 < k.toNat ∧ k.toNat ≤ 64)) (if k = 0 ∨ 64 < k.toNat then .fault r else .next t) :=
  .unless (decide_eq_true_iff.trans (by bv_omega)) h

/-- The check of a unit before another check. -/
theorem Ends.unitAnd (h : Ends s b x) : Ends s (decide (n ≤ m) && b) (if m < n then .fault r else x) := by
  by_cases hn : m < n
  · rw [if_pos hn, decide_eq_false (Nat.not_le.2 hn), Bool.false_and]
    exact .fault r
  · rw [if_neg hn, decide_eq_true (Nat.not_lt.1 hn), Bool.true_and]
    exact h

theorem Ends.exists_next (h : Ends s true x) : ∃ t, x = .next t ∧ Keeps s t := by
  cases h with
  | next hk => exact ⟨_, rfl, hk⟩

theorem Ends.exists_fault (h : Ends s false x) : ∃ r, x = .fault r := by
  cases h with
  | fault r => exact ⟨r, rfl⟩

end Checks

/-- Every command ends by its well-formedness, in every state: each arm names the operation's own law. -/
theorem exec_ends (c : Instr) (s : State) : Ends s (wellFormed c) (exec c s) := by
  have hs := Keeps.refl s
  cases c with
  | registerWrite => exact .size (keeps_regAccess _ _ _ hs)
  | pairLoRead => exact .when Iff.rfl (keeps_regAccess _ _ _ hs)
  | pairHiWrite => exact .when Iff.rfl (keeps_regAccess _ _ _ hs)
  | hungAccessResume => exact .next (keeps_hungAccessResume _ hs)
  | glbRingabort => exact .next (keeps_glbRingabort _ hs)
  | sramAccess => exact .unitAnd (.length (keeps_sramAccess _ _ _ _ _ _ _ _ hs))
  | bar2Write => exact .length (keeps_bar2Write _ _ hs)
  | bar2Read => exact .length (keeps_bar2Read _ _ hs)
  | flagRead => exact .unit (keeps_flagRead _ _ _ hs)
  | flagSet => exact .unit (keeps_flagSet _ _ _ _ hs)
  | flagAdd => exact .unit (keeps_flagAdd _ _ _ _ hs)
  | cpost => exact .unit (keeps_cpost _ _ _ _ hs)
  | ctake => exact .unit (keeps_ctake _ _ _ _ hs)
  | wait => exact .unit (keeps_waitOp _ hs)
  | waitWake => exact .next (keeps_waitWake _ hs)
  | waitPoll => exact .next (keeps_waitPoll _ hs)
  | quantiseVector => exact .next (keeps_quantiseVector _ _ _ hs)
  | arrayRead => exact .next (keeps_arrayRead _ _ _ _ _ hs)
  | sliceRetry => exact .next (keeps_sliceRetry _ _ hs)
  | suspectWindowEnd => exact .next (keeps_suspectWindowEnd _ hs)
  | dwellEnd => exact .next (keeps_dwellEnd _ hs)
  | checkStandinStart => exact .next (keeps_standinStart _ hs)
  | checkStandinEnd => exact .next (keeps_standinEnd _ hs)
  | outputVector => exact .next (keeps_outputVector _ _ _ hs)
  | gatedPartnerVector => exact .next (keeps_gateMeet _ hs)
  | adapterDelta => exact .next (keeps_adapterDelta _ _ _ hs)
  | pntAccselWrite => exact .next (keeps_accSelWrite _ _ hs)
  | accSnapshot => exact .next (keeps_accSnapshot _ hs)
  | pntActdataAccess => exact .next (keeps_actDataAccess _ _ hs)
  | watchRestart => exact .next (keeps_updPnt _ _ hs)
  | calForce => exact .next (keeps_calForce _ hs)
  | convEnable => exact .next (keeps_convEnable _ _ hs)
  | referenceReading => exact .next (keeps_referenceReading _ _ _ hs)
  | delayLineCount => exact .unit (keeps_delayLineCount _ _ _ hs)
  | calibrationCycleEnd => exact .next (keeps_calibrationCycleEnd _ _ _ hs)
  | initialCalibrationEnd => exact .next (keeps_initialCalibrationEnd hs)
  | calibrationAgeLimit => exact .next (keeps_calibrationAgeLimit _ hs)
  | hoistGateRampDone => exact .next (keeps_gateRampDone _ _ hs)
  | maintRequest => exact .next (keeps_maintRequest _ hs)
  | maintActivityEnd => exact .next (keeps_activityEnd _ hs)
  | maintAge => exact .next (keeps_ageReq _ hs)
  | arrayProgramDone => exact .next (keeps_programDone _ _ hs)
  | relaxEnd => exact .next (keeps_relaxEnd _ hs)
  | readbackDone => exact .next (keeps_readbackDone _ _ _ hs)
  | diagnosticReadDone => exact .next (keeps_diagnosticDone _ _ hs)
  | startupCheckDone => exact .next (keeps_startupDone _ _ hs)
  | driftAgeTick => exact .next (keeps_driftTick hs)
  | scrubPass => exact .next (keeps_scrubPass _ _ _ hs)
  | lifetimeSnapshot => exact .next (keeps_lifetimeSnapshot hs)
  | promptEntry => exact .unit (keeps_promptEntry _ _ _ hs)
  | stepCompose => exact .unit (keeps_atPlan _ (keeps_stepCompose _ hs))
  | stepPlan => exact .next (keeps_atPlan _ (keeps_stepPlan _ _ (keeps_hear _ hs)))
  | stepBoundary => exact .next (keeps_stepBoundary _ hs)
  | commitIdleApply => exact .next (keeps_commitIdle hs)
  | operationList => exact .next (keeps_operationList _ _ _ _ _ hs)
  | buntingVector => exact .unless (decide_eq_true_iff.trans Nat.not_le.symm) (keeps_buntingVector _ _ _ _ _ _ _ _ hs)
  | bankLoadDone => exact .unit (keeps_bankLoadDone _ _ _ _ hs)
  | partialRecord => exact .next (keeps_partialRecord _ _ _ (keeps_hear _ hs))
  | stepCommit => exact .next (keeps_stepCommit _ hs)
  | stepFail => exact .next (keeps_ite (keeps_failStep _ _ _ hs) hs)
  | stepTimeout => exact .next (keeps_stepTimeout _ hs)
  | headroomStaleTimeout => exact .next (keeps_headroomStale hs)
  | cxlFetchDone => exact .next (keeps_fetchDone _ _ _ _ _ _ hs)
  | blockCopyDone owner =>
    cases owner with
    | none => exact .next (keeps_copyDone _ _ _ _ _ hs)
    | some pod => exact .next (keeps_lentCopyDone _ _ _ _ _ hs)
  | idleTimeout => exact .next (keeps_idleTimeout _ hs)
  | pauseExpiry => exact .next (keeps_pauseExpiry _ _ hs)
  | wgtInstall => exact .next (keeps_wgtInstall _ hs)
  | wgtAttach => exact .next (keeps_wgtAttach _ hs)
  | wgtRelease => exact .next (keeps_wgtRelease _ hs)
  | wgtAbort => exact .next (keeps_wgtAbort _ hs)
  | addSpare => exact .next (keeps_addSpare _ hs)
  | imageComponentRead => exact .next (keeps_componentRead _ _ _ hs)
  | sourceRetry => exact .next (keeps_sourceRetry _ _ _ hs)
  | imageComponent => exact .next (keeps_imageComponent _ _ hs)
  | resendRequest => exact .next (keeps_resendRequest _ _ _ hs)
  | ensLoad => exact .next (keeps_ensLoad _ hs)
  | ensDeactivate => exact .next (keeps_ensDeactivate hs)
  | ensAbort => exact .next (keeps_ensAbort hs)
  | ensVerifyEnd => exact .next (keeps_verifyEnd hs)
  | ensApplyEnd => exact .next (keeps_applyEnd _ hs)
  | commitGo => exact .next (keeps_commitGo _ hs)
  | commitGoAt => exact .next (keeps_commitGoAt _ hs)
  | commitDiscard => exact .next (keeps_commitDiscard hs)
  | flitReceive => exact .unit (keeps_flitReceive _ _ hs)
  | nakResend => exact .unit (keeps_nakResend _ hs)
  | linkEnable => exact .unit (keeps_linkEnable _ hs)
  | linkDisable => exact .unit (keeps_linkDisable _ hs)
  | linkRetrain => exact .unit (keeps_linkRetrain _ hs)
  | lightWindow => exact .unit (keeps_lightWindow _ _ hs)
  | lightLowTimeout => exact .unit (keeps_lightLow _ hs)
  | laneLock => exact .unit (keeps_laneLock _ hs)
  | deskew => exact .unit (keeps_deskew _ _ hs)
  | fecLock => exact .unit (keeps_fecLock _ hs)
  | peerIdentity => exact .unitAnd (.when decide_eq_true_iff (keeps_peerIdentity _ _ _ _ _ hs))
  | trainingAttemptTimeout => exact .unit (keeps_attemptTimeout _ hs)
  | downRetry => exact .unit (keeps_downRetry _ hs)
  | laneUnlock => exact .unit (keeps_laneUnlock _ hs)
  | lightInputLoss => exact .next (keeps_lightLoss _ _ hs)
  | lightInputReturn => exact .next (keeps_setF _ _ hs)
  | activationVectors => exact .unit (keeps_activationVectors _ _ hs)
  | draftProposals => exact .next (keeps_draftProposals _ _ _ _ hs)
  | peerTierQuery => exact .next (keeps_peerQuery _ _ _ _ _ _ _ _ _ _ _ _ _ hs)
  | blockCopy => exact .next (keeps_blockCopy _ _ _ _ _ hs)
  | mirroredEntries => exact .next (keeps_mirroredEntries _ _ _ hs)
  | mirroredSequenceRecords => exact .next (keeps_mirroredRecords _ _ _ hs)
  | commitReady => exact .next (keeps_commitReady _ _ (keeps_hear _ hs))
  | acceptance => exact .next (keeps_acceptance _ _ (keeps_hear _ hs))
  | commitMessage => exact .next (keeps_commitMessage _ _ (keeps_hear _ hs))
  | abortMessage => exact .next (keeps_ite hs (keeps_abortLocal _ (keeps_hear _ hs)))
  | headroomMessage => exact .next (keeps_headroomMessage _ _ _ _ _ _ hs)
  | forwardedEvent => exact .next (keeps_forwardedEvent _ _ hs)
  | mirrorAcknowledgement => exact .next (keeps_mirrorAcknowledged _ (keeps_hear _ hs))
  | heartbeat => exact .next (keeps_hear _ hs)
  | heartbeatTimer => exact .unit (keeps_heartbeatTimer _ hs)
  | discard => exact .next (keeps_discard _ _ hs)
  | routeSwitch => exact .next (keeps_switchPos _ (keeps_hear _ hs))
  | lossTimeout => exact .next (keeps_lossTimeout _ _ hs)
  | mirrorRecordWrite => exact .next (keeps_mirrorRecordWrite _ _ hs)
  | resyncComplete => exact .next (keeps_resyncComplete hs)
  | reclaim => exact .next (keeps_reclaim hs)
  | lost => exact .next (keeps_ite (keeps_declareLost _ hs) hs)
  | handback => exact .next (keeps_handback hs)
  | handbackDone => exact .next (keeps_ite (keeps_setF _ _ (keeps_upd hs rfl)) hs)
  | ringDoorbell => exact .unit (keeps_ringDoorbell _ _ hs)
  | tenantSet => exact .next (keeps_tenantSet _ _ hs)
  | classSet => exact .next (keeps_classSet _ _ _ _ hs)
  | release => exact .next (keeps_release _ hs)
  | pause => exact .next (keeps_pause _ _ hs)
  | resume => exact .next (keeps_resume _ hs)
  | arrayQueue => exact .next (keeps_runCommand _ _ _ hs fun _ ht => keeps_arrayQueue _ ht)
  | stageCopy => exact .next (keeps_stageCopy _ _ _ _ hs)
  | stageCopyDone => exact .next (keeps_stageCopyDone _ _ _ _ hs)
  | tenantKey =>
    exact .unless (decide_eq_true_iff.trans Decidable.not_not.symm)
      (keeps_runCommand _ _ _ hs fun _ ht => keeps2_ite (keeps_tenantKey _ _ _ ht) ht)
  | fence => exact .next (keeps_fence _ hs)
  | undefinedCommand => exact .next (keeps_undefinedCommand _ _ hs)
  | ringEnableWrite => exact .unit (keeps_ringEnable _ _ hs)
  | eventQueueDrain => exact .next (keeps_drainQueue hs)
  | coalescingTimeout => exact .unit (keeps_coalesce _ hs)
  | cxlLinkLoss => exact .next (keeps_linkLost hs)
  | cxlLinkReturn => exact .when decide_eq_true_iff (keeps_linkReturn _ _ hs)
  | uioCompletion => exact .next (keeps_uioCompletion _ _ hs)
  | uioTimeout => exact .next (keeps_uioTimeout _ hs)
  | ideIntegrityFailure => exact .next (keeps_ideFailure hs)
  | ideKeyManagement => exact .next (keeps_ideKeys hs)
  | getMeasurements => exact .when decide_eq_true_iff (keeps_getMeasurements _ hs)
  | clockAbsenceTimeout => exact .unit (keeps_clockAbsence _ hs)
  | clockPresenceWindow => exact .unit (keeps_clockWindow _ _ hs)
  | crossingReset => exact .unit (keeps_crossingReset _ _ hs)
  | crossingResync => exact .unit (keeps_crossingResync _ hs)
  | sqPacketWrite => exact .length (keeps_sqWrite _ _ hs)
  | sqEntrySettle => exact .next (keeps_sqSettle _ hs)
  | sqDataRead => exact .next (keeps_sqDataRead _ hs)
  | sqLevelWrite => exact .next (keeps_sqLevelWrite _ _ hs)
  | sqDrop => exact .next (keeps_sqDrop _ hs)
  | sqFlush => exact .next (keeps_sqFlush _ hs)
  | sqEnableWrite => exact .next (keeps_sqEnable _ _ hs)
  | deadlockFault => exact .next (keeps_deadlockFault _ _ hs)
  | deadlockFreezeLift => exact .next (keeps_freezeLift hs)
  | vinRise => exact .next (keeps_vinRise _ hs)
  | vinLoss => exact .next (keeps_vinLoss _ hs)
  | railPowerGood => exact .unit (keeps_railGood _ hs)
  | railFault => exact .unit (keeps_railFault _ hs)
  | droopTrip => exact .next (keeps_droopTrip _ hs)
  | droopRelease => exact .next (keeps_droopRelease _ _ hs)
  | sensorSample => exact .unit (keeps_sensorSample _ _ hs)
  | sensorSilentTimeout => exact .unit (keeps_sensorSilent _ hs)
  | sensorFaultClear => exact .unit (keeps_sensorClear _ hs)
  | thermalUpdate => exact .next (keeps_thermalUpdate hs)
  | bandFall => exact .next (keeps_bandFall _ hs)
  | powerSample => exact .next (keeps_powerSample _ _ _ hs)
  | waveLevelUpdate => exact .next (keeps_waveLevelUpdate hs)
  | waveHoldRelease => exact .next (keeps_waveHoldRelease _ hs)
  | headroomPublish => exact .next (keeps_headroomPublish hs)
  | rthUpdate => exact .next (keeps_rthUpdate hs)
  | meterPowerOn => exact .next (keeps_meterPowerOn _ hs)
  | meterPowerFall => exact .next (keeps_meterPowerFall _ hs)
  | activityIntervalClose => exact .next (keeps_intervalClose hs)
  | counterFrame => exact .next (keeps_counterFrame _ hs)
  | meterSecond => exact .next (keeps_meterSecond _ _ _ _ hs)
  | totalsSave => exact .next (keeps_ite (keeps_updMtr _ hs) hs)
  | readRecord => exact .next (keeps_readRecord _ _ hs)
  | readTotals => exact .next (keeps_readTotals _ _ hs)
  | readParams => exact .next (keeps_readParams _ _ hs)
  | readStatus => exact .next (keeps_readStatus _ hs)
  | sealNonce => exact .next (keeps_sealNonce hs)
  | sealApply => exact .next (keeps_sealApply _ _ _ hs)
  | sealCopyProgrammed => exact .next (keeps_sealCopyProgrammed _ hs)
  | sealNonceExpiry => exact .next (keeps_sealNonceExpiry hs)
  | attest => exact .next (keeps_secCommand _ hs)
  | attestReport => exact .next (keeps_attestReport _ hs)
  | newnonce => exact .next (keeps_secCommand _ hs)
  | enroll => exact .next (keeps_secCommand _ hs)
  | revoke => exact .next (keeps_secCommand _ hs)
  | commitSvn => exact .next (keeps_secCommand _ hs)
  | debugUnlock => exact .next (keeps_secCommand _ hs)
  | revokeFwkey0 => exact .next (keeps_secCommand _ hs)
  | getCert => exact .next (keeps_secCommand _ hs)
  | glbFltpop => exact .next (keeps_fltPop hs)
  | lifRead => exact .length (keeps_lifRead _ _ hs)
  | resetNAssert => exact .next (keeps_conventionalReset hs)
  | resetNRelease => exact .next (keeps_resetRelease _ _ hs)
  | bootRomEnd => exact .next (keeps_bootRomEnd _ _ _ hs)
  | podAddressWrite => exact .next (keeps_podAddressWrite _ _ hs)
  | checkingEnd => exact .next (keeps_checkingEnd hs)
  | lightingEnd => exact .next (keeps_lightingEnd hs)
  | mgmtCoreRestart => exact .next (keeps_mgmtRestart _ hs)
  | sequencerHalt => exact .next (keeps_seqHalt _ hs)
  | flitTime => exact .unit (keeps_flitTime _ hs)
  | railPowerGoodLoss => exact .unit (keeps_railGoodLoss _ hs)
  | crystalStop => exact .next (keeps_crystalStop hs)
  | managementFirmwareRunsAgain => exact .next (keeps_mgmtAgain hs)
  | sequencerCoreRunsAgain => exact .next (keeps_seqAgain _ hs)

/-! ### A step, and a run -/

section Runs
variable {s t : State} {c : Instr}

theorem exec_next (hc : wellFormed c = true) (s : State) : ∃ t, exec c s = .next t ∧ Keeps s t :=
  (hc ▸ exec_ends c s).exists_next

theorem exec_fault (hc : wellFormed c = false) (s : State) : ∃ r, exec c s = .fault r :=
  (hc ▸ exec_ends c s).exists_fault

theorem idle_pending (s : State) : (idle s).pending = s.pending := by
  unfold idle
  split <;> rfl

/-- The invariant of a run: a step from a state whose queue holds well-formed commands answers a next state whose queue
holds such commands again. -/
theorem step_keeps_queueOk (h : queueOk s) : ∃ t, step s = .next t ∧ queueOk t := by
  unfold step
  cases hp : s.pending with
  | nil => exact ⟨idle s, rfl, by rwa [queueOk, idle_pending]⟩
  | cons c l =>
    rw [queueOk, hp] at h
    obtain ⟨t, ht, hk⟩ := exec_next (h c List.mem_cons_self) { s with pending := l }
    refine ⟨t, ht, fun d hd => h d (List.mem_cons_of_mem c ?_)⟩
    rwa [hk.queue] at hd

theorem runs_succ {k : Nat} (h : step s = .next t) (ht : runs k t) : runs (k + 1) s := by
  obtain ⟨u, hu⟩ := ht
  have hs : core.step s = .next t := h
  exact ⟨u, by simpa only [Host.Core.run, hs] using hu⟩

theorem runs_of_queueOk (k : Nat) (h : queueOk s) : runs k s := by
  induction k generalizing s with
  | zero => exact ⟨s, rfl⟩
  | succ k ih =>
    obtain ⟨t, ht, hq⟩ := step_keeps_queueOk h
    exact runs_succ ht (ih hq)

end Runs

/-- Settles O59: every command ends by its well-formedness (`exec_ends`), and the queue's well-formedness is an invariant
of the step (`step_keeps_queueOk`). -/
theorem everyCommandRuns : Obligations.EveryCommandRuns :=
  ⟨fun _ s hc => (exec_next hc s).imp fun _ h => h.1, fun _ s hc => exec_fault hc s, fun _ k h => runs_of_queueOk k h⟩

end Sys2Proof.Safety

/-! Register writes through the ring (R10 to R12, R275 to R281, R410, R426 to R429): what a write touches, which access
the ring takes, what a write does to a field of each access code, and the registers that O53 names. -/

namespace Sys2Proof.Safety
open Sys2Proof Sys2Proof.Machine

/-! ### What a register write touches -/

/-- A state without the register file and the counts of the lifetime record. -/
def bare (s : State) : State := { s with regs := [], flt := { s.flt with life := [] } }

/-- From `s` to `t` only the fields listed and counts of the lifetime record changed. -/
def touches (l : List Field) (s t : State) : Prop := sameFields l s t ∧ bare t = bare s

section Touches
variable {l : List Field} {s t u : State} {f : Field}

/-- A state that differs in the register file and the lifetime counts alone, written out. -/
theorem eq_of_bare (h : bare t = bare s) : t = { s with regs := t.regs, flt := { s.flt with life := t.flt.life } } :=
  congrArg (fun u : State => { u with regs := t.regs, flt := { u.flt with life := t.flt.life } }) h

theorem cfg_of_bare (h : bare t = bare s) : t.cfg = s.cfg :=
  show (bare t).cfg = (bare s).cfg from congrArg State.cfg h

/-- The same, where uncommitted shadows were then written. -/
theorem setShadow_of_bare (h : bare t = bare s) (key v : Nat) :
    setShadow key v t =
      { s with regs := t.regs, cfg := { s.cfg with shadows := (setShadow key v t).cfg.shadows },
               flt := { s.flt with life := t.flt.life } } :=
  congrArg (fun u : State => { u with
    regs := t.regs, cfg := { u.cfg with shadows := (setShadow key v t).cfg.shadows }, flt := { u.flt with life := t.flt.life } }) h

theorem touches_refl (l : List Field) (s : State) : touches l s s := ⟨sameFields_refl l s, rfl⟩

theorem touches_trans (h : touches l s t) (g : touches l t u) : touches l s u :=
  ⟨sameFields_then h.1 g.1, g.2.trans h.2⟩

theorem touches_mono {m : List Field} (h : touches l s t) (hl : l ⊆ m) : touches m s t :=
  ⟨sameFields_mono h.1 fun _ hf => hl hf, h.2⟩

theorem touches_setF (s : State) (f : Field) (v : Nat) : touches [f] s (setF f v s) :=
  ⟨sameFields_setF s f v [f] (List.mem_singleton_self f), rfl⟩

theorem touches_countClamp (off : Nat) (s : State) :
    touches [Reg.Glb.clampCnt, Reg.Glb.clampLast] s (countClamp off s) :=
  touches_trans (touches_mono (touches_setF s _ _) (by simp)) (touches_mono (touches_setF _ Reg.Glb.clampLast off) (by simp))

theorem touches_countIgnored (off : Nat) (s : State) :
    touches [Reg.Glb.wignCnt, Reg.Glb.wignLast] s (countIgnored off s) :=
  touches_trans (touches_mono (touches_setF s _ _) (by simp)) (touches_mono (touches_setF _ Reg.Glb.wignLast off) (by simp))

end Touches

/-! ### Counted clamps and refusals -/

/-- From `s` to `t` the clamp counter went up by `n`. -/
def clampsMore (n : Nat) (s t : State) : Prop := getF Reg.Glb.clampCnt t % 2 ^ 32 = (getF Reg.Glb.clampCnt s + n) % 2 ^ 32

/-- A write to an offset was refused, counted and changed nothing else (R278). -/
def ignoredWrite (off : Nat) (s t : State) : Prop :=
  getF Reg.Glb.wignCnt t = (getF Reg.Glb.wignCnt s + 1) % 2 ^ 32 ∧ getF Reg.Glb.wignLast t = off ∧
    touches [Reg.Glb.wignCnt, Reg.Glb.wignLast] s t

section Counts
variable {s t u : State} {n m off lo hi : Nat}

theorem clampsMore_refl (s : State) : clampsMore 0 s s := rfl

theorem clampsMore_trans (h : clampsMore n s t) (g : clampsMore m t u) : clampsMore (n + m) s u := by
  unfold clampsMore at *
  omega

theorem clampsMore_countClamp (off : Nat) (s : State) : clampsMore 1 s (countClamp off s) := by
  have h : Reg.Glb.clampCnt.key ≠ Reg.Glb.clampLast.key := by decide
  rw [clampsMore, countClamp, getF_lifeAdd, getF_setF_other _ _ _ _ h, getF_addF_same]
  exact Nat.mod_mod _ _

theorem clampsMore_setF (f : Field) (v : Nat) (hf : Reg.Glb.clampCnt.key ≠ f.key) (s : State) : clampsMore 0 s (setF f v s) := by
  rw [clampsMore, getF_setF_other _ _ _ _ hf, Nat.add_zero]

theorem countIgnored_ignores (ho : off < 2 ^ 26) (s : State) : ignoredWrite off s (countIgnored off s) := by
  have h : Reg.Glb.wignCnt.key ≠ Reg.Glb.wignLast.key := by decide
  refine ⟨?_, ?_, touches_countIgnored off s⟩
  · rw [countIgnored, getF_lifeAdd, getF_setF_other _ _ _ _ h, getF_addF_same]
    rfl
  · rw [countIgnored, getF_lifeAdd, getF_setF_same]
    exact Nat.mod_eq_of_lt ho

theorem clampRange_eq (h : lo ≤ hi) (v : Nat) : clampRange lo hi v = max lo (min v hi) := by
  unfold clampRange
  split
  · omega
  · split <;> omega

theorem clampRange_eq_self_iff (h : lo ≤ hi) (v : Nat) : clampRange lo hi v = v ↔ ¬ (v < lo ∨ hi < v) := by
  rw [clampRange_eq h]
  omega

end Counts

/-- What the clamp of a range does: the nearest legal value, and one count where the written one was illegal (R281). -/
theorem clampFor_nearest {r : FieldSpec} {lo hi : Nat} (hr : r.clamp = .nearest lo hi) (hle : lo ≤ hi) (v : Nat) (s : State) :
    ∃ t, clampFor r v s = (max lo (min v hi), t) ∧ clampsMore (if v < lo ∨ hi < v then 1 else 0) s t ∧
      touches [Reg.Glb.clampCnt, Reg.Glb.clampLast] s t := by
  have hv : clampRange lo hi v = v ↔ _ := clampRange_eq_self_iff hle v
  refine ⟨(clampFor r v s).2, ?_, ?_⟩
  · simp [clampFor, hr, applyClamp, clampRange_eq hle]
  · by_cases h : v < lo ∨ hi < v
    · simp only [clampFor, hr, applyClamp, hv, h, not_true_eq_false, if_true, if_false]
      exact ⟨clampsMore_countClamp _ s, touches_countClamp _ s⟩
    · simp only [clampFor, hr, applyClamp, hv, h, not_false_eq_true, if_true, if_false]
      exact ⟨clampsMore_refl s, touches_refl _ s⟩

/-! ### Writes of one field by its access code (Table 0-8) -/

section Fields
variable {r : FieldSpec} {lo hi : Nat}

/-- A live field takes the legal value at once. -/
theorem writeField_rwl_nearest (ha : r.acc = .rwl) (hr : r.clamp = .nearest lo hi) (hle : lo ≤ hi) (hw : hi < 2 ^ r.field.w)
    (hk : Reg.Glb.clampCnt.key ≠ r.field.key) (s0 : State) (v : Nat) (s : State) :
    ∃ t, writeField s0 v r s = (t, false) ∧ getF r.field t = max lo (min v hi) ∧
      clampsMore (if v < lo ∨ hi < v then 1 else 0) s t ∧ touches [r.field, Reg.Glb.clampCnt, Reg.Glb.clampLast] s t := by
  obtain ⟨t, hc, hn, ht⟩ := clampFor_nearest hr hle v s
  refine ⟨setF r.field (max lo (min v hi)) t, by simp only [writeField, ha, hc], ?_, ?_, ?_⟩
  · rw [getF_setF_same]
    exact Nat.mod_eq_of_lt (by omega)
  · exact clampsMore_trans hn (clampsMore_setF _ _ hk t)
  · exact touches_trans (touches_mono ht (by simp)) (touches_mono (touches_setF t _ _) (by simp))

/-- A step-latched field puts the legal value into its shadow. -/
theorem writeField_rws_nearest (ha : r.acc = .rws) (hr : r.clamp = .nearest lo hi) (hle : lo ≤ hi) (s0 : State) (v : Nat)
    (s : State) :
    ∃ t, writeField s0 v r s = (setShadow r.field.key (max lo (min v hi)) t, false) ∧
      clampsMore (if v < lo ∨ hi < v then 1 else 0) s t ∧ touches [Reg.Glb.clampCnt, Reg.Glb.clampLast] s t := by
  obtain ⟨t, hc, hn, ht⟩ := clampFor_nearest hr hle v s
  exact ⟨t, by simp only [writeField, ha, hc], hn, ht⟩

theorem shadows_setShadow_same (key v : Nat) (s : State) : SMap.get dfltZero (setShadow key v s).cfg.shadows key = v :=
  SMap.get_put_same _ _ _ _

theorem shadows_setShadow_other {j key : Nat} (h : j ≠ key) (v : Nat) (s : State) :
    SMap.get dfltZero (setShadow key v s).cfg.shadows j = SMap.get dfltZero s.cfg.shadows j :=
  SMap.get_put_other _ _ _ _ _ h

/-- A frozen field takes its own value without a count, refuses a change while it is frozen, and takes it otherwise. -/
theorem writeField_rwf_any (ha : r.acc = .rwf) (hr : r.clamp = .any) (s0 : State) (v : Nat) (s : State) :
    writeField s0 v r s =
      if v = getF r.field s then (s, false)
      else if frozenNow r.frz r.field.off s0 then (s, true)
      else (setF r.field v s, false) := by
  simp only [writeField, ha, clampFor, hr, applyClamp, if_true]

end Fields

/-! ### The ring: which access arrives, and which waits (R311, R338 to R341, R410, R426) -/

/-- The ring takes an access of requester `k`, which reaches the offset and does not wait behind the host's posted writes. -/
def ringTakes (k off : Nat) (s : State) : Prop :=
  ringRuns s = true ∧ reaches k off s = true ∧ (k ≠ 0 ∨ hostStalled s = false)

/-- An access that the ring takes is performed at once: the root serves it, or nothing holds it up. -/
def served (k off : Nat) (s : State) : Prop :=
  inWindow off = true ∨ (reqOf k s).queue = [] ∧ crossingOpen off s = true

section Ring
variable {k off n v : Nat} {a : RegAccess} {par : Parity} {s : State}

theorem regAccess_of_unreached (h : ringRuns s = false ∨ reaches k off s = false) :
    regAccess k ⟨true, off, n, v⟩ par s = s := by
  unfold regAccess
  rcases h with h | h
  · rw [if_pos (by simp [h])]
  · simp [h]

theorem regAccess_badTwice (hr : ringRuns s = true) (ho : reaches k off s = true) :
    regAccess k ⟨true, off, n, v⟩ .badTwice s = report 0x0017 k 0 (domUncorrected 11 1 s) := by
  simp [regAccess, hr, ho]

/-- A write without a second parity failure is taken after the count of a first one (R410). -/
theorem regAccess_of_ringTakes (hg : ringTakes k off s) (hp : par ≠ .badTwice) :
    regAccess k ⟨true, off, n, v⟩ par s =
      takeAccess k ⟨true, off, n, v⟩ (if par = .badOnce then domCorrected 11 1 s else s) := by
  obtain ⟨hr, ho, hs⟩ := hg
  have hq : hostStalled (if par = .badOnce then domCorrected 11 1 s else s) = hostStalled s := by
    split <;> rfl
  have hn : ¬ (true = true ∧ k = 0 ∧ hostStalled (if par = .badOnce then domCorrected 11 1 s else s) = true) := by
    rw [hq]
    rintro ⟨-, hk, hh⟩
    rcases hs with hs | hs
    · exact hs hk
    · simp [hs] at hh
  unfold regAccess
  rw [if_neg (by simp [hr]), if_neg (by simp [ho]), if_neg hp]
  exact if_neg hn

theorem takeAccess_of_served (h : served k a.off s) : takeAccess k a s = perform k a s := by
  unfold takeAccess
  rcases h with h | ⟨hq, hc⟩
  · simp [h]
  · simp [hq, hc]

theorem regAccess_performs (hg : ringTakes k off s) (hs : served k off s) :
    regAccess k ⟨true, off, n, v⟩ .good s = performWrite k off n v s := by
  rw [regAccess_of_ringTakes hg (by simp), if_neg (by simp), takeAccess_of_served (a := ⟨true, off, n, v⟩) hs]
  rfl

theorem takeAccess_of_waits (hi : inWindow a.off = false) (hr : rootOnly a.off = false)
    (h : (reqOf k s).queue ≠ [] ∨ crossingOpen a.off s = false) : takeAccess k a s = enqueue k a s := by
  have hn : ((reqOf k s).queue.isEmpty && crossingOpen a.off s) = false := by
    rcases h with h | h
    · simp [h]
    · simp [h]
  simp [takeAccess, hi, hr, hn]

theorem reqOf_enqueue_same (k : Nat) (a : RegAccess) (s : State) :
    reqOf k (enqueue k a s) = { reqOf k s with queue := (reqOf k s).queue ++ [a] } := by
  simp [reqOf, enqueue, updReq, updCfg, SMap.upd]

theorem reqOf_enqueue_other {j : Nat} (h : j ≠ k) (a : RegAccess) (s : State) : reqOf j (enqueue k a s) = reqOf j s := by
  simp [reqOf, enqueue, updReq, updCfg, SMap.upd, SMap.get_set_other _ _ _ _ _ h]

theorem reqOf_of_cfg {u : State} (h : u.cfg = s.cfg) (j : Nat) : reqOf j u = reqOf j s := by rw [reqOf, reqOf, h]

theorem enqueue_frame {u : State} (h : u.cfg = s.cfg) (k : Nat) (a : RegAccess) :
    enqueue k a u = { u with cfg := { s.cfg with reqs := (enqueue k a u).cfg.reqs } } := by
  rw [← h]
  rfl

/-- The clock-present bits are in GLB_CLKPRESENT alone. -/
theorem clockPresent_setF {f : Field} (hf : f.off ≠ 0x48) (hl : f.lo < 32) (b v : Nat) (s : State) :
    clockPresent b (setF f v s) = clockPresent b s := by
  have hk : ∀ g : Field, g.off = 0x48 → g.lo < 32 → getF g (setF f v s) = getF g s := fun g hg hgl =>
    getF_setF_other s g f v (by unfold Field.key; omega)
  simp (disch := decide) only [clockPresent, isSet, hk]

theorem crossingOpen_setF {f : Field} (hf : f.off ≠ 0x48) (hl : f.lo < 32) (off v : Nat) (s : State) :
    crossingOpen off (setF f v s) = crossingOpen off s := by
  unfold crossingOpen
  simp only [clockPresent_setF hf hl]
  rfl

theorem crossingOpen_of_mclk {off : Nat} (h : accessClock off = none) (s : State) : crossingOpen off s = true := by
  simp [crossingOpen, h]

end Ring

/-! ### A write of a 32-bit register (R427, R428) -/

/-- An offset of a 32-bit register that is no half of a pair, no word of the MSI-X table and in no byte window. -/
def plainWord (off : Nat) : Bool :=
  decide (off < 2 ^ 26) && decide (off % 4 = 0) && !byteWindow off && !decide (0x6F000 ≤ off ∧ off < 0x70000) &&
    (pairAt off).isNone && (pairAt (off - 4)).isNone

/-- What a 32-bit write of a register does to the state: its fields, its operation code, and what follows. -/
def wordWritten (off v : Nat) (s : State) : State :=
  let w := v % 2 ^ 32
  afterWrite off s (opCheck off w (writeFields off w s))

theorem plainWord_iff (off : Nat) : plainWord off = true ↔ off < 2 ^ 26 ∧ off % 4 = 0 ∧ byteWindow off = false ∧
    ¬ (0x6F000 ≤ off ∧ off < 0x70000) ∧ pairAt off = none ∧ pairAt (off - 4) = none := by
  simp only [plainWord, Bool.and_eq_true, decide_eq_true_eq, Bool.not_eq_true', decide_eq_false_iff_not,
    Option.isNone_iff_eq_none, and_assoc]

theorem performWrite_word {off : Nat} (h : plainWord off = true) (k v : Nat) (s : State) :
    performWrite k off 4 v s = wordWritten off v s := by
  obtain ⟨-, ha, hb, hm, hp, hq⟩ := (plainWord_iff off).1 h
  simp [performWrite, writeWord, wordWritten, ha, hb, hm, hp, hq]

/-- An access of a wrong size at a register that the part has is refused and counted. -/
theorem performWrite_wrongSize {off n : Nat} (h : plainWord off = true) (h4 : n ≠ 4) (h8 : off % 8 ≠ 0)
    (k v : Nat) {s : State} (ha : assigned off s = true) : performWrite k off n v s = countIgnored off s := by
  obtain ⟨-, hd, hb, -⟩ := (plainWord_iff off).1 h
  have he : off / 4 * 4 = off := by omega
  simp [performWrite, hb, h4, h8, he, ha]

/-- A field of the written word. -/
theorem word_field {f : Field} (h : f.lo + f.w ≤ 32) (v : Nat) : v % 2 ^ 32 / 2 ^ f.lo % 2 ^ f.w = v / 2 ^ f.lo % 2 ^ f.w := by
  have e : 2 ^ 32 = 2 ^ f.lo * 2 ^ (32 - f.lo) := by rw [← Nat.pow_add]; congr 1; omega
  rw [e, Nat.mod_mul_right_div_self, Nat.mod_mod_of_dvd _ (Nat.pow_dvd_pow 2 (by omega))]

/-- A write of a register with one field. -/
theorem writeFields_one {off : Nat} {r : FieldSpec} (h : fieldsAt off = [r]) (hw : r.field.lo + r.field.w ≤ 32) (v : Nat)
    (s : State) :
    writeFields off (v % 2 ^ 32) s =
      let x := writeField s (v / 2 ^ r.field.lo % 2 ^ r.field.w) r s
      if x.2 then countIgnored off x.1 else x.1 := by
  simp only [writeFields, h, List.foldl, Bool.false_or, word_field hw]

/-! ### The registers of the statement -/

theorem fieldsAt_id : fieldsAt 0 = [⟨Reg.Glb.idPart, .ro, 33170, .any, .never, 0, 1⟩,
    ⟨Reg.Glb.idStep, .ro, 10, .any, .never, 0, 1⟩, ⟨Reg.Glb.idMapfmt, .ro, 1, .any, .never, 0, 1⟩] := rfl

theorem fieldsAt_ensCmd : fieldsAt 0x10C = [⟨Reg.Glb.ensCmdOp, .own, 0, .any, .never, 0, 1⟩] := rfl

theorem fieldsAt_ensStat : fieldsAt 0x110 = [⟨Reg.Glb.ensState, .ro, 0, .any, .never, 0, 1⟩,
    ⟨Reg.Glb.ensAmend, .ro, 0, .any, .never, 0, 1⟩, ⟨Reg.Glb.ensReject, .w1c, 0, .any, .never, 0, 1⟩,
    ⟨Reg.Glb.ensErr, .ro, 0, .any, .never, 0, 1⟩, ⟨Reg.Glb.ensClamps, .ro, 0, .any, .never, 0, 1⟩] := rfl

theorem fieldsAt_chunk : fieldsAt (schBase + 0x114) =
    [⟨Reg.Sch.chunk.at schBase, .rws, 512, .nearest 64 8192, .never, 0, 1⟩] := rfl

theorem fieldsAt_lim : fieldsAt (pwrBase + 4) = [⟨pwrF Reg.Pwr.limBucket, .rwl, 3000, .nearest 0 3000, .never, 0, 1⟩,
    ⟨pwrF Reg.Pwr.lim, .rwl, 4600, .nearest 1600 4600, .never, 0, 1⟩] := rfl

theorem fieldsAt_hdrmAddr : fieldsAt (pwrBase + 0x10) =
    [⟨pwrF Reg.Pwr.hdrmAddr, .rwf, 12451839, .any, .imageActive, 0, 1⟩] := rfl

theorem plainWord_stated : ∀ off ∈ [0, 0x10C, 0x110, schBase + 0x114, pwrBase + 4, pwrBase + 0x10], plainWord off = true := by
  decide +kernel

/-- The registers named hold no operation code, and nothing follows from their fields. -/
theorem wordWritten_of_fields (v : Nat) (s : State) :
    ∀ off ∈ [0, 0x110, schBase + 0x114, pwrBase + 4, pwrBase + 0x10], wordWritten off v s = writeFields off (v % 2 ^ 32) s := by
  simp only [List.forall_mem_cons, List.not_mem_nil, false_implies, implies_true, and_true]
  exact ⟨rfl, rfl, rfl, rfl, rfl⟩

section Registers
variable {s : State} (v : Nat)

/-- The identity register is read-only. -/
theorem wordWritten_id (s : State) : wordWritten 0 v s = s := by
  rw [wordWritten_of_fields v s 0 (by simp)]
  simp [writeFields, fieldsAt_id, writeField]

/-- A write of ENS_STAT clears REJECT where its bit is 1. -/
theorem wordWritten_ensStat (h : isSet Reg.Glb.ensReject s = true) :
    wordWritten 0x110 v s = setF Reg.Glb.ensReject (if v.testBit 26 then 0 else 1) s := by
  have h1 : getF Reg.Glb.ensReject s = 1 := of_decide_eq_true h
  have hb : v / 2 ^ Reg.Glb.ensReject.lo % 2 ^ Reg.Glb.ensReject.w = if v.testBit 26 then 1 else 0 :=
    (Nat.toNat_testBit v 26).symm.trans (by cases v.testBit 26 <;> rfl)
  have hr := (word_field (by decide) v).trans hb
  rw [wordWritten_of_fields v s 0x110 (by simp)]
  simp only [writeFields, fieldsAt_ensStat, List.foldl, writeField, hr, h1, Bool.or_false, Bool.false_eq_true, if_false]
  split <;> rfl

/-- A write of ENS_CMD changes nothing itself: a defined code is left to its row, any other is refused (R278). -/
theorem wordWritten_ensCmd (s : State) : wordWritten 0x10C v s =
    if 1 ≤ v / 2 ^ 28 % 16 ∧ v / 2 ^ 28 % 16 ≤ 3 then s else countIgnored 0x10C s := by
  have hf : writeFields 0x10C (v % 2 ^ 32) s = s := by
    rw [writeFields_one fieldsAt_ensCmd (by decide)]
    rfl
  have hc : v % 2 ^ 32 / 2 ^ 28 = v / 2 ^ 28 % 16 := by omega
  show afterWrite 0x10C s (opCheck 0x10C (v % 2 ^ 32) (writeFields 0x10C (v % 2 ^ 32) s)) = _
  rw [hf, opCheck, ← hc]
  rfl

/-- A write of PWR_LIM: both live fields take their legal values, and each clamp counts. -/
theorem wordWritten_lim (s : State) :
    let a := v / 2 ^ 20 % 2 ^ 12
    let b := v % 2 ^ 16
    let t := wordWritten (pwrBase + 4) v s
    getF (pwrF Reg.Pwr.limBucket) t = min a 3000 ∧ getF (pwrF Reg.Pwr.lim) t = max 1600 (min b 4600) ∧
      clampsMore ((if 3000 < a then 1 else 0) + (if b < 1600 ∨ 4600 < b then 1 else 0)) s t ∧
      touches [pwrF Reg.Pwr.limBucket, pwrF Reg.Pwr.lim, Reg.Glb.clampCnt, Reg.Glb.clampLast] s t := by
  intro a b
  obtain ⟨t, et, ht, hn, hk⟩ := writeField_rwl_nearest
    (r := ⟨pwrF Reg.Pwr.limBucket, .rwl, 3000, .nearest 0 3000, .never, 0, 1⟩)
    rfl rfl (by decide) (by decide) (by decide) s a s
  obtain ⟨u, eu, hu, hm, hl⟩ := writeField_rwl_nearest
    (r := ⟨pwrF Reg.Pwr.lim, .rwl, 4600, .nearest 1600 4600, .never, 0, 1⟩)
    rfl rfl (by decide) (by decide) (by decide) s b t
  have e : wordWritten (pwrBase + 4) v s = u := by
    have ha : v % 2 ^ 32 / 2 ^ (pwrF Reg.Pwr.limBucket).lo % 2 ^ (pwrF Reg.Pwr.limBucket).w = a := word_field (by decide) v
    have hb : v % 2 ^ 32 / 2 ^ (pwrF Reg.Pwr.lim).lo % 2 ^ (pwrF Reg.Pwr.lim).w = b :=
      (word_field (by decide) v).trans (congrArg (· % 2 ^ 16) (Nat.div_one v))
    rw [wordWritten_of_fields v s _ (by simp)]
    simp only [writeFields, fieldsAt_lim, List.foldl, ha, hb, et, eu, Bool.or_false, Bool.false_eq_true, if_false]
  rw [e]
  refine ⟨?_, hu, ?_, touches_trans (touches_mono hk (by simp)) (touches_mono hl (by simp))⟩
  · rw [hl.1 _ (by decide), ht]
    exact Nat.zero_max _
  · simpa using clampsMore_trans hn hm

/-- A write of SCH_CHUNK: the shadow of the step-latched field takes the legal value. -/
theorem wordWritten_chunk (s : State) :
    let a := v % 2 ^ 14
    ∃ t, wordWritten (schBase + 0x114) v s = setShadow (Reg.Sch.chunk.at schBase).key (max 64 (min a 8192)) t ∧
      clampsMore (if a < 64 ∨ 8192 < a then 1 else 0) s t ∧ touches [Reg.Glb.clampCnt, Reg.Glb.clampLast] s t := by
  intro a
  obtain ⟨t, et, hn, ht⟩ := writeField_rws_nearest
    (r := ⟨Reg.Sch.chunk.at schBase, .rws, 512, .nearest 64 8192, .never, 0, 1⟩)
    rfl rfl (by decide) s a s
  refine ⟨t, ?_, hn, ht⟩
  have ha : v / 2 ^ (Reg.Sch.chunk.at schBase).lo % 2 ^ (Reg.Sch.chunk.at schBase).w = a :=
    congrArg (· % 2 ^ 14) (Nat.div_one v)
  rw [wordWritten_of_fields v s _ (by simp), writeFields_one fieldsAt_chunk (by decide)]
  simp only [ha, et, Bool.false_eq_true, if_false]

/-- A write of PWR_HDRMADDR: a change is refused while an image is active. -/
theorem wordWritten_hdrmAddr (s : State) :
    let a := v / 2 ^ 5 % 2 ^ 24
    wordWritten (pwrBase + 0x10) v s =
      if a = getF (pwrF Reg.Pwr.hdrmAddr) s then s
      else if isSet Reg.Glb.imageActive s then countIgnored (pwrBase + 0x10) s
      else setF (pwrF Reg.Pwr.hdrmAddr) a s := by
  intro a
  have ha : v / 2 ^ (pwrF Reg.Pwr.hdrmAddr).lo % 2 ^ (pwrF Reg.Pwr.hdrmAddr).w = a := rfl
  have hz : frozenNow .imageActive (pwrF Reg.Pwr.hdrmAddr).off s = isSet Reg.Glb.imageActive s := rfl
  rw [wordWritten_of_fields v s _ (by simp), writeFields_one fieldsAt_hdrmAddr (by decide), ha,
    writeField_rwf_any rfl rfl, hz]
  split
  · rfl
  · split <;> rfl

end Registers

/-! ### REGISTER_WRITE -/

section Commands
variable {r : Requester} {s : State} {off : Nat}

theorem served_of_mclk (h : accessClock off = none) (hq : (reqOf r.toNat s).queue = []) : served r.toNat off s :=
  .inr ⟨hq, crossingOpen_of_mclk h s⟩

theorem exec_registerWrite_badLength {size : BitVec 7} (h : size.toNat = 0 ∨ 64 < size.toNat) (r : Requester) (off : BitVec 26)
    (v : Nat) (par : Parity) (s : State) : exec (.registerWrite r off size v par) s = .fault .badLength := by
  have hc : size = 0 ∨ 64 < size.toNat := by bv_omega
  exact if_pos hc

/-- A write of 1 to 64 bytes is one access of its requester. -/
theorem exec_registerWrite {size : BitVec 7} (h0 : 0 < size.toNat) (h64 : size.toNat ≤ 64) (r : Requester) (off : BitVec 26)
    (v : Nat) (par : Parity) (s : State) :
    exec (.registerWrite r off size v par) s = .next (regAccess r.toNat ⟨true, off.toNat, size.toNat, v⟩ par s) := by
  have h : ¬ (size = 0 ∨ 64 < size.toNat) := by bv_omega
  exact if_neg h

theorem exec_write {size : BitVec 7} (ho : off < 2 ^ 26) (h0 : 0 < size.toNat) (h64 : size.toNat ≤ 64)
    (hg : ringTakes r.toNat off s) (hs : served r.toNat off s) (v : Nat) :
    exec (.registerWrite r (BitVec.ofNat 26 off) size v .good) s = .next (performWrite r.toNat off size.toNat v s) := by
  have e : (BitVec.ofNat 26 off).toNat = off := by simpa using ho
  rw [exec_registerWrite h0 h64, e, regAccess_performs hg hs]

theorem exec_wordWrite (off : Nat) (hp : plainWord off = true) (hg : ringTakes r.toNat off s)
    (hs : served r.toNat off s) (v : Nat) :
    exec (.registerWrite r (BitVec.ofNat 26 off) 4 v .good) s = .next (wordWritten off v s) := by
  rw [exec_write ((plainWord_iff off).1 hp).1 (by decide) (by decide) hg hs, ← performWrite_word hp r.toNat]
  rfl

/-- An access that must wait joins its requester's queue, after the count of a first parity failure. -/
theorem regAccess_waits {k n v : Nat} {par : Parity} (hg : ringTakes k off s) (hp : par ≠ .badTwice)
    (hi : inWindow off = false) (ho : rootOnly off = false) (h : (reqOf k s).queue ≠ [] ∨ crossingOpen off s = false) :
    regAccess k ⟨true, off, n, v⟩ par s =
      enqueue k ⟨true, off, n, v⟩ (if par = .badOnce then domCorrected 11 1 s else s) := by
  rw [regAccess_of_ringTakes hg hp]
  refine takeAccess_of_waits hi ho ?_
  split
  · refine h.imp_right fun hc => ?_
    rw [← hc]
    exact crossingOpen_setF (by decide) (by decide) _ _ s
  · exact h

end Commands

/-- Settles O53: the clauses about reach, parity and waiting by the laws of the ring, and each register by the law of a
write of its access code. -/
theorem registerWrites : Obligations.RegisterWrites := by
  intro s r k goes word clampedTwo ignored
  have ignores : ∀ (c : Instr) (off : Nat), off < 2 ^ 26 → exec c s = .next (countIgnored off s) → ignored c off := by
    intro c off ho hc
    obtain ⟨hn, hl, ht, hb⟩ := countIgnored_ignores ho s
    exact ⟨_, hc, hn, hl, ht, eq_of_bare hb⟩
  refine ⟨?_, ?_, ?_, ?_, ?_, ?_, ?_, ?_⟩
  · intro off size v par c
    refine ⟨fun h => exec_registerWrite_badLength h r off v par s, fun h0 h64 => ?_⟩
    have hc : exec c s = .next (regAccess k ⟨true, off.toNat, size.toNat, v⟩ par s) := exec_registerWrite h0 h64 r off v par s
    rw [hc]
    refine ⟨fun h => by rw [regAccess_of_unreached h], fun hr ho hp => ?_, fun hg hp hi ho h => ?_⟩
    · rw [hp, regAccess_badTwice hr ho]
      exact ⟨_, rfl, reports_report _ _ _ (reports_refl _)⟩
    · rw [regAccess_waits hg hp hi ho h]
      have hu : (if par = .badOnce then domCorrected 11 1 s else s).cfg = s.cfg := by
        split <;> rfl
      refine ⟨_, rfl, ?_, fun j hj => ?_, enqueue_frame hu k _⟩
      · rw [reqOf_enqueue_same, reqOf_of_cfg hu]
      · rw [reqOf_enqueue_other hj, reqOf_of_cfg hu]
  · intro v hg
    rw [exec_wordWrite 0 (plainWord_stated _ (by simp)) hg (.inl rfl), wordWritten_id]
  · intro v hg hq a b
    obtain ⟨ha, hb, hn, ht, hf⟩ := wordWritten_lim v s
    exact ⟨_, exec_wordWrite (pwrBase + 4) (plainWord_stated _ (by simp)) hg (served_of_mclk rfl hq) v,
      ha, hb, hn, ht, eq_of_bare hf⟩
  · intro v hg hq ho a key
    obtain ⟨t, e, hn, ht, hf⟩ := wordWritten_chunk v s
    refine ⟨_, (exec_wordWrite (schBase + 0x114) (plainWord_stated _ (by simp)) hg (.inr ⟨hq, ho⟩) v).trans (congrArg _ e),
      shadows_setShadow_same _ _ t, fun j hj => ?_, hn, ht, ?_⟩
    · rw [shadows_setShadow_other hj, cfg_of_bare hf]
    · exact setShadow_of_bare hf _ _
  · intro v hg hr
    rw [exec_wordWrite 0x110 (plainWord_stated _ (by simp)) hg (.inl rfl), wordWritten_ensStat v hr]
  · intro v hg hq a c
    have hc : exec c s = _ := exec_wordWrite (pwrBase + 0x10) (plainWord_stated _ (by simp)) hg (served_of_mclk rfl hq) v
    rw [wordWritten_hdrmAddr] at hc
    refine ⟨fun h => ?_, fun h hi => ignores c _ (by decide) ?_, fun h hi => ?_⟩
    · rw [hc, if_pos h]
    · rw [hc, if_neg h, if_pos hi]
    · rw [hc, if_neg h, if_neg (by simp [hi])]
  · intro v hg code
    have hc : exec (word 0x10C v) s = _ := exec_wordWrite 0x10C (plainWord_stated _ (by simp)) hg (.inl rfl) v
    rw [wordWritten_ensCmd] at hc
    refine ⟨fun h1 h3 => ?_, fun h => ignores _ _ (by decide) ?_⟩
    · rw [hc, if_pos ⟨h1, h3⟩]
    · rw [hc, if_neg (by omega)]
  · intro size v hg hq h0 h64 h4
    refine ignores _ _ (by decide) ?_
    rw [exec_write (by decide) h0 h64 hg (served_of_mclk rfl hq),
      performWrite_wrongSize (off := pwrBase + 4) (plainWord_stated _ (by simp)) h4 (by decide)]
    simp [assigned, fieldsAt_lim]

end Sys2Proof.Safety

/-! The quantiser, the check converter and the array checks (R49, R83, R84, R250): where the statements O20, O22 and O28
leave out a case that the model has. -/

namespace Sys2Proof.Safety
open Sys2Proof Sys2Proof.Machine

/-! ### A vector that comes again under a number still accumulating -/

/-- The tag of a vector of epoch 1, layer 0 and matrix 0. -/
def repeatedTag : VecTag := ⟨1, 9, 5, 7, 1, 0, 0, .plain, false, true, false, none⟩

/-- The block that array 0 serves, of epoch slot 0. -/
def servedBlock : BlockRef := ⟨0, 0, 0, 0, 0, 0, 1024, 512, 0⟩

/-- Array 0 serves a block of epoch 1, zero vectors are skipped, and pennant 0 still accumulates a vector of the repeated
tag with input exponent 5. -/
def stillAccumulating : State :=
  setF (pntF Reg.Pnt.zeroVecEn 0) 1 (setArrState 0 1 (setSlot 0 { dfltSlot 0 with state := .installed, num := 1 }
    (updArr 0 (fun r => { r with hold := some servedBlock })
      (updPnt 0 (fun r => { r with accs := [⟨repeatedTag, 5, false, 0, [], [], false, [], []⟩] }) State.reset))))

/-- The skip of the new vector finds the older accumulation by its number and writes it over both. -/
theorem exponents_of_repeated_vector :
    ((pntOf 0 (quantiseVector 0 repeatedTag [] stillAccumulating)).accs.map fun v => v.e) = [5, 5] := by
  decide +kernel

/-- The input exponent of a vector whose maximum is 0 is 0 (R110). -/
theorem inputExp_zero (q : Nat) : inputExp q (f32 0) = 0 := by
  have hz : f32 0 = .fin false 0 (-149) := by decide +kernel
  simp [hz, inputExp]

/-- Refutes O20: a second vector of the same number, with no element other than 0, is skipped at once, and delivering the
skip gives it the input exponent 5 of the older accumulation in place of its own, 0. -/
theorem not_quantisedVectors : ¬ Obligations.QuantisedVectors := by
  intro h
  unfold Obligations.QuantisedVectors at h
  obtain ⟨t, ht, haccs, -⟩ := h stillAccumulating 0 repeatedTag [] (by decide +kernel) (by decide) (by decide) (by decide +kernel)
  obtain rfl : quantiseVector 0 repeatedTag [] stillAccumulating = t := Host.Outcome.next.inj ht
  have hes := congrArg (List.map Prod.snd) haccs
  simp only [List.map_nil, List.foldl_nil, inputExp_zero, List.map_map, List.map_append] at hes
  exact absurd (exponents_of_repeated_vector.symm.trans hes) (by decide +kernel)

/-! ### A dwell in progress when a stand-in starts -/

/-- An array whose dwell is ended where one runs has none. -/
theorem dwell_ended (a v : Nat) (f : Field) (s : State) :
    (arrOf a (if (arrOf a s).dwell.isSome then setF f v (updArr a (fun r => { r with dwell := none }) s) else s)).dwell =
      none := by
  split
  case isTrue => simp
  case isFalse h => simpa using h

/-- CHECK_STANDIN_START for the one flagged checksum converter ends the array's dwell (R84). -/
theorem standinStart_ends_dwell {a m : Nat} {s : State} (hs : standinOf a s = none) (hm : cflts a s = [m])
    (hc : chkFlt a s = false) : (arrOf a (standinStart a s)).dwell = none := by
  unfold standinStart
  rw [hs, hm, hc]
  dsimp only
  rw [if_pos List.isEmpty_nil]
  exact dwell_ended a _ _ _

/-- Array 5 in the middle of a dwell on column 8, with checksum converter 2 flagged. -/
def flaggedMidDwell : State :=
  setF (arrF Reg.Pnt.cvCflt 5) 4 (updArr 5 (fun r => { r with dwell := some ⟨3, 1, 8, 8, 4, 16⟩ }) State.reset)

/-- Refutes O22: a stand-in that starts while a dwell runs ends the dwell (`standinStart_ends_dwell`), so that more than
the register file changes. -/
theorem not_suspectsAndCheckConverter : ¬ Obligations.SuspectsAndCheckConverter := by
  unfold Obligations.SuspectsAndCheckConverter
  rintro ⟨-, hstart, -⟩
  have hs : standinOf 5 flaggedMidDwell = none := by decide +kernel
  have hm : cflts 5 flaggedMidDwell = [2] := by decide +kernel
  have hc : chkFlt 5 flaggedMidDwell = false := by decide +kernel
  obtain ⟨t, ht, -, -, hframe⟩ := hstart flaggedMidDwell 5 2 hs hm hc
  obtain rfl : standinStart 5 flaggedMidDwell = t := Host.Outcome.next.inj ht
  have harr : arrOf 5 (standinStart 5 flaggedMidDwell) = arrOf 5 flaggedMidDwell := by rw [hframe]; rfl
  have hend := standinStart_ends_dwell hs hm hc
  rw [harr] at hend
  exact absurd hend (by decide +kernel)

/-! ### The band of an array that the part does not have -/

/-- An array index past the die whose region's band field is a register of another block. -/
def strayArray : Nat := 0x7EE8 * 1024

/-- The band field of the stray array's region is the count of lost events. -/
theorem band_of_strayArray (s : State) :
    bandOf (regionOf (strayArray / 256)) s = getF (Reg.Cxl.evtLostCnt.at cxlBase) s := rfl

/-- Array 0 is one tick from being overdue, the event queue has no room for its report, and the stray array holds a block. -/
def overdueUnreported : State :=
  setF (wgtF Reg.Wgt.touchEn) 0 { State.reset with
    host := { hostReset with events := List.replicate 960 ⟨0x0204, 0, 0, 0, 0, 0, 0⟩ }
    arrs := [(0, { dfltArr 0 with hold := some servedBlock, age := 2 * Config.ageUnit - 1 }),
      (strayArray, { dfltArr 0 with hold := some servedBlock })] }

/-- The lost report of array 0 raises the stray array's band to 1 before the tick reaches it, and it ages by 20. -/
theorem age_of_strayArray : (arrOf strayArray (driftTick overdueUnreported)).age = 20 := by
  decide +kernel

/-- Refutes O28, in the clause on the drift tick, which speaks of every index: the band of an array past the die is read from
the count of lost events, and the tick itself raises that count. -/
theorem not_arrayChecks : ¬ Obligations.ArrayChecks := by
  unfold Obligations.ArrayChecks
  rintro ⟨-, htick, -⟩
  obtain ⟨t, ht, -, -, hage, -⟩ := htick overdueUnreported (.inl (by decide +kernel))
  obtain rfl : driftTick overdueUnreported = t := Host.Outcome.next.inj ht
  have h := hage strayArray servedBlock (by decide +kernel)
  rw [age_of_strayArray, band_of_strayArray] at h
  exact absurd h (by decide +kernel)

end Sys2Proof.Safety

/-! The combination of partials (R157, R158): where the statement O31 leaves out a case that the model has. -/

namespace Sys2Proof.Safety
open Sys2Proof Sys2Proof.Machine

/-! ### An empty combination for a layer slot that the part does not have -/

/-- A layer slot past the 64 whose format word (KVC_LFMT) lies on vector unit 0's count of empty outputs. -/
def straySlot : Nat := (vecBase 0 + 0xE8 - (kvcBase + 0x100)) / 4

/-- The key/value format of the stray slot is the count of empty outputs. -/
theorem lfmt_of_straySlot (s : State) :
    getF (Reg.Kvc.lfmt.at (kvcBase + 4 * straySlot)) s = getF (vecF Reg.Vec.emptyAttnCnt 0) s := rfl

/-- A combination with one holder, whose output is a key/value entry of the stray slot: scales to 0x1000, elements to
0x2000. -/
def strayCombine : Combine := ⟨4, 9, 7, 5, 0, 1, ⟨.kv straySlot, 0, 0, some (0x1000, 0x2000)⟩, []⟩

/-- Vector unit 0 awaits the one partial of the stray combination, and the byte after two bytes of elements is 0xFF. -/
def awaitsPartial : State :=
  { State.reset with vecs := SMap.set dfltVec [] 0 ⟨[strayCombine], [], []⟩, sram := [(0x2002, 0xFF)] }

/-- The partial that the stray combination lists: a holder that saw no slot, with four elements. -/
def emptyPartial : PartialRec := ⟨false, 7, 5, 0, 0, 9, negInf, 0, List.replicate 4 0⟩

/-- The empty output is counted before its format is read: the four elements are packed as MXFP6, in three bytes. -/
theorem sramByte_after_emptyPartial : sramByte 0x2002 (partialRecord 0 4 emptyPartial (hear 0 awaitsPartial)) = 0 := by
  decide +kernel

/-- Delivered in the format that is in force before the record arrives, the four elements are packed as MXFP4, in two
bytes, and the byte after them stays. -/
theorem sramByte_of_unitDelivers {t : State} (h : unitDelivers 0 strayCombine.dst (List.replicate 4 0) awaitsPartial t) :
    sramByte 0x2002 t = 0xFF := by
  obtain ⟨-, -, -, -, hsram⟩ := h
  unfold sramByte
  rw [hsram]
  decide +kernel

/-- Refutes O31, in the clause on the last partial of a combination, which speaks of every layer slot: the format of the
stray slot is read from the count of empty outputs, and the completion itself raises that count. -/
theorem not_vectorUnits : ¬ Obligations.VectorUnits := by
  unfold Obligations.VectorUnits
  rintro ⟨-, hrecord⟩
  obtain ⟨-, hfound⟩ := hrecord awaitsPartial 0 0 4 emptyPartial
  obtain ⟨-, -, hlast⟩ := hfound strayCombine (by decide +kernel)
  obtain ⟨t, ht, hdelivers, -⟩ := hlast (by decide +kernel) (by decide +kernel)
  obtain rfl : partialRecord 0 4 emptyPartial (hear 0 awaitsPartial) = t := Host.Outcome.next.inj ht
  have hbyte := sramByte_of_unitDelivers hdelivers
  rw [sramByte_after_emptyPartial] at hbyte
  exact absurd hbyte (by decide)

end Sys2Proof.Safety

/-! Key/value tiers (R209 to R220): what a fetch, the end of a copy, a block-copy message, a query over a lent block, an
idle pause and an expiry make of the state, and O43 from them. -/

namespace Sys2Proof.Safety
open Sys2Proof Sys2Proof.Machine

/-! ### Fetched blocks (R213, R214) -/

section Fetches
variable {n l q b : Nat} {ok : Bool} {plain : List Byte} {x : Block} {s : State}

/-- In a state whose SRAM is that of `s` with bytes written, the bytes read back. -/
theorem sramTake_written {t : State} {a : Nat} {p : List Byte} (h : t.sram = putBytes a p s.sram) : sramTake p.length a t = p := by
  rw [sramTake, h, takeBytes_putBytes]

/-- In such a state every other byte is that of `s`. -/
theorem sameBytes_written {t : State} {a : Nat} {p : List Byte} (h : t.sram = putBytes a p s.sram) : sameBytes a p.length s t :=
  fun k hk => by
    rw [sramByte, h]
    exact sramByte_sramPut_outside s a k p hk

theorem fetchDone_of_not_fetching (h : (n, l, q, b) ∉ s.kv.fetching) : fetchDone n l q b ok plain s = s := by
  simp [fetchDone, h]

theorem fetchDone_unverified (hk : (n, l, q, b) ∈ s.kv.fetching) (hx : blockOf l q b s = some x)
    (h : ok = false ∨ hasSecret x.ten s = false) :
    fetchDone n l q b ok plain s = authFail l q b (meterAdd x.ten 7 (256 * (slotLines l x.fmt s + 1)) s) := by
  have hc : ¬ ok ∨ ¬ hasSecret x.ten s := by simpa using h
  simp only [fetchDone, List.contains_iff_mem, hk, hx, not_true_eq_false, if_false]
  exact if_pos hc

/-- A block that verifies is staged at some line: the body goes there, and the fetch is over. -/
theorem fetchDone_verified (hk : (n, l, q, b) ∈ s.kv.fetching) (hx : blockOf l q b s = some x)
    (hok : ok = true) (hs : hasSecret x.ten s = true) :
    ∃ loc, fetchDone n l q b ok plain s = sramPut (loc * 256) (plain.take (slotLines l x.fmt s * 256))
      { meterAdd x.ten 7 (256 * (slotLines l x.fmt s + 1)) s with kv := { s.kv with
        fetching := s.kv.fetching.filter (fun y => ¬ y = (n, l, q, b)), staged := s.kv.staged ++ [⟨n, l, q, b, loc⟩] } } := by
  have hc : ¬ (¬ ok ∨ ¬ hasSecret x.ten s) := by simp [hok, hs]
  simp only [fetchDone, List.contains_iff_mem, hk, hx, not_true_eq_false, if_false]
  exact ⟨_, if_neg hc⟩

end Fetches

/-! ### The end of a copy (R212, R215, R216) -/

section Copies
variable {l q b lines : Nat} {ok : Bool} {plain : List Byte} {x y : Block} {s : State} {m : MntAct}

/-- The state without the grant of an activity. -/
def released (m : MntAct) (s : State) : State :=
  { s with mnt := { s.mnt with granted := s.mnt.granted.filter fun g => ¬ g.act = m } }

theorem holds_released (m : MntAct) (s : State) : holds m (released m s) = false := by
  simp [holds, released]

/-- With no request waiting, the arbiter's evaluation after a release changes nothing. -/
theorem releaseAct_of_idle (h : s.mnt.waiting = []) : releaseAct m s = released m s := by
  show evalReqs (s.mnt.waiting.foldr insertReq []) (released m s) = released m s
  rw [h]
  rfl

/-- The next counter value is taken from KVC_NONCE; beside it only the reserved range can move. -/
theorem takeNonce_eq (s : State) : ∃ r, takeNonce s =
    (getF (Reg.Kvc.nonce.at kvcBase) s, addF (Reg.Kvc.nonce.at kvcBase) 1 { s with kv := { s.kv with reserved := r } }) := by
  unfold takeNonce
  dsimp only
  split
  · exact ⟨s.kv.reserved, rfl⟩
  · exact ⟨_, rfl⟩

/-- The activity of a copy over the CXL path is counted. -/
def copyMetered (x : Block) (lines : Nat) (s : State) : State :=
  if decide (x.dest = .cxl) || decide (x.src = .cxl) then meterAdd x.ten 7 (256 * (lines + 1)) s else s

/-- The body of a copy has reached its place: the CXL tier, under the next counter value, or the hot tier. -/
def bodyCopied (x : Block) (lines : Nat) (plain : List Byte) (s : State) : State :=
  let s := if decide (x.dest = .cxl) then
      writeTier x (takeNonce s).1 (if x.src = .hot then sramTake (lines * 256) (x.loc * 256) s else plain) (takeNonce s).2
    else s
  if x.dest = .hot ∧ x.src = .cxl then sramPut (x.destLoc * 256) (plain.take (lines * 256)) s else s

/-- The counter value that a copied block carries: the next one where it went to the CXL tier. -/
def copiedNonce (x : Block) (s : State) : Nat := if decide (x.dest = .cxl) then (takeNonce s).1 else x.nonce

theorem copiedNonce_eq (x : Block) (s : State) :
    copiedNonce x s = if x.dest = .cxl then getF (Reg.Kvc.nonce.at kvcBase) s else x.nonce := by
  obtain ⟨r, hr⟩ := takeNonce_eq s
  simp only [copiedNonce, decide_eq_true_eq, hr]

/-- The directory's mark of a copy that ended well. -/
def markCopied (x : Block) (nonce : Nat) (y : Block) : Block := if y = x then { y with copied := true, nonce := nonce } else y

/-- A failed move puts a moving block back (Table 8-5). -/
def putBack (l q b : Nat) (y : Block) : Block :=
  if y.lslot = l ∧ y.seq = q ∧ y.blk = b ∧ y.state = .moving then
    { y with state := y.src, copied := false, demote := false, promote := false }
  else y

/-- What a copy over the CXL path counts touches the meter alone. -/
theorem copyMetered_eq (x : Block) (lines : Nat) (s : State) : ∃ k, copyMetered x lines s = { s with mtr := k } := by
  unfold copyMetered
  split
  · exact ⟨_, rfl⟩
  · exact ⟨s.mtr, rfl⟩

theorem bodyCopied_to_cxl (h : x.dest = .cxl) : ∃ r hst, bodyCopied x lines plain s =
    { addF (Reg.Kvc.nonce.at kvcBase) 1 s with kv := { s.kv with reserved := r }, host := hst } := by
  obtain ⟨r, hr⟩ := takeNonce_eq s
  have hh : ¬ (x.dest = .hot ∧ x.src = .cxl) := by simp [h]
  simp only [bodyCopied, decide_eq_true_eq, if_pos h, if_neg hh, hr]
  exact ⟨r, _, rfl⟩

theorem bodyCopied_from_cxl (hd : x.dest = .hot) (hs : x.src = .cxl) :
    bodyCopied x lines plain s = sramPut (x.destLoc * 256) (plain.take (lines * 256)) s := by
  simp [bodyCopied, hd, hs]

theorem bodyCopied_between_parts (hd : x.dest ≠ .cxl) (hs : ¬ (x.dest = .hot ∧ x.src = .cxl)) :
    bodyCopied x lines plain s = s := by
  simp only [bodyCopied, decide_eq_true_eq, if_neg hd, if_neg hs]

/-- What the body's way leaves: the directory, the steps, the fabric, the arbiter, every field but the counter, and SRAM
where the body did not come from the CXL tier. -/
theorem bodyCopied_leaves (x : Block) (lines : Nat) (plain : List Byte) (s : State) :
    let t := bodyCopied x lines plain s
    t.kv.dir = s.kv.dir ∧ t.sched = s.sched ∧ t.lnk = s.lnk ∧ t.mnt = s.mnt ∧
      sameFields (if x.dest = .cxl then [Reg.Kvc.nonce.at kvcBase] else []) s t ∧
      (¬ (x.dest = .hot ∧ x.src = .cxl) → t.sram = s.sram) := by
  dsimp only
  by_cases hd : x.dest = .cxl
  · obtain ⟨r, hst, e⟩ := bodyCopied_to_cxl (lines := lines) (plain := plain) (s := s) hd
    rw [e, if_pos hd]
    exact ⟨rfl, rfl, rfl, rfl, sameFields_addF s _ 1 _ (List.mem_singleton_self _), fun _ => rfl⟩
  · by_cases hs : x.dest = .hot ∧ x.src = .cxl
    · rw [bodyCopied_from_cxl hs.1 hs.2]
      exact ⟨rfl, rfl, rfl, rfl, sameFields_of_regs rfl, fun h => absurd hs h⟩
    · rw [bodyCopied_between_parts hd hs]
      exact ⟨rfl, rfl, rfl, rfl, sameFields_refl _ s, fun _ => rfl⟩

theorem copyDone_of_none_moving (h : ∀ x, blockOf l q b s = some x → x.state ≠ .moving ∨ x.copied = true) :
    copyDone l q b ok plain s = s := by
  unfold copyDone
  split
  · rfl
  case _ x hx => exact if_pos (h x hx)

/-- A copy of a block has ended, and the directory shows it: the body's way and the mark, or the failure. -/
def copyEnded (l q b : Nat) (x : Block) (ok : Bool) (plain : List Byte) (s : State) : State :=
  let lines := slotLines l x.fmt s
  let u := copyMetered x lines s
  if ok then mapBlocks (markCopied x (copiedNonce x u)) (bodyCopied x lines plain u) else moveFail l q b u

/-- The end of a copy of a moving block: what the directory shows, then the grant's release, and the switch where no step
is in flight. -/
theorem copyDone_of_moving (hx : blockOf l q b s = some x) (hm : x.state = .moving) (hc : x.copied = false) :
    copyDone l q b ok plain s =
      let t := releaseAct (.move l q b x.dest) (copyEnded l q b x ok plain s)
      if t.sched.steps.isEmpty then switchBlocks t else t := by
  have hr : ¬ (x.state ≠ .moving ∨ x.copied = true) := by simp [hm, hc]
  simp only [copyDone, hx, if_neg hr]
  rfl

theorem copyEnded_leaves (l q b : Nat) (x : Block) (ok : Bool) (plain : List Byte) (s : State) :
    (copyEnded l q b x ok plain s).mnt = s.mnt ∧ (copyEnded l q b x ok plain s).sched = s.sched := by
  obtain ⟨k, hk⟩ := copyMetered_eq x (slotLines l x.fmt s) s
  unfold copyEnded
  dsimp only
  rw [hk]
  split
  · obtain ⟨-, hsched, -, hmnt, -⟩ := bodyCopied_leaves x (slotLines l x.fmt s) plain { s with mtr := k }
    exact ⟨hmnt, hsched⟩
  · unfold moveFail
    split <;> exact ⟨rfl, rfl⟩

/-- With a step in flight and no request waiting, the grant's release is all that follows. -/
theorem copyDone_in_flight (hx : blockOf l q b s = some x) (hm : x.state = .moving) (hc : x.copied = false)
    (hw : s.mnt.waiting = []) (hs : s.sched.steps ≠ []) :
    copyDone l q b ok plain s = released (.move l q b x.dest) (copyEnded l q b x ok plain s) := by
  obtain ⟨hmnt, hsched⟩ := copyEnded_leaves l q b x ok plain s
  rw [copyDone_of_moving hx hm hc, releaseAct_of_idle (by rw [hmnt, hw])]
  refine if_neg ?_
  simpa [released, hsched] using hs

theorem moveFail_of_moving (hx : blockOf l q b s = some x) (hm : x.state = .moving) :
    moveFail l q b s = addF (Reg.Kvc.moveFailCnt.at kvcBase) 1 (mapBlocks (putBack l q b) s) := by
  have hkey := List.find?_some hx
  refine if_pos (List.any_eq_true.2 ⟨x, List.mem_of_find?_eq_some hx, ?_⟩)
  simpa [hm, and_assoc] using hkey

theorem src_moving_of_putBack (h : y ∈ s.kv.dir.map (putBack l q b)) (hl : y.lslot = l) (hq : y.seq = q) (hb : y.blk = b)
    (hm : y.state = .moving) : y.src = .moving := by
  obtain ⟨z, -, rfl⟩ := List.mem_map.1 h
  unfold putBack at *
  split at hm
  · rename_i hz
    rw [if_pos hz]
    exact hm
  · rename_i hz
    rw [if_neg hz] at hl hq hb
    exact absurd ⟨hl, hq, hb, hm⟩ hz

/-- A copy that ended well, in a state with a step in flight and an idle arbiter. -/
theorem copyDone_succeeds (hx : blockOf l q b s = some x) (hm : x.state = .moving) (hc : x.copied = false)
    (hw : s.mnt.waiting = []) (hs : s.sched.steps ≠ []) :
    let t := copyDone l q b true plain s
    holds (.move l q b x.dest) t = false ∧
      t.kv.dir = s.kv.dir.map (markCopied x (if x.dest = .cxl then getF (Reg.Kvc.nonce.at kvcBase) s else x.nonce)) ∧
      (¬ (x.dest = .hot ∧ x.src = .cxl) → t.sram = s.sram) ∧
      (x.dest = .hot → x.src = .cxl → t.sram = (sramPut (x.destLoc * 256) (plain.take (slotLines l x.fmt s * 256)) s).sram) ∧
      sameFields (if x.dest = .cxl then [Reg.Kvc.nonce.at kvcBase] else []) s t ∧ t.sched = s.sched ∧ t.lnk = s.lnk := by
  obtain ⟨k, hk⟩ := copyMetered_eq x (slotLines l x.fmt s) s
  obtain ⟨hdir, hsched, hlnk, -, hfields, hsram⟩ := bodyCopied_leaves x (slotLines l x.fmt s) plain { s with mtr := k }
  dsimp only
  rw [copyDone_in_flight hx hm hc hw hs]
  simp only [copyEnded, if_true, hk, copiedNonce_eq]
  refine ⟨holds_released _ _, congrArg (List.map _) hdir, hsram, fun hd hsrc => ?_, hfields, hsched, hlnk⟩
  rw [bodyCopied_from_cxl hd hsrc]
  rfl

/-- A copy that failed, in such a state. -/
theorem copyDone_fails (hx : blockOf l q b s = some x) (hm : x.state = .moving) (hc : x.copied = false)
    (hw : s.mnt.waiting = []) (hs : s.sched.steps ≠ []) :
    let t := copyDone l q b false plain s
    holds (.move l q b x.dest) t = false ∧ t.sram = s.sram ∧ t.kv.dir = s.kv.dir.map (putBack l q b) ∧
      getF (Reg.Kvc.moveFailCnt.at kvcBase) t = (getF (Reg.Kvc.moveFailCnt.at kvcBase) s + 1) % 2 ^ 32 ∧
      sameFields [Reg.Kvc.moveFailCnt.at kvcBase] s t := by
  obtain ⟨k, hk⟩ := copyMetered_eq x (slotLines l x.fmt s) s
  have hfail := moveFail_of_moving (s := { s with mtr := k }) hx hm
  dsimp only
  rw [copyDone_in_flight hx hm hc hw hs]
  simp only [copyEnded, Bool.false_eq_true, if_false, hk, hfail]
  exact ⟨holds_released _ _, rfl, rfl, getF_addF_same s _ 1, sameFields_addF s _ 1 _ (List.mem_singleton_self _)⟩

end Copies

/-! ### Lent blocks and block-copy messages (R211, R216, R415) -/

section Lent
variable {src l q b pod : Nat} {ok : Bool} {x : LentBlock} {y : Block} {s : State} {bytes : List Byte}

theorem lentCopyDone_of_none_demoting
    (h : ∀ x ∈ s.kv.lent, ¬ (x.pod = pod ∧ x.lslot = l ∧ x.seq = q ∧ x.blk = b ∧ x.demoting = true)) :
    lentCopyDone pod l q b ok s = s := by
  have hn : s.kv.lent.find? (fun x => x.pod = pod ∧ x.lslot = l ∧ x.seq = q ∧ x.blk = b ∧ x.demoting) = none :=
    List.find?_eq_none.2 fun x hx => by simpa using h x hx
  simp only [lentCopyDone, hn]

/-- A lent block's copy that ended well takes a counter value, tells the owner and gives its grant back. -/
theorem lentCopyDone_of_demoting
    (hx : (s.kv.lent.find? fun x => x.pod = pod ∧ x.lslot = l ∧ x.seq = q ∧ x.blk = b ∧ x.demoting) = some x)
    (hw : s.mnt.waiting = []) :
    lentCopyDone pod l q b true s = released (.lentMove pod l q b) (sendTo pod 0x05 l 0 1 (.block l q b)
      (meterAdd x.ten 7 (256 * (x.lines + 1)) (takeNonce s).2)) := by
  obtain ⟨r, hr⟩ := takeNonce_eq s
  simp only [lentCopyDone, hx, if_true]
  refine releaseAct_of_idle ?_
  rw [hr]
  exact hw

theorem lentCopyDone_succeeds
    (hx : (s.kv.lent.find? fun x => x.pod = pod ∧ x.lslot = l ∧ x.seq = q ∧ x.blk = b ∧ x.demoting) = some x)
    (hw : s.mnt.waiting = []) :
    let t := lentCopyDone pod l q b true s
    holds (.lentMove pod l q b) t = false ∧ t.sram = s.sram ∧ t.kv.lent = s.kv.lent ∧
      getF (Reg.Kvc.nonce.at kvcBase) t = (getF (Reg.Kvc.nonce.at kvcBase) s + 1) % 2 ^ 64 ∧
      sameFields [Reg.Kvc.nonce.at kvcBase] s t := by
  obtain ⟨r, hr⟩ := takeNonce_eq s
  dsimp only
  rw [lentCopyDone_of_demoting hx hw, hr]
  exact ⟨holds_released _ _, rfl, rfl, getF_addF_same s _ 1, sameFields_addF s _ 1 _ (List.mem_singleton_self _)⟩

theorem keepLent_of_room {ten fmt first fill d : Nat}
    (hd : firstFit ((bytes.length + 255) / 256) (getF (Reg.Kvc.lend.at kvcBase) s * 4096) (lentRuns s) = some d)
    (hr : s.lnk.reclaiming = false) (hn : s.ens.lendNext = none) :
    keepLent pod ten l q b fmt first fill bytes s = sramPut ((lentBase s + d) * 256) bytes { s with kv := { s.kv with
      lent := s.kv.lent ++ [⟨pod, ten, q, l, b, fmt, first, fill, (bytes.length + 255) / 256, lentBase s + d, false⟩] } } := by
  simp [keepLent, hd, hr, hn]

theorem keepLent_of_no_room {ten fmt first fill : Nat}
    (h : firstFit ((bytes.length + 255) / 256) (getF (Reg.Kvc.lend.at kvcBase) s * 4096) (lentRuns s) = none ∨
      s.lnk.reclaiming = true ∨ s.ens.lendNext ≠ none) :
    keepLent pod ten l q b fmt first fill bytes s = s := by
  unfold keepLent
  dsimp only
  split
  case _ d hd =>
    refine if_pos (h.resolve_left ?_ |>.imp_right Option.isSome_iff_ne_none.2)
    simp [hd]
  · rfl

theorem blockCopy_back (hy : blockOf l q b s = some y) (hm : y.state = .moving) (hs : y.src = .lent) (hd : y.dest = .hot) :
    blockCopy src l q b (.back bytes) s =
      sramPut (y.destLoc * 256) (bytes.take (slotLines l y.fmt s * 256)) (hear src s) := by
  have hu : blockOf l q b (hear src s) = some y := hy
  simp only [blockCopy, hu]
  exact if_pos ⟨hm, hs, hd⟩

theorem blockCopy_of_lent (hx : lentOf src l q b s = some x) :
    blockCopy src l q b .freed s = dropLent x (hear src s) ∧
      blockCopy src l q b .want s = sendTo src 0x05 l 0 (x.lines * 4) (.block l q b) (hear src s) := by
  have hu : lentOf src l q b (hear src s) = some x := hx
  simp [blockCopy, hu]

theorem blockCopy_restore_of_unasked {r : Option (List Byte)} (h : (l, q, b) ∉ s.flt.restoring) :
    blockCopy src l q b (.restore r) s = hear src s := by
  have hu : ¬ s.flt.restoring.contains (l, q, b) = true := by simpa using h
  exact if_pos hu

end Lent

/-! ### Queries over a lent block (R211) -/

section Queries
variable {src v step ten l q b head grp lim holder : Nat} {catt : Word} {qs : List Nat} {x : LentBlock} {s : State}

theorem length_attendBlock (p : Partial) (scores : List Nat) (vals : List (List Nat)) :
    (attendBlock p scores vals).o.length = p.o.length := by
  unfold attendBlock
  split
  · rfl
  · simp

theorem length_newPartial (d : Nat) : (newPartial d).o.length = d := List.length_replicate

theorem peerQuery_of_none (h : lentOf src l q b s = none) :
    peerQuery src v step ten l q b head grp lim holder catt qs s = hear src s := by
  have hu : lentOf src l q b (hear src s) = none := h
  simp only [peerQuery, hu]

theorem peerQuery_of_other_tenant (hx : lentOf src l q b s = some x) (ht : x.ten ≠ ten) :
    peerQuery src v step ten l q b head grp lim holder catt qs s = failPeer src step 11 (hear src s) := by
  have hu : lentOf src l q b (hear src s) = some x := hx
  simp only [peerQuery, hu]
  exact if_pos ht

/-- The numbers of an answer: the head, the holder, the partial's maximum and sum, and its vector in BF16. -/
def partialAnswer (head holder : Nat) (p : Partial) : List Nat :=
  [head, holder, p.m, p.s] ++ p.o.map fun y => (toFloat bf16 .rne (f32 y)).1

/-- A query over a clean block of its tenant: saturated elements and operations are counted, and a partial with one
element per element of the query is answered. -/
theorem peerQuery_answers (hx : lentOf src l q b s = some x) (ht : x.ten = ten)
    (hp : ∀ i, i < x.lines → isPoisoned ((x.loc + i) * 256) s = false) :
    ∃ p n dense element func, p.o.length = qs.length ∧
      peerQuery src v step ten l q b head grp lim holder catt qs s =
        sendTo src 0x02 l step ((32 + 2 * qs.length + 63) / 64) (.partials ten)
          (updVec v (fun r => { r with out := partialAnswer head holder p })
            (countOps ten dense element func (addF (vecF Reg.Vec.kvDecSatCnt v) n (hear src s)))) := by
  have hu : lentOf src l q b (hear src s) = some x := hx
  have hclean : ¬ ((List.range x.lines).any fun i => isPoisoned ((x.loc + i) * 256) s) = true := by
    simpa using hp
  change ¬ ((List.range x.lines).any fun i => isPoisoned ((x.loc + i) * 256) (hear src s)) = true at hclean
  simp only [peerQuery, hu, if_neg (not_not_intro ht), if_neg hclean]
  exact ⟨_, _, _, _, _, (length_attendBlock _ _ _).trans (length_newPartial _), rfl⟩

theorem length_partialAnswer (head holder : Nat) (p : Partial) : (partialAnswer head holder p).length = 4 + p.o.length := by
  rw [partialAnswer, List.length_append, List.length_map]
  rfl

theorem take_partialAnswer (head holder : Nat) (p : Partial) : (partialAnswer head holder p).take 2 = [head, holder] := rfl

theorem vecOf_updVec_same (v : Nat) (f : VecRec → VecRec) (s : State) : vecOf v (updVec v f s) = f (vecOf v s) :=
  SMap.get_set_same _ _ _ _

theorem vecOf_updVec_other {w : Nat} (h : w ≠ v) (f : VecRec → VecRec) (s : State) : vecOf w (updVec v f s) = vecOf w s :=
  SMap.get_set_other _ _ _ _ _ h

/-- What an answered query makes of the state: the vector unit's output, its count of saturated elements, and nothing in
the other units, SRAM, the tiers and the steps. -/
theorem peerQuery_result (hx : lentOf src l q b s = some x) (ht : x.ten = ten)
    (hp : ∀ i, i < x.lines → isPoisoned ((x.loc + i) * 256) s = false) :
    let t := peerQuery src v step ten l q b head grp lim holder catt qs s
    (vecOf v t).out.take 2 = [head, holder] ∧ (vecOf v t).out.length = 4 + qs.length ∧
      (∀ w, w ≠ v → vecOf w t = vecOf w s) ∧ sameFields [vecF Reg.Vec.kvDecSatCnt v] s t ∧
      t.sram = s.sram ∧ t.kv = s.kv ∧ t.sched = s.sched := by
  obtain ⟨p, n, dense, element, func, hlen, e⟩ := peerQuery_answers (v := v) (step := step) (head := head) (grp := grp)
    (lim := lim) (holder := holder) (catt := catt) (qs := qs) hx ht hp
  dsimp only
  rw [e]
  let u := countOps ten dense element func (addF (vecF Reg.Vec.kvDecSatCnt v) n (hear src s))
  let f := fun r : VecRec => { r with out := partialAnswer head holder p }
  have hout : (vecOf v (updVec v f u)).out = partialAnswer head holder p := congrArg VecRec.out (vecOf_updVec_same v f u)
  refine ⟨(congrArg (List.take 2) hout).trans (take_partialAnswer _ _ _), (congrArg List.length hout).trans ?_,
    fun w hw => vecOf_updVec_other hw f u, sameFields_addF s _ n _ (List.mem_singleton_self _), rfl, rfl, rfl⟩
  rw [length_partialAnswer, hlen]

end Queries

/-! ### Idle pauses and expiry (R218, R220) -/

section Pauses
variable {q others : Nat} {s : State}

/-- A pause takes a block of the sequence for demotion. -/
def chosenToDemote (q : Nat) (b : Block) : Block := if b.seq = q then { b with demote := true, promote := false } else b

/-- A pause writes the sequence's record, reports it, seals its open blocks and takes its blocks for demotion. -/
theorem pauseSeq_reports (q cause ttl : Nat) (s : State) :
    ∃ w, reports (setSeq q { seqOf q s with state := .paused, pausing := none, expiry := now s + ticksS ttl } s) w ∧
      pauseSeq q cause ttl s = mapBlocks (chosenToDemote q) (sealSeq q w) :=
  ⟨_, reports_sendAll _ _ _ _ (reports_emit _ _ _ _ _ (reports_refl _)), rfl⟩

/-- After a seal and the choice for demotion every block of the sequence is to be demoted, and none is open. -/
theorem demoted_of_mem_sealed {b : Block} (h : b ∈ (mapBlocks (chosenToDemote q) (sealSeq q s)).kv.dir) (hq : b.seq = q) :
    b.demote = true ∧ b.state ≠ .opened := by
  obtain ⟨c, hc, rfl⟩ := List.mem_map.1 h
  obtain ⟨d, -, rfl⟩ := List.mem_map.1 hc
  by_cases hd : d.seq = q
  · by_cases ho : d.state = .opened <;> simp [chosenToDemote, hd, ho]
  · simp [chosenToDemote, hd] at hq

/-- Freeing blocks leaves the register file and the sequences. -/
theorem freeWhere_leaves (p : Block → Bool) (s : State) : (freeWhere p s).regs = s.regs ∧ (freeWhere p s).sched = s.sched := by
  unfold freeWhere
  generalize s.kv.dir.filter p = bs
  induction bs generalizing s with
  | nil => exact ⟨rfl, rfl⟩
  | cons b bs ih =>
    have hb : (freeBlock b s).regs = s.regs ∧ (freeBlock b s).sched = s.sched := by
      unfold freeBlock
      cases blockHotLoc b <;> exact ⟨rfl, rfl⟩
    exact ⟨(ih _).1.trans hb.1, (ih _).2.trans hb.2⟩

theorem discardBlocks_leaves (q : Nat) (s : State) :
    (discardBlocks q s).regs = s.regs ∧ (discardBlocks q s).sched = s.sched :=
  freeWhere_leaves _ s

theorem freeing_of_mem_discarded {b : Block} (h : b ∈ (discardBlocks q s).kv.dir) (hq : b.seq = q) : b.freeing = true := by
  obtain ⟨c, -, rfl⟩ := List.mem_map.1 h
  by_cases hc : c.seq = q
  · simp [hc]
  · simp [hc] at hq

theorem reports_noticeEpoch {z : State} (e : Nat) (h : reports z s) : reports z (noticeEpoch e s) := by
  unfold noticeEpoch
  split
  · exact reports_sendAll _ _ _ _ h
  · exact h

theorem reports_dropMirror {z : State} (q : Nat) (h : reports z s) : reports z (dropMirror q s) := by
  unfold dropMirror
  split
  · exact reports_sendOn _ _ h
  · exact h

/-- The messages at a sequence's end are all that follows its record's and its blocks' release. -/
theorem endSeq_reports (q : Nat) (s : State) : reports (discardBlocks q (freeSeq q s)) (endSeq q s) :=
  reports_noticeEpoch _ (reports_sendAll _ _ _ _ (reports_dropMirror q (reports_refl _)))

theorem pauseExpiry_of_not_due (h : isHead s = false ∨ (seqOf q s).state ≠ .paused ∨ now s < (seqOf q s).expiry) :
    pauseExpiry q others s = s := by
  refine if_neg ?_
  rintro ⟨hh, hp, he⟩
  rcases h with h | h | h
  · simp [h] at hh
  · exact h hp
  · omega

/-- An expiry counts and ends the sequence; the rest is reporting. -/
theorem pauseExpiry_of_due (hh : isHead s = true) (hp : (seqOf q s).state = .paused) (he : (seqOf q s).expiry ≤ now s) :
    reports (discardBlocks q (freeSeq q (addF (Reg.Kvc.expireCnt.at kvcBase) 1 s))) (pauseExpiry q others s) := by
  unfold pauseExpiry
  dsimp only
  rw [if_pos ⟨hh, hp, he⟩]
  exact reports_emit _ _ _ _ _ (endSeq_reports _ _)

theorem seqOf_of_sched {t : State} (h : t.sched = s.sched) (k : Nat) : seqOf k t = seqOf k s := by rw [seqOf, seqOf, h]

theorem pauseSeq_result (q cause ttl : Nat) (s : State) :
    let t := pauseSeq q cause ttl s
    seqOf q t = { seqOf q s with state := .paused, pausing := none, expiry := now s + ticksS ttl } ∧
      (∀ p, p ≠ q → seqOf p t = seqOf p s) ∧ (∀ b ∈ t.kv.dir, b.seq = q → b.demote = true ∧ b.state ≠ .opened) ∧
      sameFields reportFields s t := by
  obtain ⟨w, hw, e⟩ := pauseSeq_reports q cause ttl s
  have hsched := reports_sched hw
  dsimp only
  rw [e]
  refine ⟨?_, fun p hp => ?_, fun b => demoted_of_mem_sealed, hw.1⟩
  · exact (seqOf_of_sched hsched q).trans (seqOf_setSeq s q _)
  · exact (seqOf_of_sched hsched p).trans (seqOf_setSeq_other s q p _ hp)

theorem pauseExpiry_result (hh : isHead s = true) (hp : (seqOf q s).state = .paused) (he : (seqOf q s).expiry ≤ now s) :
    let t := pauseExpiry q others s
    (seqOf q t).state = .free ∧ (∀ p, p ≠ q → seqOf p t = seqOf p s) ∧
      getF (Reg.Kvc.expireCnt.at kvcBase) t = (getF (Reg.Kvc.expireCnt.at kvcBase) s + 1) % 2 ^ 32 ∧
      (∀ b ∈ t.kv.dir, b.seq = q → b.freeing = true) ∧ sameFields (Reg.Kvc.expireCnt.at kvcBase :: reportFields) s t := by
  let u := addF (Reg.Kvc.expireCnt.at kvcBase) 1 s
  have hr : reports (discardBlocks q (freeSeq q u)) (pauseExpiry q others s) := pauseExpiry_of_due hh hp he
  obtain ⟨hregs, hsched⟩ := discardBlocks_leaves q (freeSeq q u)
  have hseq := fun p => seqOf_of_sched ((reports_sched hr).trans hsched) p
  have hu : sameFields reportFields u (pauseExpiry q others s) := sameFields_then (sameFields_of_regs hregs) hr.1
  refine ⟨?_, fun p hne => ?_, ?_, fun b hb => ?_, ?_⟩
  · rw [hseq, freeSeq, seqOf_setSeq]
    rfl
  · exact (hseq p).trans (seqOf_setSeq_other u q p _ hne)
  · have hkey : (Reg.Kvc.expireCnt.at kvcBase).key ∉ reportFields.map Field.key := by decide
    rw [hu _ hkey, getF_addF_same]
    rfl
  · rw [reports_kv hr] at hb
    exact freeing_of_mem_discarded hb
  · exact sameFields_trans (sameFields_addF s _ 1 [_] (List.mem_singleton_self _)) hu

end Pauses

/-- Settles O43, family by family: fetches, ends of copies, block-copy messages with queries, and idle pauses and expiry;
each clause by the law of its operation. -/
theorem keyValueTiers : Obligations.KeyValueTiers := by
  refine ⟨fun s n l q b ok plain => ⟨fun hk => ?_, fun x hk hx => ⟨fun hf => ?_, fun hok hsec => ?_⟩⟩,
    fun s l q b plain => ⟨fun ok h => ?_, fun x hx hm hc hw hs => ⟨?_, ?_⟩, fun pod ok h => ?_, fun pod x hx hw => ?_⟩,
    fun s src l q b => ⟨fun ten fmt first fill bytes d hd hr hn => ?_, fun ten fmt first fill bytes h => ?_, fun x hx => ?_,
      fun x bytes hx hm hs hd => ?_, fun bytes h => ?_,
      fun v step blk head grp lim holder ten catt qs => ⟨fun h => ?_, fun x hx ht => ?_, fun x hx ht hp => ?_⟩⟩,
    fun s q => ⟨fun h => ?_, fun h => ?_, fun h m => ?_, fun m hh hp he => ?_⟩⟩
  · exact congrArg Host.Outcome.next (fetchDone_of_not_fetching hk)
  · exact congrArg Host.Outcome.next (fetchDone_unverified hk hx hf)
  · obtain ⟨loc, e⟩ := fetchDone_verified (plain := plain) hk hx hok hsec
    have hgone : (n, l.toNat, q.toNat, b) ∉ s.kv.fetching.filter fun y => ¬ y = (n, l.toNat, q.toNat, b) := by simp
    exact ⟨_, ⟨n, l.toNat, q.toNat, b, loc⟩, congrArg Host.Outcome.next e, rfl, rfl, hgone, sramTake_written (s := s) rfl,
      sameBytes_written rfl, rfl⟩
  · exact congrArg Host.Outcome.next (copyDone_of_none_moving h)
  · exact ⟨_, rfl, copyDone_succeeds hx hm hc hw hs⟩
  · obtain ⟨hheld, hsram, hdir, hcnt, hfields⟩ := copyDone_fails (plain := plain) hx hm hc hw hs
    exact ⟨_, rfl, hheld, hsram, fun y hy => src_moving_of_putBack (hdir ▸ hy), hcnt, hfields⟩
  · exact congrArg Host.Outcome.next (lentCopyDone_of_none_demoting h)
  · exact ⟨_, rfl, lentCopyDone_succeeds hx hw⟩
  · exact ⟨_, _, congrArg Host.Outcome.next (keepLent_of_room (s := hear src.toNat s) hd hr hn), rfl, rfl, rfl, rfl, rfl, rfl,
      sramTake_written (s := s) rfl, sameBytes_written rfl, rfl⟩
  · exact congrArg Host.Outcome.next (keepLent_of_no_room (s := hear src.toNat s) h)
  · obtain ⟨hfreed, hwant⟩ := blockCopy_of_lent hx
    exact ⟨congrArg Host.Outcome.next hfreed, congrArg Host.Outcome.next hwant⟩
  · exact ⟨_, congrArg Host.Outcome.next (blockCopy_back hx hm hs hd), sramTake_written (s := s) rfl, sameBytes_written rfl, rfl⟩
  · exact congrArg Host.Outcome.next (blockCopy_restore_of_unasked h)
  · exact congrArg Host.Outcome.next (peerQuery_of_none h)
  · exact congrArg Host.Outcome.next (peerQuery_of_other_tenant hx ht)
  · rw [← List.length_map BitVec.toNat (as := qs)]
    exact ⟨_, rfl, peerQuery_result hx ht hp⟩
  · exact congrArg Host.Outcome.next (if_neg h)
  · exact ⟨_, congrArg Host.Outcome.next (if_pos h), pauseSeq_result q.toNat 2 (ttlOf 0 s) s⟩
  · exact congrArg Host.Outcome.next (pauseExpiry_of_not_due h)
  · exact ⟨_, rfl, pauseExpiry_result hh hp he⟩

end Sys2Proof.Safety

/-! Register pairs, held accesses and GLB_RINGABORT (R338 to R342, R410, R430, R431): what a read or a write of a pair's
half does, how held accesses go on, what an abort of one leaves, and O54 from them. -/

namespace Sys2Proof.Safety
open Sys2Proof Sys2Proof.Machine

/-! ### A requester's port -/

section Ports
variable {k j : Nat} {s t : State}

theorem reqOf_updReq_same (k : Nat) (f : ReqPort → ReqPort) (s : State) : reqOf k (updReq k f s) = f (reqOf k s) := by
  simp [reqOf, updReq, updCfg, SMap.upd]

theorem reqOf_updReq_other (h : j ≠ k) (f : ReqPort → ReqPort) (s : State) : reqOf j (updReq k f s) = reqOf j s := by
  simp [reqOf, updReq, updCfg, SMap.upd, SMap.get_set_other _ _ _ _ _ h]

/-- A state that differs from one with a port updated in the register file and the lifetime counts alone, written out. -/
theorem updReq_of_bare {f : ReqPort → ReqPort} (h : bare t = bare (updReq k f s)) :
    t = { s with regs := t.regs, cfg := { s.cfg with reqs := t.cfg.reqs }, flt := { s.flt with life := t.flt.life } } := by
  refine (eq_of_bare h).trans ?_
  rw [cfg_of_bare h]
  rfl

/-- The port of a requester with other accesses held. -/
def setQueue (k : Nat) (l : List RegAccess) (s : State) : State := updReq k (fun p => { p with queue := l }) s

theorem reqOf_setQueue_same (k : Nat) (l : List RegAccess) (s : State) :
    reqOf k (setQueue k l s) = { reqOf k s with queue := l } := reqOf_updReq_same k _ s

theorem reqOf_setQueue_other (h : j ≠ k) (l : List RegAccess) (s : State) : reqOf j (setQueue k l s) = reqOf j s :=
  reqOf_updReq_other h _ s

/-- Putting a requester's accesses back as they stand changes no port. -/
theorem reqOf_setQueue_back {l : List RegAccess} (h : (reqOf k s).queue = l) (j : Nat) :
    reqOf j (setQueue k l s) = reqOf j s := by
  by_cases hj : j = k
  · rw [hj, reqOf_setQueue_same, ← h]
  · exact reqOf_setQueue_other hj l s

end Ports

/-! ### Reads of a LO half (R410, R426, R430) -/

section Reads
variable {k off n v : Nat} {s : State}

theorem exec_pairLoRead {r : Requester} {off : BitVec 26} (h : isPairLo off.toNat = true) (par : Parity) (s : State) :
    exec (.pairLoRead r off par) s = .next (regAccess r.toNat ⟨false, off.toNat, 4, 0⟩ par s) := if_pos h

theorem exec_pairLoRead_noSuchPair {r : Requester} {off : BitVec 26} (h : isPairLo off.toNat = false) (par : Parity)
    (s : State) : exec (.pairLoRead r off par) s = .fault .noSuchPair := if_neg (by simp [h])

theorem regAccess_of_stopped (h : ringRuns s = false) (k : Nat) (a : RegAccess) (par : Parity) : regAccess k a par s = s :=
  if_pos (by simp [h])

theorem regAccess_read_unreached (hr : ringRuns s = true) (ho : reaches k off s = false) (par : Parity) :
    regAccess k ⟨false, off, n, v⟩ par s = { s with answer := .value 0 } := by
  simp [regAccess, hr, ho]

theorem regAccess_read_badTwice (hr : ringRuns s = true) (ho : reaches k off s = true) :
    regAccess k ⟨false, off, n, v⟩ .badTwice s =
      report 0x0017 k 0 (domUncorrected 11 1 { s with answer := .value 0xFFFFFFFF }) := by
  simp [regAccess, hr, ho]

/-- A read that the root serves itself never waits, whatever else is held (R338). -/
theorem regAccess_read_window (hr : ringRuns s = true) (ho : reaches k off s = true) (hi : inWindow off = true) :
    regAccess k ⟨false, off, n, v⟩ .good s = readLo k off s := by
  simp [regAccess, hr, ho, takeAccess, hi, perform]

theorem pairAt_ltime : pairAt 0x60 = none := rfl

/-- Both halves of GLB_LTIME in one sample are the time. -/
theorem pairValue_ltime (s : State) : pairValue 0x60 s = now s := by
  have hlo : registerWord 0x60 s = now s % 2 ^ 32 := Nat.zero_add _
  have hhi : registerWord 0x64 s = now s / 2 ^ 32 := Nat.zero_add _
  simp only [pairValue, pairAt_ltime, hlo, hhi]
  exact Nat.mod_add_div' _ _

theorem readLo_ltime (k : Nat) (s : State) : readLo k 0x60 s =
    { updReq k (fun p => { p with latches := SMap.set dfltZero p.latches 0x60 (now s / 2 ^ 32) }) s with
      answer := .value (now s % 2 ^ 32) } := by
  have h : sqDataLo 0x60 = false := rfl
  simp only [readLo, h, pairValue_ltime, Bool.false_eq_true, if_false]

end Reads

/-! ### Writes of a pair's halves (R277, R281, R430, R431) -/

/-- The 64-bit value that a write of a HI half applies: the LO half held, or the one in force, below it. -/
def mergedPair (k : Nat) (f : Field) (hi : Nat) (s : State) : Nat :=
  (SMap.get dfltNone (reqOf k s).holds f.off).getD (getF f s % 2 ^ 32) + hi * 2 ^ 32

/-- The state with a requester's hold for a pair emptied. -/
def emptyHold (k off : Nat) (s : State) : State := updReq k (fun p => { p with holds := SMap.set dfltNone p.holds off none }) s

section Writes
variable {k off n hi : Nat} {f : FieldSpec} {s t : State}

theorem exec_pairHiWrite {off : BitVec 26} (h : isPairHi off.toNat = true) (r : Requester) (v : Word) (par : Parity)
    (s : State) : exec (.pairHiWrite r off v par) s = .next (regAccess r.toNat ⟨true, off.toNat, 4, v.toNat⟩ par s) := if_pos h

theorem exec_pairHiWrite_noSuchPair {off : BitVec 26} (h : isPairHi off.toNat = false) (r : Requester) (v : Word)
    (par : Parity) (s : State) : exec (.pairHiWrite r off v par) s = .fault .noSuchPair := if_neg (by simp [h])

theorem performWrite_lo (hb : byteWindow off = false) (ha : off % 4 = 0) (hm : ¬ (0x6F000 ≤ off ∧ off < 0x70000))
    (hp : pairAt off = some f) (hw : pairWritable f = true) (k v : Nat) (s : State) :
    performWrite k off 4 v s = holdLo k off (v % 2 ^ 32) s := by
  simp [performWrite, writeWord, hb, ha, hm, hp, hw]

theorem performWrite_hi (hb : byteWindow off = false) (ha : off % 4 = 0) (hm : ¬ (0x6F000 ≤ off ∧ off < 0x70000))
    (hn : pairAt off = none) (hp : pairAt (off - 4) = some f) (hw : pairWritable f = true) (k v : Nat) (s : State) :
    performWrite k off 4 v s = applyPair k f (v % 2 ^ 32) s := by
  simp [performWrite, writeWord, hb, ha, hm, hn, hp, hw]

theorem holds_holdLo (k off w : Nat) (s : State) : SMap.get dfltNone (reqOf k (holdLo k off w s)).holds off = some w := by
  rw [holdLo, reqOf_updReq_same, SMap.get_set_same]

theorem holds_emptyHold (k off : Nat) (s : State) : SMap.get dfltNone (reqOf k (emptyHold k off s)).holds off = none := by
  rw [emptyHold, reqOf_updReq_same, SMap.get_set_same]

/-- A hold that was emptied stays empty, and the other ports as they were, where only registers change then. -/
theorem emptied_of_bare (h : bare t = bare (emptyHold k off s)) :
    SMap.get dfltNone (reqOf k t).holds off = none ∧ ∀ j, j ≠ k → reqOf j t = reqOf j s := by
  have hc : t.cfg = (emptyHold k off s).cfg := cfg_of_bare h
  refine ⟨?_, fun j hj => ?_⟩
  · rw [reqOf_of_cfg hc, holds_emptyHold]
  · rw [reqOf_of_cfg hc, emptyHold, reqOf_updReq_other hj]

/-- An address is cut to its boundary, and a cut is one clamp (R281). -/
theorem clampFor_align (hf : f.clamp = .align n) (v : Nat) (s : State) :
    ∃ t, clampFor f v s = (v / n * n, t) ∧ clampsMore (if v % n = 0 then 0 else 1) s t ∧
      touches [Reg.Glb.clampCnt, Reg.Glb.clampLast] s t := by
  have hv : v / n * n = v ↔ v % n = 0 := by
    have := Nat.div_add_mod' v n
    omega
  refine ⟨(clampFor f v s).2, by simp [clampFor, hf, applyClamp], ?_⟩
  simp only [clampFor, hf, applyClamp, hv]
  split
  · exact ⟨clampsMore_refl s, touches_refl _ s⟩
  · exact ⟨clampsMore_countClamp _ s, touches_countClamp _ s⟩

/-- A frozen field takes its own value without a count, refuses a change while it is frozen, and is clamped otherwise. -/
theorem writeField_rwf (ha : f.acc = .rwf) (s0 : State) (v : Nat) (s : State) :
    writeField s0 v f s =
      if v = getF f.field s then (s, false)
      else if frozenNow f.frz f.field.off s0 then (s, true)
      else (setF f.field (clampFor f v s).1 (clampFor f v s).2, false) := by
  simp only [writeField, ha]

/-- A write of a HI half: the hold empties, the field is written, and a refusal counts at the HI half. -/
theorem applyPair_eq (k : Nat) (f : FieldSpec) (hi : Nat) (s : State) :
    applyPair k f hi s =
      let u := emptyHold k f.field.off s
      let x := writeField u (mergedPair k f.field hi s) f u
      if x.2 then countIgnored (f.field.off + 4) x.1 else x.1 := rfl

theorem getF_emptyHold (g : Field) (k off : Nat) (s : State) : getF g (emptyHold k off s) = getF g s := rfl

theorem applyPair_same (ha : f.acc = .rwf) (h : mergedPair k f.field hi s = getF f.field s) :
    applyPair k f hi s = emptyHold k f.field.off s := by
  simp [applyPair_eq, writeField_rwf ha, getF_emptyHold, h]

theorem applyPair_frozen (ha : f.acc = .rwf) (h : mergedPair k f.field hi s ≠ getF f.field s)
    (hb : frozenNow f.frz f.field.off (emptyHold k f.field.off s) = true) :
    applyPair k f hi s = countIgnored (f.field.off + 4) (emptyHold k f.field.off s) := by
  simp [applyPair_eq, writeField_rwf ha, getF_emptyHold, h, hb]

/-- A change that is not refused takes the aligned value, and a cut is one clamp. -/
theorem writeField_rwf_align (ha : f.acc = .rwf) (hc : f.clamp = .align n) (hk : Reg.Glb.clampCnt.key ≠ f.field.key)
    {v : Nat} (h : v ≠ getF f.field s) (hb : frozenNow f.frz f.field.off s = false) (hw : v < 2 ^ f.field.w) :
    ∃ t, writeField s v f s = (t, false) ∧ getF f.field t = v / n * n ∧ clampsMore (if v % n = 0 then 0 else 1) s t ∧
      touches [f.field, Reg.Glb.clampCnt, Reg.Glb.clampLast] s t := by
  obtain ⟨t, hcl, hn, ht⟩ := clampFor_align hc v s
  refine ⟨setF f.field (v / n * n) t, by simp [writeField_rwf ha, h, hb, hcl], ?_, ?_, ?_⟩
  · rw [getF_setF_same]
    exact Nat.mod_eq_of_lt (Nat.lt_of_le_of_lt (Nat.div_mul_le_self v n) hw)
  · exact clampsMore_trans hn (clampsMore_setF _ _ hk t)
  · exact touches_trans (touches_mono ht (by simp)) (touches_mono (touches_setF t _ _) (by simp))

theorem applyPair_taken (h : writeField (emptyHold k f.field.off s) (mergedPair k f.field hi s) f (emptyHold k f.field.off s) =
    (t, false)) : applyPair k f hi s = t := by
  simp [applyPair_eq, h]

end Writes

/-! ### ENS_ADDR, the pair of the statement -/

section EnsAddr
variable {k hi : Nat} {s : State}

/-- The pair of ENS_ADDR: frozen, and aligned to 256 bytes. -/
def ensAddrSpec : FieldSpec := ⟨Reg.Glb.ensAddr, .rwf, 0, .align 256, .ensBusy, 0, 1⟩

theorem pairAt_ensAddr : pairAt 0x100 = some ensAddrSpec := rfl

theorem pairAt_ensAddr_hi : pairAt 0x104 = none := rfl

/-- What freezes ENS_ADDR (Table 10-9): the states VERIFYING and APPLYING, and an amendment. -/
theorem frozen_ensAddr (s : State) : frozenNow .ensBusy 0x100 s = true ↔
    getF Reg.Glb.ensState s = 1 ∨ getF Reg.Glb.ensState s = 2 ∨ isSet Reg.Glb.ensAmend s = true := by
  simp only [frozenNow, Bool.or_eq_true, decide_eq_true_eq, or_assoc]

theorem exec_ensAddr_lo {r : Requester} (hg : ringTakes r.toNat 0x100 s) (v : Nat) :
    exec (.registerWrite r 0x100 4 v .good) s = .next (holdLo r.toNat 0x100 (v % 2 ^ 32) s) := by
  have h := exec_write (size := 4) (by decide) (by decide) (by decide) hg (.inl rfl) v
  exact h.trans (congrArg _ (performWrite_lo rfl rfl (by decide) pairAt_ensAddr rfl _ _ s))

theorem exec_ensAddr_hi {r : Requester} (hg : ringTakes r.toNat 0x104 s) (hi : Word) :
    exec (.pairHiWrite r 0x104 hi .good) s = .next (applyPair r.toNat ensAddrSpec hi.toNat s) := by
  have ho : (0x104 : BitVec 26).toNat = 0x104 := rfl
  rw [exec_pairHiWrite (off := 0x104) rfl, ho, regAccess_performs hg (.inl rfl),
    performWrite_hi rfl rfl (by decide) pairAt_ensAddr_hi pairAt_ensAddr rfl, Nat.mod_eq_of_lt hi.isLt]

end EnsAddr

/-! ### Held accesses (R340, R429) -/

section Held
variable {k : Nat} {a : RegAccess} {l : List RegAccess} {s t : State}

theorem hungAccessResume_of_stopped (h : ringRuns s = false) (k : Nat) : hungAccessResume k s = s := if_neg (by simp [h])

theorem glbRingabort_of_stopped (h : ringRuns s = false) (m : Nat) : glbRingabort m s = s := if_neg (by simp [h])

theorem drainPosted_nil (h : s.cfg.posted = []) : drainPosted [] s = s := by
  show { s with cfg := { s.cfg with posted := [] } } = s
  rw [← h]

theorem perform_write (k off n v : Nat) (s : State) : perform k ⟨true, off, n, v⟩ s = performWrite k off n v s := if_pos rfl

/-- With no posted write of the host waiting, only the requester's own accesses go on. -/
theorem resumeHeld_of_drained (hd : drainHeld k (reqOf k s).queue s = t) (hp : t.cfg.posted = []) : resumeHeld k s = t := by
  unfold resumeHeld
  dsimp only
  rw [hd, hp, drainPosted_nil hp, ite_self]

/-- Behind a closed crossing everything stays held. -/
theorem resumeHeld_of_closed (hp : s.cfg.posted = []) (hq : (reqOf k s).queue = a :: l) (hc : crossingOpen a.off s = false) :
    resumeHeld k s = setQueue k (a :: l) s := by
  refine resumeHeld_of_drained ?_ hp
  rw [hq]
  exact if_neg (by simp [hc])

/-- A single held access whose crossing is open is performed, and nothing stays held. -/
theorem resumeHeld_of_open (hp : (perform k a s).cfg.posted = []) (hq : (reqOf k s).queue = [a])
    (hc : crossingOpen a.off s = true) : resumeHeld k s = setQueue k [] (perform k a s) := by
  refine resumeHeld_of_drained ?_ hp
  rw [hq]
  exact if_pos hc

theorem resumeHeld_of_empty (hp : s.cfg.posted = []) (hq : (reqOf k s).queue = []) : resumeHeld k s = setQueue k [] s := by
  refine resumeHeld_of_drained ?_ hp
  rw [hq]
  rfl

/-- A held write of SCH_CHUNK goes on: its legal value is in the shadow, and the queue is empty. -/
theorem resumeHeld_chunk {v : Nat} (hp : s.cfg.posted = []) (hq : (reqOf k s).queue = [⟨true, schBase + 0x114, 4, v⟩])
    (hc : crossingOpen (schBase + 0x114) s = true) :
    let t := resumeHeld k s
    (reqOf k t).queue = [] ∧
      SMap.get dfltZero t.cfg.shadows (Reg.Sch.chunk.at schBase).key = max 64 (min (v % 2 ^ 14) 8192) ∧
      sameFields [Reg.Glb.clampCnt, Reg.Glb.clampLast] s t := by
  obtain ⟨u, hu, -, hk, hb⟩ := wordWritten_chunk v s
  have hw : perform k ⟨true, schBase + 0x114, 4, v⟩ s =
      setShadow (Reg.Sch.chunk.at schBase).key (max 64 (min (v % 2 ^ 14) 8192)) u := by
    rw [perform_write, performWrite_word (plainWord_stated _ (by simp)), hu]
  have hpost : (perform k ⟨true, schBase + 0x114, 4, v⟩ s).cfg.posted = [] := by
    rw [hw, ← hp, ← cfg_of_bare hb]
    rfl
  intro t
  have ht : t = setQueue k [] (setShadow _ _ u) := (resumeHeld_of_open hpost hq hc).trans (congrArg _ hw)
  rw [ht]
  refine ⟨?_, shadows_setShadow_same _ _ u, hk⟩
  rw [reqOf_setQueue_same]

end Held

/-! ### GLB_RINGABORT (R342) -/

/-- A read that is aborted answers all ones; a write answers nothing. -/
def abortAnswer (a : RegAccess) (s : State) : State := { s with answer := if a.write then s.answer else .value 0xFFFFFFFF }

/-- A single held access is aborted: it is answered and counted, its crossing is reset, and nothing stays held. -/
def abortedOne (k b : Nat) (a : RegAccess) (s : State) : State :=
  setQueue k [] (addF Reg.Glb.ringAbortCnt 1 (crossingReset b false (abortAnswer a s)))

section Abort
variable {k b : Nat} {a : RegAccess} {s : State}

theorem abortAnswer_eq (a : RegAccess) (s : State) :
    (if a.write then s else { s with answer := .value 0xFFFFFFFF }) = abortAnswer a s := by
  unfold abortAnswer
  split <;> rfl

theorem crossingOf_setCrossing_same (b : Nat) (c : Crossing) (s : State) : crossingOf b (setCrossing b c s) = c := by
  simp [crossingOf, setCrossing]

theorem crossingOf_setCrossing_other {j : Nat} (h : j ≠ b) (c : Crossing) (s : State) :
    crossingOf j (setCrossing b c s) = crossingOf j s :=
  SMap.get_set_other _ _ _ _ _ h

/-- One bit of the mask is one requester's. -/
theorem exec_glbRingabort_bit (h : ringRuns s = true) (r : Requester) :
    exec (.glbRingabort (BitVec.ofNat 4 (2 ^ r.toNat))) s = .next (ringAbortBit r.toNat s) := by
  have hbits : ∀ r : Requester,
      ((List.range 4).filter fun j => (BitVec.ofNat 4 (2 ^ r.toNat)).toNat.testBit j) = [r.toNat] := by decide
  show Host.Outcome.next (glbRingabort _ s) = _
  rw [glbRingabort, if_pos h, hbits]
  rfl

theorem ringAbortBit_of_none (h : stoppedClock k s = none) : ringAbortBit k s = countIgnored 0x68 s := by
  rw [ringAbortBit, h]

theorem ringAbortBit_of_one (hp : s.cfg.posted = []) (hq : (reqOf k s).queue = [a]) (h : stoppedClock k s = some b) :
    ringAbortBit k s = setQueue k [] (abortedOne k b a s) := by
  have ha : ringAbortBit k s = resumeHeld k (abortedOne k b a s) := by
    rw [ringAbortBit, h]
    dsimp only [abortRequester]
    rw [hq]
    dsimp only [List.head?_cons]
    rw [abortAnswer_eq]
    rfl
  rw [ha, resumeHeld_of_empty]
  · exact hp
  · rw [abortedOne, reqOf_setQueue_same]

/-- The abort of a single access leaves the requester without one and its crossing in reset; both counts go up. -/
theorem ringAbortBit_result (hp : s.cfg.posted = []) (hq : (reqOf k s).queue = [a]) (h : stoppedClock k s = some b) :
    let t := ringAbortBit k s
    (reqOf k t).queue = [] ∧ (∀ j, j ≠ k → reqOf j t = reqOf j s) ∧ crossingOf b t = ⟨.held, (crossingOf b s).far, 0⟩ ∧
      (∀ j, j ≠ b → crossingOf j t = crossingOf j s) ∧
      getF Reg.Glb.ringAbortCnt t = (getF Reg.Glb.ringAbortCnt s + 1) % 2 ^ 32 ∧
      getF Reg.Glb.xrstDropCnt t = (getF Reg.Glb.xrstDropCnt s + (crossingOf b s).entries) % 2 ^ 32 ∧
      sameFields [Reg.Glb.ringAbortCnt, Reg.Glb.xrstDropCnt] s t ∧
      t = { s with regs := t.regs, answer := if a.write then s.answer else .value 0xFFFFFFFF,
                   cfg := { s.cfg with reqs := t.cfg.reqs, crossings := t.cfg.crossings } } := by
  have hkey : Reg.Glb.ringAbortCnt.key ≠ Reg.Glb.xrstDropCnt.key := by decide
  dsimp only
  rw [ringAbortBit_of_one hp hq h, abortedOne]
  refine ⟨?_, fun j hj => ?_, ?_, fun j hj => ?_, ?_, ?_, ?_, rfl⟩
  · rw [reqOf_setQueue_same]
  · rw [reqOf_setQueue_other hj, reqOf_setQueue_other hj]
    rfl
  · exact crossingOf_setCrossing_same b ⟨.held, (crossingOf b s).far, 0⟩ _
  · exact crossingOf_setCrossing_other hj ⟨.held, (crossingOf b s).far, 0⟩ _
  · show getF _ (addF _ 1 (crossingReset b false (abortAnswer a s))) = _
    rw [getF_addF_same]
    show (getF _ (addF Reg.Glb.xrstDropCnt _ (abortAnswer a s)) + 1) % _ = _
    rw [getF_addF_other _ _ _ _ hkey]
    rfl
  · show getF _ (addF _ 1 (crossingReset b false (abortAnswer a s))) = _
    rw [getF_addF_other _ _ _ _ hkey.symm]
    exact getF_addF_same (abortAnswer a s) Reg.Glb.xrstDropCnt _
  · exact sameFields_then (sameFields_addF (abortAnswer a s) Reg.Glb.xrstDropCnt (crossingOf b s).entries _ (by simp))
      (sameFields_addF (crossingReset b false (abortAnswer a s)) Reg.Glb.ringAbortCnt 1 _ (by simp))

end Abort

/-- Settles O54: the reads, the writes of both halves, the held accesses and the abort, each by the law of its operation. -/
theorem pairsAndHungAccesses : Obligations.PairsAndHungAccesses := by
  intro s r k goes ignoredAt others
  refine ⟨?_, ?_, ?_, ?_, ?_, ?_⟩
  · intro off par c
    refine ⟨exec_pairLoRead_noSuchPair (par := par) (s := s), fun hl hr => ?_, fun hl hr ho => ?_, fun hl hr ho hp => ?_,
      fun v hh => exec_pairHiWrite_noSuchPair hh r v par s⟩
    · exact (exec_pairLoRead hl par s).trans (congrArg _ (regAccess_of_stopped hr ..))
    · exact (exec_pairLoRead hl par s).trans (congrArg _ (regAccess_read_unreached hr ho par))
    · subst hp
      have hrep := reports_report 0x0017 k 0 (reports_refl (domUncorrected 11 1 { s with answer := .value 0xFFFFFFFF }))
      have hans := reports_answer hrep
      refine ⟨_, (exec_pairLoRead hl .badTwice s).trans (congrArg _ (regAccess_read_badTwice hr ho)), hans, ?_⟩
      rw [hans]
      exact hrep
  · intro hr ho
    have hx := (exec_pairLoRead (off := 0x60) rfl .good s).trans
      (congrArg _ ((regAccess_read_window hr ho rfl).trans (readLo_ltime k s)))
    refine ⟨_, hx, rfl, ?_, ?_, fun j hj => reqOf_updReq_other hj _ s, rfl⟩
    · show SMap.get dfltZero (reqOf k (updReq k _ s)).latches 0x60 = _
      rw [reqOf_updReq_same, SMap.get_set_same]
    · show (reqOf k (updReq k _ s)).queue = _
      rw [reqOf_updReq_same]
  · intro hg v
    refine ⟨_, exec_ensAddr_lo hg v, holds_holdLo k 0x100 _ s, ?_, fun j hj => reqOf_updReq_other hj _ s, rfl⟩
    rw [holdLo, reqOf_updReq_same]
  · intro hg hi old v busy emptied c
    have hc : exec c s = .next (applyPair k ensAddrSpec hi.toNat s) := exec_ensAddr_hi hg hi
    refine ⟨fun h => ?_, fun h hb => ?_, fun h hb h64 => ?_⟩
    · rw [applyPair_same (f := ensAddrSpec) rfl h] at hc
      exact ⟨_, hc, emptied_of_bare rfl, rfl⟩
    · rw [applyPair_frozen (f := ensAddrSpec) rfl h ((frozen_ensAddr s).2 hb)] at hc
      obtain ⟨hn, hl, ht, hu⟩ := countIgnored_ignores (off := 0x104) (by decide) (emptyHold k 0x100 s)
      exact ⟨⟨_, hc, hn, hl, ht, updReq_of_bare hu⟩, _, hc, emptied_of_bare hu⟩
    · have hf : frozenNow .ensBusy 0x100 s = false := Bool.eq_false_iff.2 fun hf => hb ((frozen_ensAddr s).1 hf)
      obtain ⟨t, hw, hv, hn, ht, hu⟩ := writeField_rwf_align (f := ensAddrSpec) (s := emptyHold k 0x100 s) rfl rfl (by decide)
        h hf h64
      rw [applyPair_taken hw] at hc
      exact ⟨t, hc, emptied_of_bare hu, hv, hn, ht, updReq_of_bare hu⟩
  · intro hr
    exact ⟨congrArg _ (hungAccessResume_of_stopped hr k), fun m => congrArg _ (glbRingabort_of_stopped hr _)⟩
  · intro hr hp
    have hresume : exec (.hungAccessResume r) s = .next (resumeHeld k s) := congrArg _ (if_pos hr)
    refine ⟨fun a l hq hc => ?_, fun v hq hc => ?_, fun h => ?_, fun a b hq h => ?_⟩
    · rw [resumeHeld_of_closed hp hq hc] at hresume
      exact ⟨_, hresume, reqOf_setQueue_back hq, rfl⟩
    · exact ⟨_, hresume, resumeHeld_chunk hp hq hc⟩
    · have hx := (exec_glbRingabort_bit hr r).trans (congrArg _ (ringAbortBit_of_none h))
      obtain ⟨hn, hl, ht, -⟩ := countIgnored_ignores (off := 0x68) (by decide) s
      exact ⟨_, hx, hn, hl, ht, rfl⟩
    · obtain ⟨hempty, hothers, hcross, hcrosses, hcnt, hdrop, hsame, hframe⟩ := ringAbortBit_result hp hq h
      exact ⟨_, exec_glbRingabort_bit hr r, hempty, hothers, hcross, hcrosses, hcnt, hdrop, congrArg State.answer hframe,
        hsame, hframe.trans (by rw [congrArg State.answer hframe])⟩

end Sys2Proof.Safety
